-- ==== Sys2Proof/Word.lean ====
section
/-! DEFINITION. The word types of the Uvaform 2416 and their plainest arithmetic: bytes, 16-bit and 32-bit
fields of the exchange memory, and saturating counters (00_scope.md, "Counters and modular quantities"). -/

namespace Sys2Proof

/-- One byte of the exchange memory or of an order's parameter area. -/
abbrev Byte := BitVec 8

/-- A two-byte field: a pitch index, a change count, a post tag. -/
abbrev Half := BitVec 16

/-- A four-byte field: a part time, a register of the register window, a journal count. -/
abbrev Word := BitVec 32

/-- A count that saturates at `max` (00_scope.md: counts saturate at their maximum rather than wrap). -/
def satAdd (max n k : Nat) : Nat := min (n + k) max

end Sys2Proof
end

