-- ==== Sys2Proof/Config.lean ====
section
/-! DEFINITION. What is fixed for the machine: the periods the manual gives, in milliseconds, and the one
value it leaves to the physical store. -/

namespace Sys2Proof

/-- Whether a store write whose end falls at the given millisecond verifies (R165). The manual says what follows from
each outcome and not which comes about; a FREE VALUE, used only where the idle step itself delivers the end of a store
operation. A `STORE_OPERATION_END` command carries the outcome as its operand. -/
opaque Config.storeVerifies : Nat → Bool

/-- The scan timer's period (R8). -/
def Config.scanPeriodMs : Nat := 50

/-- The period of the journal unit's own reading of the take count (R156). -/
def Config.takeReadMs : Nat := 10

/-- The response timeout of the call loop for one unit of the loop scale (R42). -/
def Config.loopTimeoutMs : Nat := 2

/-- A LOST panel is polled this long after it was lost and after each of its polls (R40). -/
def Config.lostPollMs : Nat := 1000

/-- The wait of a display-link attempt for one unit of the link scale (R148). -/
def Config.linkWaitMs : Nat := 10

/-- The wait of a reset frame (R152). -/
def Config.resetWaitMs : Nat := 2000

/-- The wait before the next probe of a SEARCHING or FAULT board (R149). -/
def Config.probeMs : Nat := 5000

/-- The durations of the store operations (R162). -/
def Config.savePlanMs : Nat := 120
def Config.erasePlanMs : Nat := 60
def Config.saveSetupMs : Nat := 900

/-- The loop scale, link scale and refresh period (seconds) after either reset (R39, R154). -/
def Config.loopScaleReset : Nat := 4
def Config.linkScaleReset : Nat := 5
def Config.refreshReset : Nat := 10

/-- The journal notice settings after either reset (R160). -/
def Config.thresholdReset : Nat := 1
def Config.ageLimitReset : Nat := 500

end Sys2Proof
end

