-- ==== Sys2Proof/Syntax.lean ====
section
/-! DEFINITION. The commands of the block: one constructor for each row of spec/opcode_table.json, in the
table's order, with the operands the manual gives the row. Lines, drives and so on that the manual numbers from 1 are
indexed from 0 here: `Fin 8` index 0 is D1 or Z1, `Fin 160` index 0 is station 1, `Fin 24` index 0 is order slot 1.
Fields of an order's parameter area keep the manual's own numbers and widths. -/

namespace Sys2Proof

/-- The four call kinds in their fixed order (00_scope.md, "Call kinds"). -/
inductive Kind where
  | assist | material | quality | maint
  deriving DecidableEq, Repr

/-- The five press inputs of a station channel (00_scope.md). -/
inductive PressInput where
  | cord | material | quality | maint | key
  deriving DecidableEq, Repr

/-- The reading of the cabinet setup key input (R21). -/
inductive KeyReading where
  | run | edit
  deriving DecidableEq, Repr

/-- The reading of a drive's run feedback input (section 6.1). -/
inductive Feedback where
  | moving | stopped
  deriving DecidableEq, Repr

/-- The direction of an advance event (section 6.1). -/
inductive Direction where
  | forward | reverse
  deriving DecidableEq, Repr

/-- A write to a register of the register window: the value on the bus and which of its four bytes are written. -/
structure RegWrite where
  value   : Word
  enables : BitVec 4
  deriving DecidableEq, Repr

/-- How an order reaches the part: the slot it is posted in, its notify byte and post tag (section 1.3), and the
reading of the setup key input at its take (R21). -/
structure Post where
  slot   : Fin 24
  notify : Byte
  tag    : Half
  key    : KeyReading
  deriving DecidableEq, Repr

/-- DEFINE DRIVE's parameters (section 2.3). -/
structure DriveParams where
  drive     : Byte
  pitch     : Half
  notice    : Half
  tolerance : Half
  response  : Byte
  short     : Half
  deriving DecidableEq, Repr

/-- DEFINE ZONE's parameters (section 2.4). -/
structure ZoneParams where
  zone       : Byte
  drive      : Byte
  first      : Byte
  last       : Byte
  capacity   : Byte
  assist     : Byte
  material   : Byte
  quality    : Byte
  maint      : Byte
  extension  : Byte
  lossPolicy : Byte
  auto       : Byte
  name       : Byte
  deriving DecidableEq, Repr

/-- BIND STATIONS' parameters (R29). -/
structure BindParams where
  first : Byte
  count : Byte
  group : Byte
  base  : Byte
  deriving DecidableEq, Repr

/-- One level entry of DEFINE GROUP (R30). -/
structure LevelParams where
  delay  : Half
  output : Byte
  flash  : Byte
  deriving DecidableEq, Repr

/-- DEFINE GROUP's parameters (R30). -/
structure GroupParams where
  group  : Byte
  count  : Byte
  level1 : LevelParams
  level2 : LevelParams
  level3 : LevelParams
  deriving DecidableEq, Repr

/-- DEFINE TEXT's parameters (R31). -/
structure TextParams where
  entry : Byte
  chars : Vector Byte 16
  deriving DecidableEq, Repr

/-- One break of a shift plan block: offset and length in minutes. -/
structure BreakSpan where
  offset : Half
  length : Half
  deriving DecidableEq, Repr

/-- The shift plan block (section 1.9); its bytes 17, 42 and 43 are zero and carry nothing. -/
structure PlanBlock where
  name     : Byte
  mode     : Byte
  count    : Byte
  behind   : Byte
  start    : Word
  length   : Half
  takt     : Half
  target   : Half
  overtime : Half
  recovery : Byte
  breaks   : Vector BreakSpan 6
  deriving DecidableEq, Repr

/-- DEFINE BOARD's parameters (R140). -/
structure BoardParams where
  board   : Byte
  link    : Byte
  address : Byte
  mode    : Byte
  fields  : Byte
  deriving DecidableEq, Repr

/-- One field entry of DEFINE BOARD FIELDS (section 1.9). -/
structure FieldBytes where
  number : Byte
  source : Byte
  index1 : Byte
  index2 : Byte
  digits : Byte
  places : Byte
  signed : Byte
  flash  : Byte
  deriving DecidableEq, Repr

/-- DEFINE BOARD FIELDS' parameters (R141); only the first `count` entries are read. -/
structure FieldsParams where
  board   : Byte
  first   : Byte
  count   : Byte
  entries : Vector FieldBytes 5
  deriving DecidableEq, Repr

/-- One event of a panel's answer (section 3.1): `input` is absent when its input code is unknown (R42). -/
structure PanelEvent where
  number  : Byte
  channel : Nat
  input   : Option PressInput
  deriving DecidableEq, Repr

/-- A frame received on the call loop (R42): one that fails its frame check, or an answer. -/
inductive PanelFrame where
  | damaged
  | answer (address : Nat) (eventsLost : Bool) (events : List PanelEvent)
  deriving DecidableEq, Repr

/-- A frame received on a display link (R148, R152): one that fails its frame check, or a reply with its address, its
check value and its ready mark. -/
inductive BoardFrame where
  | damaged
  | reply (address : Nat) (check : Half) (ready : Bool)
  deriving DecidableEq, Repr

/-- The commands: one constructor for each row of spec/opcode_table.json, in its order. `writes` are the bytes the line
computer has written into the exchange memory since the command before (the table has no row for such a write). -/
inductive Instr where
  -- the register window and the two resets
  | powerOnReset
  | partReset (w : RegWrite)
  | orderHold (w : RegWrite)
  | attention (w : RegWrite) (writes : List Host.Cell)
  | causeWrite (w : RegWrite)
  | maskWrite (w : RegWrite)
  | registerWriteIgnored (offset : Nat) (w : RegWrite)
  | startUp
  -- the order unit
  | scanTimerExpiry
  | orderScan (key : KeyReading) (writes : List Host.Cell)
  | unlockOrders (p : Post)
  | stopAllWork (p : Post)
  -- line setup
  | defineDrive (p : Post) (q : DriveParams)
  | defineZone (p : Post) (q : ZoneParams)
  | bindStations (p : Post) (q : BindParams)
  | defineGroup (p : Post) (q : GroupParams)
  | defineText (p : Post) (q : TextParams)
  | setLoopTiming (p : Post) (scale : Byte)
  | setSetupProtection (p : Post) (mode : Byte)
  | lockSetup (p : Post)
  -- zone service, drives, buffers, panels
  | placeZoneInService (p : Post) (zone : Byte)
  | takeZoneOutOfService (p : Post) (zone : Byte)
  | forceDrain (p : Post) (zone : Byte)
  | holdDrive (p : Post) (drive : Byte)
  | releaseDrive (p : Post) (drive : Byte)
  | setBufferCount (p : Post) (buffer : Byte) (count : Byte)
  | resetPanelCounters (p : Post) (panel : Byte)
  -- calls
  | raiseCall (p : Post) (station : Byte) (kind : Byte)
  | answerCall (p : Post) (station : Byte) (kind : Byte)
  | clearCall (p : Post) (station : Byte) (kind : Byte)
  -- shift
  | setClock (p : Post) (second : Word) (day : Half)
  | defineShiftPlan (p : Post) (block : PlanBlock)
  | loadShiftPlan (p : Post) (place : Byte)
  | startShiftNow (p : Post)
  | endShift (p : Post)
  | collectPaceNotices (p : Post)
  -- boards
  | defineBoard (p : Post) (q : BoardParams)
  | enableBoard (p : Post) (board : Byte)
  | disableBoard (p : Post) (board : Byte)
  | resetBoard (p : Post) (board : Byte)
  | setLinkTiming (p : Post) (scale : Byte) (period : Byte)
  | refreshBoard (p : Post) (board : Byte)
  | defineBoardFields (p : Post) (q : FieldsParams)
  -- plan store, journal
  | savePlan (p : Post) (place : Byte) (block : PlanBlock)
  | erasePlan (p : Post) (place : Byte)
  | saveSetup (p : Post) (startPlace : Byte)
  | setJournalNotice (p : Post) (threshold : Half) (ageLimit : Half)
  | storeOperationEnd (verified : Bool)
  -- the call loop
  | pollSend
  | lostPollDue (panel : Fin 40)
  | panelAnswer (frame : PanelFrame)
  | responseTimeout
  -- escalation, drives, buffers
  | escalationExpiry (station : Fin 160) (kind : Kind)
  | advance (drive : Fin 8) (count : Half) (direction : Direction)
  | marker (drive : Fin 8)
  | runFeedbackChange (drive : Fin 8) (reading : Feedback)
  | supervisionExpiry (drive : Fin 8)
  | exitTransfer (zone : Fin 8)
  | bufferRelease (buffer : Fin 7)
  -- downtime and shift timers
  | totalsSecond
  | clockAdvance
  | breakBegin
  | breakEnd
  | plannedEnd
  | overtimeLimit
  | planRise
  -- display links
  | linkChoose (link : Fin 2)
  | boardReply (link : Fin 2) (frame : BoardFrame)
  | linkWaitExpiry (link : Fin 2)
  | resetWaitExpiry (link : Fin 2)
  | probeDue (board : Fin 16)
  | refreshTimerExpiry (board : Fin 16)
  | renderSecond
  -- journal and tally timers
  | takeCountRead (writes : List Host.Cell)
  | ageTimerExpiry
  | tallySecond
  deriving DecidableEq, Repr

end Sys2Proof
end

