-- ==== Sys2Proof/Decode.lean ====
section
/-! DEFINITION. The opcode table gives no row any bits ("fields" is empty in each of the 76 rows of
spec/opcode_table.json), so no word spells a command. -/

namespace Sys2Proof

/-- The command that a word spells by the table's bits: none, because no row gives bits. -/
def decodeTableWord (_nbits _w : Nat) : Option Instr := none

end Sys2Proof
end

