-- ==== Sys2Proof/Machine/Bytes.lean ====
section
/-! DEFINITION. Byte order (00_scope.md, "Offsets and values": multi-byte values are little-endian) and the two
ways a layout is written: a run of bytes, and a table of fields at offsets (section 1.9). -/

namespace Sys2Proof.Machine

/-- The `width` bytes of `v`, least significant first. -/
def leBytes : (width : Nat) → (v : Nat) → List Byte
  | 0, _ => []
  | w + 1, v => BitVec.ofNat 8 v :: leBytes w (v / 256)

/-- The number that bytes spell, least significant first. -/
def leNat : List Byte → Nat
  | [] => 0
  | b :: bs => b.toNat + 256 * leNat bs

/-- The two bytes of a 16-bit field. -/
def halfBytes (h : Half) : List Byte := [h.extractLsb' 0 8, h.extractLsb' 8 8]

/-- The four bytes of a 32-bit field. -/
def wordBytes (w : Word) : List Byte :=
  [w.extractLsb' 0 8, w.extractLsb' 8 8, w.extractLsb' 16 8, w.extractLsb' 24 8]

/-- Byte `i` of a run of bytes; zero beyond its end. -/
def byteAt (bs : List Byte) (i : Nat) : Byte := bs.getD i 0

/-- The 16-bit field at offset `i`. -/
def halfAt (bs : List Byte) (i : Nat) : Half := byteAt bs (i + 1) ++ byteAt bs i

/-- The 32-bit field at offset `i`. -/
def wordAt (bs : List Byte) (i : Nat) : Word :=
  byteAt bs (i + 3) ++ (byteAt bs (i + 2) ++ (byteAt bs (i + 1) ++ byteAt bs i))

/-- `bs` cut or filled with zeros to exactly `n` bytes. -/
def padTo (n : Nat) (bs : List Byte) : List Byte := bs.take n ++ List.replicate (n - bs.length) 0

/-- One line of a layout table: offset, width in bytes, value. -/
abbrev Field := Nat × Nat × Nat

/-- The bytes from offset `pos` to `size` of a row whose fields stand in rising offset order; bytes between fields are
zero (R18). -/
def layoutFrom (size : Nat) : (pos : Nat) → List Field → List Byte
  | pos, [] => List.replicate (size - pos) 0
  | pos, (o, w, v) :: rest => List.replicate (o - pos) 0 ++ leBytes w v ++ layoutFrom size (o + w) rest

/-- An optional field of `width` bytes: all ones when absent (R18). -/
def optField (width : Nat) : Option Nat → Nat
  | some v => v
  | none => 256 ^ width - 1

/-- The code of a mark: 1 set, 0 clear. -/
def bit (b : Bool) : Nat := if b then 1 else 0

/-- A signed field of four bytes, two's complement. -/
def signedField (v : Int) : Nat := (BitVec.ofInt 32 v).toNat

/-- A value saturating at the maximum of its field. -/
def satTo (max n : Nat) : Nat := min n max

/-- The index of the object numbered `v` among `n` objects that the manual numbers from 1. -/
def index? (n v : Nat) : Option (Fin n) :=
  if h : 1 ≤ v ∧ v ≤ n then some ⟨v - 1, by omega⟩ else none

/-- The number the manual gives the object with index `i`. -/
def num {n : Nat} (i : Fin n) : Nat := i.val + 1

/-- Replace entry `i` of a fixed table by its image under `f`. -/
def upd {α : Type} {n : Nat} (v : Vector α n) (i : Fin n) (f : α → α) : Vector α n := v.set i.val (f v[i]) i.isLt

/-- Apply `f` for each element of a list, first element first. -/
def each {α σ : Type} (l : List α) (f : α → σ → σ) (s : σ) : σ := l.foldl (fun t x => f x t) s

/-- The entries of a fixed table with their indexes, in order. -/
def enum {α : Type} {n : Nat} (v : Vector α n) : List (Fin n × α) := (List.finRange n).zip v.toList

end Sys2Proof.Machine
end

