-- ==== Sys2Proof/Machine/Operands.lean ====
section
/-! DEFINITION. Operand forms: the register write (R1), and the parameter area of each order (sections 1.7, 1.9 and the
owners' chapters) as the bytes an order is posted with and as what the part reads from them at the take (R9). -/

namespace Sys2Proof

open Machine

/-- The full 32-bit write that a narrower write acts as: its unwritten bytes are zero (R1). -/
def RegWrite.full (w : RegWrite) : Word :=
  let lane (i : Nat) : Byte := if w.enables.getLsbD i then w.value.extractLsb' (8 * i) 8 else 0
  lane 3 ++ (lane 2 ++ (lane 1 ++ lane 0))

/-- PART RESET, bit 31 of a PART CONTROL write (R2). -/
def RegWrite.partResetBit (w : RegWrite) : Bool := w.full.getLsbD 31

/-- ORDER HOLD, bit 0 of a PART CONTROL write (R2). -/
def RegWrite.orderHoldBit (w : RegWrite) : Bool := w.full.getLsbD 0

/-- The number of a kind, in the fixed order (00_scope.md). -/
def Kind.index : Kind → Fin 4
  | .assist => 0
  | .material => 1
  | .quality => 2
  | .maint => 3

def Kind.code (k : Kind) : Nat := k.index.val

/-- The four kinds in their fixed order. -/
def Kind.all : List Kind := [.assist, .material, .quality, .maint]

/-- The kind an order's kind byte names (section 4.5). -/
def Kind.ofCode? : Nat → Option Kind
  | 0 => some .assist
  | 1 => some .material
  | 2 => some .quality
  | 3 => some .maint
  | _ => none

/-- The kind a press input raises; KEY raises none (00_scope.md). -/
def PressInput.kind? : PressInput → Option Kind
  | .cord => some .assist
  | .material => some .material
  | .quality => some .quality
  | .maint => some .maint
  | .key => none

namespace Machine

/-- Every byte of a list of window writes lies in the exchange memory, 0x0000 to 0x8FFF (section 1.2). -/
def insideWindow (writes : List Host.Cell) : Bool := writes.all fun c => decide (c.1 < 0x9000)

/-- The offsets of the register window whose writes are ignored: IDENT, and 0x14 to 0x1F (section 1.1, R1). -/
def ignoredOffset (offset : Nat) : Bool := decide (offset < 0x04) || (decide (0x14 ≤ offset) && decide (offset ≤ 0x1F))

/-- An order with the parameters read at its take. -/
inductive Order where
  | unlockOrders
  | stopAllWork
  | defineDrive (q : DriveParams)
  | defineZone (q : ZoneParams)
  | bindStations (q : BindParams)
  | defineGroup (q : GroupParams)
  | defineText (q : TextParams)
  | setLoopTiming (scale : Byte)
  | setSetupProtection (mode : Byte)
  | lockSetup
  | placeZoneInService (zone : Byte)
  | takeZoneOutOfService (zone : Byte)
  | forceDrain (zone : Byte)
  | holdDrive (drive : Byte)
  | releaseDrive (drive : Byte)
  | setBufferCount (buffer : Byte) (count : Byte)
  | resetPanelCounters (panel : Byte)
  | raiseCall (station : Byte) (kind : Byte)
  | answerCall (station : Byte) (kind : Byte)
  | clearCall (station : Byte) (kind : Byte)
  | setClock (second : Word) (day : Half)
  | defineShiftPlan (block : PlanBlock)
  | loadShiftPlan (place : Byte)
  | startShiftNow
  | endShift
  | collectPaceNotices
  | defineBoard (q : BoardParams)
  | enableBoard (board : Byte)
  | disableBoard (board : Byte)
  | resetBoard (board : Byte)
  | setLinkTiming (scale : Byte) (period : Byte)
  | refreshBoard (board : Byte)
  | defineBoardFields (q : FieldsParams)
  | savePlan (place : Byte) (block : PlanBlock)
  | erasePlan (place : Byte)
  | saveSetup (startPlace : Byte)
  | setJournalNotice (threshold : Half) (ageLimit : Half)
  deriving DecidableEq, Repr

end Machine

/-! The bytes of each parameter block, in the order of its table. -/

def DriveParams.bytes (q : DriveParams) : List Byte :=
  q.drive :: (halfBytes q.pitch ++ halfBytes q.notice ++ halfBytes q.tolerance ++ q.response :: halfBytes q.short)

def ZoneParams.bytes (q : ZoneParams) : List Byte :=
  [q.zone, q.drive, q.first, q.last, q.capacity, q.assist, q.material, q.quality, q.maint, q.extension,
    q.lossPolicy, q.auto, q.name]

def BindParams.bytes (q : BindParams) : List Byte := [q.first, q.count, q.group, q.base]

def LevelParams.bytes (q : LevelParams) : List Byte := halfBytes q.delay ++ [q.output, q.flash]

def GroupParams.bytes (q : GroupParams) : List Byte :=
  q.group :: q.count :: (q.level1.bytes ++ q.level2.bytes ++ q.level3.bytes)

def TextParams.bytes (q : TextParams) : List Byte := q.entry :: q.chars.toList

def BreakSpan.bytes (b : BreakSpan) : List Byte := halfBytes b.offset ++ halfBytes b.length

def PlanBlock.bytes (b : PlanBlock) : List Byte :=
  [b.name, b.mode, b.count, b.behind] ++ wordBytes b.start ++ halfBytes b.length ++ halfBytes b.takt
    ++ halfBytes b.target ++ halfBytes b.overtime ++ [b.recovery, 0] ++ (b.breaks.toList.map BreakSpan.bytes).flatten
    ++ [0, 0]

def BoardParams.bytes (q : BoardParams) : List Byte := [q.board, q.link, q.address, q.mode, q.fields]

def FieldBytes.bytes (e : FieldBytes) : List Byte :=
  [e.number, e.source, e.index1, e.index2, e.digits, e.places, e.signed, e.flash]

def FieldsParams.bytes (q : FieldsParams) : List Byte :=
  q.board :: q.first :: q.count :: (q.entries.toList.map FieldBytes.bytes).flatten

/-! What the part reads from a parameter area. -/

def DriveParams.ofBytes (b : List Byte) : DriveParams :=
  { drive := byteAt b 0, pitch := halfAt b 1, notice := halfAt b 3, tolerance := halfAt b 5, response := byteAt b 7,
    short := halfAt b 8 }

def ZoneParams.ofBytes (b : List Byte) : ZoneParams :=
  { zone := byteAt b 0, drive := byteAt b 1, first := byteAt b 2, last := byteAt b 3, capacity := byteAt b 4,
    assist := byteAt b 5, material := byteAt b 6, quality := byteAt b 7, maint := byteAt b 8, extension := byteAt b 9,
    lossPolicy := byteAt b 10, auto := byteAt b 11, name := byteAt b 12 }

def BindParams.ofBytes (b : List Byte) : BindParams :=
  { first := byteAt b 0, count := byteAt b 1, group := byteAt b 2, base := byteAt b 3 }

def LevelParams.ofBytes (b : List Byte) (i : Nat) : LevelParams :=
  { delay := halfAt b i, output := byteAt b (i + 2), flash := byteAt b (i + 3) }

def GroupParams.ofBytes (b : List Byte) : GroupParams :=
  { group := byteAt b 0, count := byteAt b 1, level1 := .ofBytes b 2, level2 := .ofBytes b 6, level3 := .ofBytes b 10 }

def TextParams.ofBytes (b : List Byte) : TextParams :=
  { entry := byteAt b 0, chars := Vector.ofFn fun i => byteAt b (1 + i.val) }

def BreakSpan.ofBytes (b : List Byte) (i : Nat) : BreakSpan := { offset := halfAt b i, length := halfAt b (i + 2) }

/-- The shift plan block that begins at offset `i`. -/
def PlanBlock.ofBytes (b : List Byte) (i : Nat) : PlanBlock :=
  { name := byteAt b i, mode := byteAt b (i + 1), count := byteAt b (i + 2), behind := byteAt b (i + 3),
    start := wordAt b (i + 4), length := halfAt b (i + 8), takt := halfAt b (i + 10), target := halfAt b (i + 12),
    overtime := halfAt b (i + 14), recovery := byteAt b (i + 16),
    breaks := Vector.ofFn fun k => .ofBytes b (i + 18 + 4 * k.val) }

def BoardParams.ofBytes (b : List Byte) : BoardParams :=
  { board := byteAt b 0, link := byteAt b 1, address := byteAt b 2, mode := byteAt b 3, fields := byteAt b 4 }

def FieldBytes.ofBytes (b : List Byte) (i : Nat) : FieldBytes :=
  { number := byteAt b i, source := byteAt b (i + 1), index1 := byteAt b (i + 2), index2 := byteAt b (i + 3),
    digits := byteAt b (i + 4), places := byteAt b (i + 5), signed := byteAt b (i + 6), flash := byteAt b (i + 7) }

def FieldsParams.ofBytes (b : List Byte) : FieldsParams :=
  { board := byteAt b 0, first := byteAt b 1, count := byteAt b 2,
    entries := Vector.ofFn fun k => .ofBytes b (3 + 8 * k.val) }

namespace Machine

/-- The order kind byte of each order (the order summary table of section 1.7). -/
def Order.code : Order → Byte
  | .unlockOrders => 0x01
  | .stopAllWork => 0x02
  | .defineDrive _ => 0x10
  | .defineZone _ => 0x11
  | .bindStations _ => 0x12
  | .defineGroup _ => 0x13
  | .defineText _ => 0x14
  | .setLoopTiming _ => 0x15
  | .setSetupProtection _ => 0x16
  | .lockSetup => 0x17
  | .placeZoneInService _ => 0x20
  | .takeZoneOutOfService _ => 0x21
  | .forceDrain _ => 0x22
  | .holdDrive _ => 0x23
  | .releaseDrive _ => 0x24
  | .setBufferCount _ _ => 0x25
  | .resetPanelCounters _ => 0x26
  | .raiseCall _ _ => 0x30
  | .answerCall _ _ => 0x31
  | .clearCall _ _ => 0x32
  | .setClock _ _ => 0x40
  | .defineShiftPlan _ => 0x41
  | .loadShiftPlan _ => 0x42
  | .startShiftNow => 0x43
  | .endShift => 0x44
  | .collectPaceNotices => 0x45
  | .defineBoard _ => 0x50
  | .enableBoard _ => 0x51
  | .disableBoard _ => 0x52
  | .resetBoard _ => 0x53
  | .setLinkTiming _ _ => 0x54
  | .refreshBoard _ => 0x55
  | .defineBoardFields _ => 0x56
  | .savePlan _ _ => 0x60
  | .erasePlan _ => 0x61
  | .saveSetup _ => 0x62
  | .setJournalNotice _ _ => 0x70

/-- The parameter bytes an order is posted with, from the start of the parameter area. -/
def Order.params : Order → List Byte
  | .unlockOrders => []
  | .stopAllWork => []
  | .defineDrive q => q.bytes
  | .defineZone q => q.bytes
  | .bindStations q => q.bytes
  | .defineGroup q => q.bytes
  | .defineText q => q.bytes
  | .setLoopTiming x => [x]
  | .setSetupProtection x => [x]
  | .lockSetup => []
  | .placeZoneInService x => [x]
  | .takeZoneOutOfService x => [x]
  | .forceDrain x => [x]
  | .holdDrive x => [x]
  | .releaseDrive x => [x]
  | .setBufferCount x y => [x, y]
  | .resetPanelCounters x => [x]
  | .raiseCall x y => [x, y]
  | .answerCall x y => [x, y]
  | .clearCall x y => [x, y]
  | .setClock sec day => wordBytes sec ++ halfBytes day
  | .defineShiftPlan b => b.bytes
  | .loadShiftPlan x => [x]
  | .startShiftNow => []
  | .endShift => []
  | .collectPaceNotices => []
  | .defineBoard q => q.bytes
  | .enableBoard x => [x]
  | .disableBoard x => [x]
  | .resetBoard x => [x]
  | .setLinkTiming x y => [x, y]
  | .refreshBoard x => [x]
  | .defineBoardFields q => q.bytes
  | .savePlan x b => [x, 0, 0, 0] ++ b.bytes
  | .erasePlan x => [x]
  | .saveSetup x => [x]
  | .setJournalNotice t a => halfBytes t ++ halfBytes a

/-- The order that a kind byte and a parameter area spell; none for a code outside the order summary table (R9). -/
def parseOrder (kind : Byte) (b : List Byte) : Option Order :=
  match kind.toNat with
  | 0x01 => some .unlockOrders
  | 0x02 => some .stopAllWork
  | 0x10 => some (.defineDrive (.ofBytes b))
  | 0x11 => some (.defineZone (.ofBytes b))
  | 0x12 => some (.bindStations (.ofBytes b))
  | 0x13 => some (.defineGroup (.ofBytes b))
  | 0x14 => some (.defineText (.ofBytes b))
  | 0x15 => some (.setLoopTiming (byteAt b 0))
  | 0x16 => some (.setSetupProtection (byteAt b 0))
  | 0x17 => some .lockSetup
  | 0x20 => some (.placeZoneInService (byteAt b 0))
  | 0x21 => some (.takeZoneOutOfService (byteAt b 0))
  | 0x22 => some (.forceDrain (byteAt b 0))
  | 0x23 => some (.holdDrive (byteAt b 0))
  | 0x24 => some (.releaseDrive (byteAt b 0))
  | 0x25 => some (.setBufferCount (byteAt b 0) (byteAt b 1))
  | 0x26 => some (.resetPanelCounters (byteAt b 0))
  | 0x30 => some (.raiseCall (byteAt b 0) (byteAt b 1))
  | 0x31 => some (.answerCall (byteAt b 0) (byteAt b 1))
  | 0x32 => some (.clearCall (byteAt b 0) (byteAt b 1))
  | 0x40 => some (.setClock (wordAt b 0) (halfAt b 4))
  | 0x41 => some (.defineShiftPlan (.ofBytes b 0))
  | 0x42 => some (.loadShiftPlan (byteAt b 0))
  | 0x43 => some .startShiftNow
  | 0x44 => some .endShift
  | 0x45 => some .collectPaceNotices
  | 0x50 => some (.defineBoard (.ofBytes b))
  | 0x51 => some (.enableBoard (byteAt b 0))
  | 0x52 => some (.disableBoard (byteAt b 0))
  | 0x53 => some (.resetBoard (byteAt b 0))
  | 0x54 => some (.setLinkTiming (byteAt b 0) (byteAt b 1))
  | 0x55 => some (.refreshBoard (byteAt b 0))
  | 0x56 => some (.defineBoardFields (.ofBytes b))
  | 0x60 => some (.savePlan (byteAt b 0) (.ofBytes b 4))
  | 0x61 => some (.erasePlan (byteAt b 0))
  | 0x62 => some (.saveSetup (byteAt b 0))
  | 0x70 => some (.setJournalNotice (halfAt b 0) (halfAt b 2))
  | _ => none

/-- The setup-changing orders (section 2.2): codes 0x10 to 0x17, 0x50, 0x54, 0x56 and 0x62. -/
def Order.setupChanging : Order → Bool
  | .defineDrive _ => true
  | .defineZone _ => true
  | .bindStations _ => true
  | .defineGroup _ => true
  | .defineText _ => true
  | .setLoopTiming _ => true
  | .setSetupProtection _ => true
  | .lockSetup => true
  | .defineBoard _ => true
  | .setLinkTiming _ _ => true
  | .defineBoardFields _ => true
  | .saveSetup _ => true
  | _ => false

/-- The two orders a LOCKED order unit still hands to itself (R9, R13). -/
def Order.takenWhenLocked : Order → Bool
  | .unlockOrders => true
  | .stopAllWork => true
  | _ => false

end Machine

end Sys2Proof
end

