-- ==== Sys2Proof/Machine/State.lean ====
section
/-! DEFINITION. The state of the Uvaform 2416 as plain data: every block's holdings (00_scope.md, "Block overview"), the
input pins, the exchange memory and the queue of waiting commands; and the state right after a power-on reset.

Objects numbered from 1 by the manual are indexed from 0. Part times that the manual keeps as 32-bit stamps are `Word`;
the instants of running timers are absolute counts (of milliseconds, or of tenths where their unit is the tenth) since the
last power-on, which is what "counting forward from the instant the timer was set" needs. -/

namespace Sys2Proof.Machine

/-! ### Part condition and pins -/

/-- R2: STARTING until start-up completes, then RUNNING. -/
inductive PartState where
  | starting | running
  deriving DecidableEq, Repr

/-- The reset that the present start-up follows (R166, step 3). -/
inductive ResetKind where
  | powerOn | part
  deriving DecidableEq, Repr

/-- The input pins: the cabinet setup key and the run feedback of each drive. -/
structure Pins where
  key      : KeyReading
  feedback : Vector Feedback 8
  deriving DecidableEq, Repr

/-! ### The exchange memory -/

/-- The exchange memory (section 1.2) and the part's own change count of each row (R6). `mem` lists the bytes that are
not zero, by strictly rising address; an unlisted byte reads zero (R5: cleared at a power-on reset). -/
structure Window where
  mem    : List Host.Cell
  counts : Vector Half 346
  deriving DecidableEq, Repr

/-! ### Order unit (section 1.4) -/

/-- The lock record (R12). -/
structure LockRecord where
  reason  : Nat
  slot    : Nat
  kind    : Byte
  value   : Byte
  further : Nat
  deriving DecidableEq, Repr

/-- A long order in work: its slot, and the notify flag and post tag read at its take (R7). -/
structure Work where
  slot   : Fin 24
  notify : Bool
  tag    : Half
  deriving DecidableEq, Repr

/-- The order unit. `scanning` says that a scan has begun and not yet been carried out, `further` marks one further
scan (R3), `scanDue` is the instant of the 50 ms scan timer. -/
structure OrderUnit where
  locked   : Bool
  hold     : Bool
  lock     : LockRecord
  takePos  : Fin 24
  inWork   : List Work
  scanning : Bool
  further  : Bool
  scanDue  : Option Nat
  deriving DecidableEq, Repr

/-! ### Setup unit (R19) -/

structure DriveDef where
  pitch     : Nat
  notice    : Nat
  tolerance : Nat
  response  : Nat
  short     : Nat
  deriving DecidableEq, Repr

/-- A zone's definition (section 2.4); `stopping` is the resolved stop policy of each kind. -/
structure ZoneDef where
  drive      : Fin 8
  first      : Nat
  last       : Nat
  capacity   : Nat
  stopping   : Vector Bool 4
  extension  : Nat
  ignoreLoss : Bool
  auto       : Bool
  name       : Nat
  deriving DecidableEq, Repr

/-- A station's group (0 unbound) and name text entry (0 none). -/
structure Binding where
  group : Nat
  name  : Nat
  deriving DecidableEq, Repr

structure Level where
  delay  : Nat
  output : Nat
  flash  : Bool
  deriving DecidableEq, Repr

/-- A group's ladder (R69): its level count and three level entries. -/
structure Ladder where
  count  : Nat
  levels : Vector Level 3
  deriving DecidableEq, Repr

/-- The zone service states (section 2.7). -/
inductive Service where
  | outOfService | inService | draining
  deriving DecidableEq, Repr

/-- The setup status of the header (section 1.9). -/
inductive SetupStatus where
  | notScanned | loaded | absent | damaged
  deriving DecidableEq, Repr

/-- The setup unit. `drainSlot` and `drainCalls` are a zone's drain slot and the number of calls open when its drain
began; `startPlace` is the start-up place of the loaded image (0 none). -/
structure Setup where
  drives     : Vector (Option DriveDef) 8
  zones      : Vector (Option ZoneDef) 8
  bindings   : Vector Binding 160
  ladders    : Vector Ladder 24
  texts      : Vector (Vector Byte 16) 64
  keyed      : Bool
  lockdown   : Bool
  service    : Vector Service 8
  drainSlot  : Vector (Option (Fin 24)) 8
  drainCalls : Vector Nat 8
  status     : SetupStatus
  startPlace : Nat
  deriving DecidableEq, Repr

/-! ### Call table (chapter 4) -/

inductive Origin where
  | panel | order
  deriving DecidableEq, Repr

/-- A call's stop status (R54). -/
inductive StopStatus where
  | none
  | armed (deadline : Half)
  | due (at_ : Word)
  deriving DecidableEq, Repr

/-- A call entry (R54), with the group fixed at its raise (R69). `nextEscalation` counts tenths since power-on. -/
structure Call where
  answered       : Bool
  origin         : Origin
  serial         : Nat
  raisedAt       : Word
  answeredAt     : Option Word
  repeats        : Nat
  group          : Nat
  level          : Nat
  nextEscalation : Option Nat
  stop           : StopStatus
  deriving DecidableEq, Repr

/-- The parts of a station row that the call table keeps (R53). -/
structure Station where
  panelLost   : Bool
  ignored     : Nat
  raisedShift : Nat
  calls       : Vector (Option Call) 4
  deriving DecidableEq, Repr

/-- The place of an open call: its station, kind and serial. -/
structure CallRef where
  station : Fin 160
  kind    : Kind
  serial  : Nat
  deriving DecidableEq, Repr

/-- The call table: station rows, each zone's active-call list (R56) and the serial the next call takes (R55). -/
structure CallTable where
  stations   : Vector Station 160
  active     : Vector (List CallRef) 8
  nextSerial : Nat
  deriving DecidableEq, Repr

/-! ### Call loop controller (chapter 3) -/

inductive PanelState where
  | unfitted | seeking | online | weak | lost
  deriving DecidableEq, Repr

inductive Lamp where
  | off | steady | slowFlash | fastFlash
  deriving DecidableEq, Repr

/-- A panel's record (R39). `history` lists the outcomes of at most 8 polls, oldest first, true for a failure.
`dueAt` is the instant at which a LOST panel's next poll falls due, `due` that it has fallen due (R40). -/
structure Panel where
  state      : PanelState
  base       : Bool
  last       : Byte
  lamps      : Vector Lamp 4
  history    : List Bool
  failures   : Nat
  answered   : Nat
  failed     : Nat
  mismatches : Nat
  eventsLost : Nat
  dueAt      : Option Nat
  due        : Bool
  deriving DecidableEq, Repr

/-- The poll in progress (R41, R42): `lamps` are those of the last attempt sent, `waitEnd` the instant its response
timeout expires, `void` that the panel has become UNFITTED since (R43). -/
structure Poll where
  panel   : Fin 40
  attempt : Nat
  lamps   : Vector Lamp 4
  waitEnd : Nat
  void    : Bool
  deriving DecidableEq, Repr

structure CallLoop where
  panels   : Vector Panel 40
  rotation : Fin 40
  scale    : Nat
  poll     : Option Poll
  deriving DecidableEq, Repr

/-! ### Drive unit (chapter 6) -/

/-- An entry of a demand set (R90). -/
inductive Demand where
  | call (ref : CallRef)
  | hold
  | panel (panel : Fin 40) (zone : Fin 8)
  deriving DecidableEq, Repr

/-- The stop response supervision (R95); times are tenths since power-on. -/
inductive Supervision where
  | idle
  | timing (entered : Nat) (limit : Nat)
  | notStopping (entered : Nat)
  deriving DecidableEq, Repr

/-- A drive's motion state (R80). -/
structure Drive where
  pitch        : Half
  count        : Nat
  reverse      : Nat
  markerFaults : Nat
  feedback     : Feedback
  demand       : List Demand
  stopRequest  : Bool
  supervision  : Supervision
  watching     : Bool
  overrun      : Nat
  deriving DecidableEq, Repr

/-- A buffer's count and anomaly counts (R97). -/
structure Buffer where
  count     : Nat
  overruns  : Nat
  underruns : Nat
  deriving DecidableEq, Repr

/-- The zone display status (R102), in the order of its codes 0 to 10. -/
inductive Display where
  | off | draining | callStop | hold | coupledStop | onBreak | blocked | starved | stopped | calling | run
  deriving DecidableEq, Repr

structure DriveUnit where
  drives  : Vector Drive 8
  buffers : Vector Buffer 7
  display : Vector Display 8
  deriving DecidableEq, Repr

/-! ### Attribution unit (chapter 7) -/

/-- A cause with its detail (R104). -/
inductive Cause where
  | call (station : Fin 160) (kind : Kind)
  | hold
  | panel (panel : Fin 40)
  | blocked
  | starved
  | unexplained
  deriving DecidableEq, Repr

/-- A charge: a cause, or BREAK (R109). -/
inductive Charge where
  | cause (c : Cause)
  | onBreak
  deriving DecidableEq, Repr

/-- One segment: its charge, and start offset and length in tenths. -/
structure Segment where
  charge : Charge
  start  : Nat
  length : Nat
  deriving DecidableEq, Repr

/-- A stoppage record (section 1.9, R104). `holders` are the zones that hold the present CALL or PANEL charge (R111). -/
structure StopRecord where
  number     : Half
  drive      : Fin 8
  isShort    : Bool
  isCut      : Bool
  continued  : Bool
  continues  : Bool
  outside    : Bool
  folded     : Bool
  folds      : Nat
  start      : Word
  startE     : Option Nat
  endAt      : Option Word
  duration   : Option Nat
  overrun    : Nat
  segments   : List Segment
  evaluated  : Cause
  charge     : Charge
  holders    : List (Fin 8)
  zones      : List (Fin 8)
  shortLimit : Nat
  deriving DecidableEq, Repr

/-- A drive's open slot (R104, R105). -/
inductive OpenSlot where
  | unused
  | opened (r : StopRecord)
  | closed (r : StopRecord)
  deriving DecidableEq, Repr

/-- A zone's downtime totals in tenths by category, its counts, and the part time up to which they are brought (R104). -/
structure ZoneTotals where
  totals : Vector Nat 9
  stops  : Nat
  shorts : Nat
  last   : Word
  deriving DecidableEq, Repr

/-- The attribution unit; `lastNumber` is the number of the last record opened. -/
structure Attribution where
  slots      : Vector OpenSlot 8
  lastNumber : Half
  history    : Vector (Option StopRecord) 64
  position   : Fin 64
  totals     : Vector ZoneTotals 8
  deriving DecidableEq, Repr

/-! ### Shift unit (chapter 8) -/

/-- A plan with its source: 0 inline, 1 to 16 the place (section 8.2). -/
structure Plan where
  block  : PlanBlock
  source : Nat
  deriving DecidableEq, Repr

inductive ShiftState where
  | idle | pending | running | onBreak | overtime
  deriving DecidableEq, Repr

inductive CloseReason where
  | plannedEnd | targetReached | overtimeLimit | endShift
  deriving DecidableEq, Repr

/-- The clock (R121); `nextAdvance` is the instant of its next one-second advance. -/
structure Clock where
  isSet       : Bool
  second      : Nat
  day         : Nat
  nextAdvance : Nat
  deriving DecidableEq, Repr

/-- One zone of a shift history entry (R136); `downtime` in whole seconds. -/
structure HistoryZone where
  defined  : Bool
  behind   : Bool
  count    : Nat
  downtime : Vector Nat 9
  stops    : Nat
  shorts   : Nat
  deriving DecidableEq, Repr

/-- A shift history entry (R136). -/
structure HistoryEntry where
  name      : Nat
  source    : Nat
  reason    : CloseReason
  startPart : Word
  startTime : Option (Nat × Nat)
  elapsed   : Nat
  working   : Nat
  target    : Nat
  plan      : Nat
  actual    : Nat
  calls     : Nat
  pace      : Option Nat
  zones     : Vector HistoryZone 8
  deriving DecidableEq, Repr

/-- The shift unit. `elapsed`, `working`, `pace` and `zonePace` are E, W and the paces as last brought up to date;
`startTenths` is the tenth since power-on at which the shift started, `breakTaken` the tenths of its finished breaks,
`breakFrom` E at the start of the break in course, `breaksBegun` the number of breaks begun. -/
structure Shift where
  clock       : Clock
  pending     : Option Plan
  current     : Option Plan
  next        : Option Plan
  state       : ShiftState
  sinceReset  : Bool
  shown       : Option Plan
  breaksBegun : Nat
  breakFrom   : Nat
  breakTaken  : Nat
  startTenths : Nat
  startPart   : Word
  startTime   : Option (Nat × Nat)
  elapsed     : Nat
  working     : Nat
  planCount   : Nat
  actual      : Nat
  pace        : Option Nat
  unplanned   : Nat
  callsRaised : Nat
  closeReason : Option CloseReason
  zoneCount   : Vector Nat 8
  zoneBehind  : Vector Bool 8
  zonePace    : Vector (Option Nat) 8
  behindList  : List (Fin 8)
  recovered   : List (Fin 8 × Bool)
  history     : List HistoryEntry
  deriving DecidableEq, Repr

/-! ### Board composer and display links (chapter 9) -/

structure BoardDef where
  link    : Fin 2
  address : Nat
  silent  : Bool
  fields  : Nat
  deriving DecidableEq, Repr

/-- The sources of a field (section 1.9); indexes count from 0. -/
inductive Source where
  | zoneStatus (z : Fin 8)
  | zoneCount (z : Fin 8)
  | zoneDiff (z : Fin 8)
  | zoneDowntime (z : Fin 8)
  | zonePace (z : Fin 8)
  | oldestCallAge (z : Fin 8)
  | lineActual
  | linePlan
  | lineTarget
  | lineDiff
  | linePace
  | shiftRemaining
  | clock
  | stationStrip (first : Fin 160) (count : Nat)
  | groupLevel (g : Fin 24)
  | groupWaiting (g : Fin 24)
  | text (t : Fin 64)
  deriving DecidableEq, Repr

structure FieldEntry where
  source : Source
  digits : Nat
  places : Nat
  signed : Bool
  flash  : Bool
  deriving DecidableEq, Repr

/-- Rendered content: an attribute value and a run of characters or codes (R144). -/
structure Content where
  attr  : Nat
  chars : List Byte
  deriving DecidableEq, Repr

inductive LinkState where
  | disabled | searching | online | fault | resetting
  deriving DecidableEq, Repr

/-- A board (R139). `probeAt` is the instant at which its next probe falls due, `probeDue` that it has; `resetUnsent`
that its reset frame waits for the link's choice. -/
structure Board where
  definition  : Option BoardDef
  entries     : Vector (Option FieldEntry) 32
  content     : Vector Content 32
  stale       : Vector Bool 32
  state       : LinkState
  resetSlot   : Option (Fin 24)
  refreshAt   : Option Nat
  probeAt     : Option Nat
  probeDue    : Bool
  resetUnsent : Bool
  sent        : Nat
  noAnswer    : Nat
  checkBad    : Nat
  addressBad  : Nat
  resets      : Nat
  deriving DecidableEq, Repr

/-- The three kinds of frame (R147); a field frame carries field indexes with the content sent. -/
inductive FrameKind where
  | fields (carried : List (Fin 32 × Content))
  | probe
  | reset
  deriving DecidableEq, Repr

/-- The frame outstanding on a link, its attempt count and the end of the wait in course. -/
structure Outstanding where
  board   : Fin 16
  kind    : FrameKind
  attempt : Nat
  waitEnd : Nat
  deriving DecidableEq, Repr

structure Link where
  rotation : Fin 16
  frame    : Option Outstanding
  deriving DecidableEq, Repr

structure Boards where
  boards  : Vector Board 16
  links   : Vector Link 2
  scale   : Nat
  refresh : Nat
  deriving DecidableEq, Repr

/-! ### Journal unit (chapter 10) -/

/-- A journal entry as its block gives it (section 1.9); the journal unit adds the sequence. -/
structure Entry where
  time    : Word
  kind    : Nat
  flags   : Nat
  subject : Nat
  detailA : Nat
  detailB : Nat
  deriving DecidableEq, Repr

/-- The journal unit (R155). `writtenAt` holds the write instant of the entry in each row of the ring (R158). -/
structure Journal where
  put       : Word
  sequence  : Word
  gap       : Nat
  overflow  : Bool
  accepted  : Word
  lastBad   : Option Word
  threshold : Nat
  ageLimit  : Nat
  ageTimer  : Option Nat
  writtenAt : Vector Nat 512
  deriving DecidableEq, Repr

/-- The cause set, the mask and the interrupt line (R4, R159). -/
structure Interrupts where
  cause : BitVec 5
  mask  : BitVec 5
  line  : Bool
  deriving DecidableEq, Repr

/-! ### Plan store (chapter 11) -/

inductive PlaceState where
  | empty | valid | damaged
  deriving DecidableEq, Repr

/-- What a place physically holds: nothing, contents that match their check value, or anything else (R161, R166). -/
inductive Stored (α : Type) where
  | erased
  | good (contents : α)
  | bad
  deriving DecidableEq, Repr

/-- A place of the store: its state in the directory, what it holds, and its mark of an operation in work (R165). -/
structure Place (α : Type) where
  state  : PlaceState
  stored : Stored α
  marked : Bool
  deriving DecidableEq, Repr

/-- The setup image's part for one board (R139). -/
structure BoardImage where
  definition : Option BoardDef
  entries    : Vector (Option FieldEntry) 32
  enabled    : Bool
  deriving DecidableEq, Repr

/-- The setup image (R19, R164). -/
structure SetupImage where
  drives     : Vector (Option DriveDef) 8
  zones      : Vector (Option ZoneDef) 8
  bindings   : Vector Binding 160
  ladders    : Vector Ladder 24
  texts      : Vector (Vector Byte 16) 64
  keyed      : Bool
  boards     : Vector BoardImage 16
  startPlace : Nat
  deriving DecidableEq, Repr

/-- The store operations (R162) with what they carry. -/
inductive StoreJob where
  | savePlan (place : Fin 16) (block : PlanBlock)
  | erasePlan (place : Fin 16)
  | saveSetup (image : SetupImage)
  deriving DecidableEq, Repr

/-- The operation in work: its slot, its job and the instant its duration has run. -/
structure StoreOp where
  slot  : Fin 24
  job   : StoreJob
  endAt : Nat
  deriving DecidableEq, Repr

/-- The plan store; it is WORKING while `op` is present (R162). -/
structure Store where
  plans : Vector (Place PlanBlock) 16
  setup : Place SetupImage
  op    : Option StoreOp
  deriving DecidableEq, Repr

/-! ### The whole machine -/

/-- The state of the block. `ms` counts milliseconds since the last power-on; part time is its count of tenths. `alerts`
is the number of RAISED calls whose current level names each alert output (R75). `pending` is the queue of commands. -/
structure State where
  ms      : Nat
  part    : PartState
  resetKind : ResetKind
  pins    : Pins
  win     : Window
  ord     : OrderUnit
  setup   : Setup
  calls   : CallTable
  alerts  : Vector Nat 8
  loop    : CallLoop
  drv     : DriveUnit
  attr    : Attribution
  shift   : Shift
  brd     : Boards
  jrn     : Journal
  irq     : Interrupts
  store   : Store
  pending : List Instr
  deriving DecidableEq, Repr

/-- The reasons the machine stops with a fault. What the manual calls FAULT is an interrupt cause; the part goes on. -/
inductive Fault where
  /-- A window write to an offset at or above 0x9000, where the exchange memory has no byte (section 1.2: it runs from
  offset 0x0000 to 0x8FFF). Raised by the three commands that carry window writes. Safe: the machine stops. -/
  | outsideWindow
  deriving DecidableEq, Repr

/-- The reasons a command is refused. -/
inductive Refusal where
  /-- A command whose meaning is not written. Raised by no arm of `exec`. Safe: the machine stops. -/
  | notModelled (mnemonic : String)
  /-- A term that is no command of its row (`Instr.wellFormed` is false): a PART CONTROL write whose bit 31 belongs to the
  other row, an ignored write to an offset that is not ignored, an advance of no counts. Raised by the meanings of those rows. Safe: the machine stops where the hardware has no such event. -/
  | illFormed
  deriving DecidableEq, Repr

/-! ### Reset values of the blocks -/

def OrderUnit.initial : OrderUnit :=
  { locked := false, hold := false, lock := ⟨0, 0, 0, 0, 0⟩, takePos := 23, inWork := [], scanning := false,
    further := false, scanDue := none }

def Ladder.empty : Ladder := ⟨0, Vector.replicate 3 ⟨0, 0, false⟩⟩

/-- The setup unit with nothing defined (R19, setup status ABSENT or DAMAGED), before the scan. -/
def Setup.initial : Setup :=
  { drives := Vector.replicate 8 none, zones := Vector.replicate 8 none, bindings := Vector.replicate 160 ⟨0, 0⟩,
    ladders := Vector.replicate 24 Ladder.empty, texts := Vector.replicate 64 (Vector.replicate 16 0), keyed := false,
    lockdown := false, service := Vector.replicate 8 .outOfService, drainSlot := Vector.replicate 8 none,
    drainCalls := Vector.replicate 8 0, status := .notScanned, startPlace := 0 }

def Station.initial : Station := ⟨false, 0, 0, Vector.replicate 4 none⟩

def CallTable.initial : CallTable :=
  { stations := Vector.replicate 160 Station.initial, active := Vector.replicate 8 [], nextSerial := 1 }

def Panel.initial : Panel :=
  { state := .unfitted, base := false, last := 0, lamps := Vector.replicate 4 .off, history := [], failures := 0,
    answered := 0, failed := 0, mismatches := 0, eventsLost := 0, dueAt := none, due := false }

def CallLoop.initial : CallLoop :=
  { panels := Vector.replicate 40 Panel.initial, rotation := 39, scale := Config.loopScaleReset, poll := none }

def Drive.initial : Drive :=
  { pitch := 0, count := 0, reverse := 0, markerFaults := 0, feedback := .moving, demand := [], stopRequest := false,
    supervision := .idle, watching := false, overrun := 0 }

def DriveUnit.initial : DriveUnit :=
  { drives := Vector.replicate 8 Drive.initial, buffers := Vector.replicate 7 ⟨0, 0, 0⟩,
    display := Vector.replicate 8 .off }

def ZoneTotals.initial (now : Word) : ZoneTotals := ⟨Vector.replicate 9 0, 0, 0, now⟩

def Attribution.initial : Attribution :=
  { slots := Vector.replicate 8 .unused, lastNumber := 0, history := Vector.replicate 64 none, position := 0,
    totals := Vector.replicate 8 (ZoneTotals.initial 0) }

def Clock.initial : Clock := ⟨false, 0, 0, 0⟩

def Shift.initial : Shift :=
  { clock := Clock.initial, pending := none, current := none, next := none, state := .idle, sinceReset := false,
    shown := none, breaksBegun := 0, breakFrom := 0, breakTaken := 0, startTenths := 0, startPart := 0, startTime := none,
    elapsed := 0, working := 0, planCount := 0, actual := 0, pace := none, unplanned := 0, callsRaised := 0,
    closeReason := none, zoneCount := Vector.replicate 8 0, zoneBehind := Vector.replicate 8 false,
    zonePace := Vector.replicate 8 none, behindList := [], recovered := [], history := [] }

def Content.empty : Content := ⟨0, []⟩

def Board.initial : Board :=
  { definition := none, entries := Vector.replicate 32 none, content := Vector.replicate 32 Content.empty,
    stale := Vector.replicate 32 false, state := .disabled, resetSlot := none, refreshAt := none, probeAt := none,
    probeDue := false, resetUnsent := false, sent := 0, noAnswer := 0, checkBad := 0, addressBad := 0, resets := 0 }

def Boards.initial : Boards :=
  { boards := Vector.replicate 16 Board.initial, links := Vector.replicate 2 ⟨15, none⟩,
    scale := Config.linkScaleReset, refresh := Config.refreshReset }

def Journal.initial : Journal :=
  { put := 0, sequence := 1, gap := 0, overflow := false, accepted := 0, lastBad := none,
    threshold := Config.thresholdReset, ageLimit := Config.ageLimitReset, ageTimer := none,
    writtenAt := Vector.replicate 512 0 }

def Interrupts.initial : Interrupts := ⟨0, 0, false⟩

/-- A store whose 17 places are all EMPTY. The store outlives power, so the manual gives no contents: DESIGN CHOICE. -/
def Store.initial : Store :=
  { plans := Vector.replicate 16 ⟨.empty, .erased, false⟩, setup := ⟨.empty, .erased, false⟩, op := none }

/-- The machine right after a power-on reset (R5, R16, R19, R39, R53, R68, R79, R103, R119, R138, R154, R160, R166 step 1):
STARTING, the exchange memory clear, every block at its power-on values, no command waiting. The store's contents and the
readings of the input pins are DESIGN CHOICES: every place EMPTY, the key at RUN, every drive MOVING. -/
def State.reset : State :=
  { ms := 0, part := .starting, resetKind := .powerOn, pins := ⟨.run, Vector.replicate 8 .moving⟩,
    win := ⟨[], Vector.replicate 346 0⟩, ord := OrderUnit.initial, setup := Setup.initial, calls := CallTable.initial,
    alerts := Vector.replicate 8 0, loop := CallLoop.initial, drv := DriveUnit.initial, attr := Attribution.initial,
    shift := Shift.initial, brd := Boards.initial, jrn := Journal.initial, irq := Interrupts.initial,
    store := Store.initial, pending := [] }

end Sys2Proof.Machine
end

