-- ==== Sys2Proof/Machine/Views.lean ====
section
/-! DEFINITION. What the blocks read from the state without changing it: the two clocks, the line's geometry, the open
calls, the shift's times, and the codes by which states are shown (section 1.9). -/

namespace Sys2Proof.Machine

/-! ### Time (00_scope.md, "Time") -/

/-- The tenths since the last power-on, not wrapped. -/
def State.tenths (s : State) : Nat := s.ms / 100

/-- Part time: a 32-bit count of tenths. -/
def State.partTime (s : State) : Word := BitVec.ofNat 32 (s.ms / 100)

/-- The tenths from one part time to another, modulo 2^32. -/
def tenthsBetween (a b : Word) : Nat := (b - a).toNat

/-- The command is an event of the instant `t` (a timer's expiry): the part's time stands at that instant, or later when
the event is taken late. -/
def State.reach (t : Nat) (s : State) : State := { s with ms := max s.ms t }

/-! ### The line (chapter 2) -/

def State.zone (s : State) (z : Fin 8) : Option ZoneDef := s.setup.zones[z]

def State.drive (s : State) (d : Fin 8) : Drive := s.drv.drives[d]

/-- The zone's range includes the station numbered `n`. -/
def ZoneDef.holds (d : ZoneDef) (n : Nat) : Bool := decide (d.first ≤ n) && decide (n ≤ d.last)

/-- The station numbered `n` lies in the defined zone `z`. -/
def State.zoneHolds (s : State) (n : Nat) (z : Fin 8) : Bool :=
  match s.zone z with
  | some d => d.holds n
  | none => false

/-- A station's zone: the defined zone whose range includes it (R19). -/
def State.stationZone (s : State) (n : Fin 160) : Option (Fin 8) := (List.finRange 8).find? (s.zoneHolds (num n))

/-- The panel and the channel that serve a station (R28). -/
def panelOf (n : Fin 160) : Fin 40 := ⟨n.val / 4, by omega⟩
def channelOf (n : Fin 160) : Fin 4 := ⟨n.val % 4, by omega⟩

/-- The station on a channel of a panel (R46). -/
def stationAt (p : Fin 40) (c : Fin 4) : Fin 160 := ⟨4 * p.val + c.val, by omega⟩

/-- The four stations of a panel. -/
def stationsOf (p : Fin 40) : List (Fin 160) := (List.finRange 4).map (stationAt p)

/-- The panel serves a station of the zone. -/
def State.serves (s : State) (p : Fin 40) (z : Fin 8) : Bool := (stationsOf p).any fun n => s.zoneHolds (num n) z

/-- A panel is fitted while one of its stations lies in a defined zone (R28). -/
def State.fitted (s : State) (p : Fin 40) : Bool := (List.finRange 8).any (s.serves p)

/-- The drive of a defined zone. -/
def State.zoneDrive (s : State) (z : Fin 8) : Option (Fin 8) := (s.zone z).map ZoneDef.drive

/-- The defined zones on a drive, in flow order. -/
def State.zonesOn (s : State) (d : Fin 8) : List (Fin 8) :=
  (List.finRange 8).filter fun z => s.zoneDrive z == some d

/-- The last defined zone, the source of the line actual (R26). -/
def State.lastZone (s : State) : Option (Fin 8) :=
  ((List.finRange 8).filter fun z => (s.zone z).isSome).getLast?

/-- A zone IN SERVICE or DRAINING. -/
def State.works (s : State) (z : Fin 8) : Bool := s.setup.service[z] != .outOfService

/-- The working zones of a drive. -/
def State.workingZones (s : State) (d : Fin 8) : List (Fin 8) := (s.zonesOn d).filter s.works

/-- The zones before and after a buffer (section 6.6: Bk stands between Zk and Zk+1). -/
def zoneBefore (k : Fin 7) : Fin 8 := ⟨k.val, by omega⟩
def zoneAfter (k : Fin 7) : Fin 8 := ⟨k.val + 1, by omega⟩

/-- The capacity of the zone a buffer stands after; 0 when that zone is not defined. -/
def State.capacityAfter (s : State) (z : Fin 8) : Nat := ((s.zone z).map ZoneDef.capacity).getD 0

/-- Buffer Bk exists while Zk and Zk+1 are defined and Zk's capacity is not 0 (R26). -/
def State.bufferExists (s : State) (k : Fin 7) : Bool :=
  (s.zone (zoneBefore k)).isSome && (s.zone (zoneAfter k)).isSome && s.capacityAfter (zoneBefore k) != 0

/-- A buffer's capacity while it exists, 0 otherwise (R97). -/
def State.bufferCapacity (s : State) (k : Fin 7) : Nat :=
  if s.bufferExists k then s.capacityAfter (zoneBefore k) else 0

def State.bufferCount (s : State) (k : Fin 7) : Nat := s.drv.buffers[k].count

/-- Full and empty (R97); an absent buffer is neither. -/
def State.bufferFull (s : State) (k : Fin 7) : Bool := s.bufferExists k && s.bufferCount k == s.bufferCapacity k
def State.bufferEmpty (s : State) (k : Fin 7) : Bool := s.bufferExists k && s.bufferCount k == 0

/-- The drive's exit buffer is the one after its last zone, its entry buffer the one before its first (R27). -/
def State.exitFull (s : State) (d : Fin 8) : Bool :=
  match (s.zonesOn d).getLast? with
  | some z => if h : z.val < 7 then s.bufferFull ⟨z.val, h⟩ else false
  | none => false
def State.entryEmpty (s : State) (d : Fin 8) : Bool :=
  match (s.zonesOn d).head? with
  | some z => if h : 0 < z.val then s.bufferEmpty ⟨z.val - 1, by omega⟩ else false
  | none => false

/-! ### Calls and ladders (chapters 4 and 5) -/

/-- The open call of a kind at a station. -/
def State.call (s : State) (n : Fin 160) (k : Kind) : Option Call := (s.calls.stations[n]).calls[k.index]

/-- A station's open calls, in kind order. -/
def State.stationCalls (s : State) (n : Fin 160) : List (Kind × Call) :=
  Kind.all.filterMap fun k => (s.call n k).map fun c => (k, c)

/-- Every open call of the part, in the station table. -/
def State.openCalls (s : State) : List Call :=
  (s.calls.stations.toList.map fun st => st.calls.toList.filterMap id).flatten

/-- The ladder of the group numbered `g`; group 0 has a ladder of 0 levels (R69). -/
def State.ladder (s : State) (g : Nat) : Ladder :=
  match index? 24 g with
  | some i => s.setup.ladders[i]
  | none => Ladder.empty

/-- Level `l` of a ladder: absent for level 0 and above the level count (R69). -/
def Ladder.level? (l : Ladder) (n : Nat) : Option Level :=
  if n ≤ l.count then (index? 3 n).map fun i => l.levels[i] else none

/-- The output a call's current level names, 0 for none (R75). -/
def State.outputOf (s : State) (c : Call) : Nat :=
  if c.answered then 0 else (((s.ladder c.group).level? c.level).map Level.output).getD 0

/-- The open calls of a group: RAISED and ANSWERED (R77). -/
def State.groupRaised (s : State) (g : Fin 24) : List Call :=
  s.openCalls.filter fun c => c.group == num g && !c.answered
def State.groupAnswered (s : State) (g : Fin 24) : List Call :=
  s.openCalls.filter fun c => c.group == num g && c.answered

def maxOf (l : List Nat) : Nat := l.foldl max 0

/-- The highest level among a group's RAISED calls (R77). -/
def State.groupHighest (s : State) (g : Fin 24) : Nat := maxOf ((s.groupRaised g).map Call.level)

/-- The flash mark of a group (R77). -/
def State.groupFlash (s : State) (g : Fin 24) : Bool :=
  ((s.setup.ladders[g].level? (s.groupHighest g)).map Level.flash).getD false && !(s.groupRaised g).isEmpty

/-- The set of outputs named by a group's RAISED calls: bit i − 1 for output i (R77). -/
def State.groupOutputs (s : State) (g : Fin 24) : Nat :=
  ((List.finRange 8).map fun i =>
    if (s.groupRaised g).any (fun c => s.outputOf c == num i) then 2 ^ i.val else 0).foldl (· + ·) 0

/-- The earliest next escalation time among a group's RAISED calls (R77), in tenths since power-on. -/
def State.groupNext (s : State) (g : Fin 24) : Option Nat :=
  ((s.groupRaised g).filterMap Call.nextEscalation).foldl
    (fun m t => some (match m with | some x => min x t | none => t)) none

/-- Insert a call into a list in increasing serial order. -/
def insertSerial (r : CallRef) : List CallRef → List CallRef
  | [] => [r]
  | x :: xs => if r.serial ≤ x.serial then r :: x :: xs else x :: insertSerial r xs

/-- The call a reference names, if it is still open. -/
def State.callAt (s : State) (r : CallRef) : Option Call := s.call r.station r.kind

/-- The drive's armed-call list (R80): the open calls of its zones whose stop status is not NONE, in increasing serial
order. Its stop statuses are those of the call entries. -/
def State.armedCalls (s : State) (d : Fin 8) : List CallRef :=
  (((s.zonesOn d).map fun z => s.calls.active[z]).flatten.filter fun r =>
    ((s.callAt r).map Call.stop).getD .none != .none).foldr insertSerial []

/-- A demand-set entry is a DUE call (R90). -/
def Demand.isCall : Demand → Bool
  | .call _ => true
  | _ => false

def Demand.isPanel : Demand → Bool
  | .panel _ _ => true
  | _ => false

/-- The DUE calls of a demand set. -/
def dueCalls (l : List Demand) : List CallRef :=
  l.filterMap fun e => match e with
    | .call r => some r
    | _ => none

/-- The DUE call with the smallest serial. -/
def oldestDue (l : List Demand) : Option CallRef := ((dueCalls l).foldr insertSerial []).head?

/-- The zones that a demand set's PANEL entries for a panel name (R111). -/
def panelZones (l : List Demand) (p : Fin 40) : List (Fin 8) :=
  l.filterMap fun e => match e with
    | .panel q z => if q = p then some z else none
    | _ => none

/-- The lowest panel number among the PANEL entries (R108). -/
def lowestPanel (l : List Demand) : Option (Fin 40) :=
  (l.filterMap fun e => match e with
    | .panel q _ => some q
    | _ => none).foldl (fun m p => some (match m with | some q => if q ≤ p then q else p | none => p)) none

/-! ### The shift (chapter 8) -/

/-- RUNNING, ON BREAK and OVERTIME are the open states (section 8.3). -/
def ShiftState.isOpen : ShiftState → Bool
  | .running => true
  | .onBreak => true
  | .overtime => true
  | _ => false

def State.shiftOpen (s : State) : Bool := s.shift.state.isOpen

/-- E: the elapsed tenths of the open shift; the closed shift's figure otherwise (R126, R128). -/
def State.shiftE (s : State) : Nat := if s.shiftOpen then s.tenths - s.shift.startTenths else s.shift.elapsed

/-- W: the part of E not spent ON BREAK (R126). -/
def State.shiftW (s : State) : Nat :=
  if s.shiftOpen then (if s.shift.state = .onBreak then s.shift.breakFrom else s.shiftE) - s.shift.breakTaken
  else s.shift.working

/-- The pace of a count against W and takt, in per-mille (R131). -/
def paceOf (count working takt : Nat) : Option Nat :=
  if working < takt ∨ working = 0 then none
  else some (min ((count * takt * 1000 + working / 2) / working) 1999)

/-- The place numbered `n` is the source of a PENDING, current or NEXT plan (R124). -/
def State.inUse (s : State) (n : Nat) : Bool :=
  [s.shift.pending, s.shift.current, s.shift.next].any fun p => (p.map Plan.source) == some n

/-- A zone's behind value: the plan count minus the zone count (R130). -/
def State.behindValue (s : State) (z : Fin 8) : Int := (s.shift.planCount : Int) - (s.shift.zoneCount[z] : Int)

/-! ### The journal (chapter 10) -/

/-- The unread count, as of the last read of the take count (R156). -/
def State.unread (s : State) : Nat := (s.jrn.put - s.jrn.accepted).toNat

/-! ### Codes -/

def PartState.code : PartState → Nat
  | .starting => 0
  | .running => 1

def keyCode : KeyReading → Nat
  | .run => 0
  | .edit => 1

def feedbackCode : Feedback → Nat
  | .moving => 0
  | .stopped => 1

def Service.code : Service → Nat
  | .outOfService => 0
  | .inService => 1
  | .draining => 2

def SetupStatus.code : SetupStatus → Nat
  | .notScanned => 0
  | .loaded => 1
  | .absent => 2
  | .damaged => 3

def Origin.code : Origin → Nat
  | .panel => 0
  | .order => 1

def StopStatus.code : StopStatus → Nat
  | .none => 0
  | .armed _ => 1
  | .due _ => 2

def PanelState.code : PanelState → Nat
  | .unfitted => 0
  | .seeking => 1
  | .online => 2
  | .weak => 3
  | .lost => 4

def Lamp.code : Lamp → Nat
  | .off => 0
  | .steady => 1
  | .slowFlash => 2
  | .fastFlash => 3

def Supervision.code : Supervision → Nat
  | .idle => 0
  | .timing _ _ => 1
  | .notStopping _ => 2

def Display.code : Display → Nat
  | .off => 0
  | .draining => 1
  | .callStop => 2
  | .hold => 3
  | .coupledStop => 4
  | .onBreak => 5
  | .blocked => 6
  | .starved => 7
  | .stopped => 8
  | .calling => 9
  | .run => 10

/-- The cause code and detail of a segment (section 1.9). -/
def Charge.code : Charge → Nat
  | .cause (.call _ k) => k.code + 1
  | .cause .hold => 5
  | .cause (.panel _) => 6
  | .cause .blocked => 7
  | .cause .starved => 8
  | .cause .unexplained => 9
  | .onBreak => 10
def Charge.detail : Charge → Nat
  | .cause (.call n _) => num n
  | .cause (.panel p) => num p
  | _ => 0

/-- A record's flags byte (section 1.9). -/
def StopRecord.flags (r : StopRecord) : Nat :=
  bit r.isShort + 2 * bit r.isCut + 4 * bit r.continued + 8 * bit r.continues + 16 * bit r.outside + 32 * bit r.folded

def ShiftState.code : ShiftState → Nat
  | .idle => 0
  | .pending => 1
  | .running => 2
  | .onBreak => 3
  | .overtime => 4

def CloseReason.code : CloseReason → Nat
  | .plannedEnd => 1
  | .targetReached => 2
  | .overtimeLimit => 3
  | .endShift => 4

def LinkState.code : LinkState → Nat
  | .disabled => 0
  | .searching => 1
  | .online => 2
  | .fault => 3
  | .resetting => 4

def PlaceState.code : PlaceState → Nat
  | .empty => 0
  | .valid => 1
  | .damaged => 2

end Sys2Proof.Machine
end

