-- ==== Sys2Proof/Machine/Flags.lean ====
section
/-! DEFINITION. The status the line computer reads through the register window: the interrupt causes, the mask and the
interrupt line (R4, R159), PART CONTROL (R2), and the five registers (R1). -/

namespace Sys2Proof.Machine

/-- The five interrupt causes, in the order of their bits (R4). -/
inductive CauseName where
  | orderDone | journal | pace | locked | fault
  deriving DecidableEq, Repr

/-- The set holding one cause. -/
def CauseName.mask : CauseName → BitVec 5
  | .orderDone => 0b00001
  | .journal => 0b00010
  | .pace => 0b00100
  | .locked => 0b01000
  | .fault => 0b10000

/-- A cause set and a mask with the interrupt line they give: asserted while a pending cause is in the mask (R159). -/
def interruptsOf (cause mask : BitVec 5) : Interrupts := ⟨cause, mask, (cause &&& mask) != 0⟩

/-- Raise a cause: add it to the pending set (R159). -/
def raiseCause (c : CauseName) (s : State) : State :=
  { s with irq := interruptsOf (s.irq.cause ||| c.mask) s.irq.mask }

/-- Raise a cause if a condition holds. -/
def raiseIf (b : Bool) (c : CauseName) (s : State) : State :=
  { s with irq := if b then interruptsOf (s.irq.cause ||| c.mask) s.irq.mask else s.irq }

/-- A write to CAUSE removes every cause whose bit is written as 1 (R4). -/
def clearCauses (w : Word) (s : State) : State :=
  { s with irq := interruptsOf (s.irq.cause &&& ~~~(w.truncate 5)) s.irq.mask }

/-- A write to MASK replaces the mask (R4). -/
def setMask (w : Word) (s : State) : State := { s with irq := interruptsOf s.irq.cause (w.truncate 5) }

/-- IDENT: vendor 0x5A31, part 0x24, revision 1, nine units of 4 KiB (R1). -/
def identValue : Word := 0x91245A31

/-- What a read of PART CONTROL returns (R2). -/
def State.partControl (s : State) : Word :=
  BitVec.ofNat 32 (s.part.code + 2 * bit s.ord.locked + 4 * bit s.ord.hold + 256 * s.ord.inWork.length)

/-- A read of the register at an offset of the register window (R1, R2, R4, section 1.1). -/
def State.readRegister (s : State) (offset : Nat) : Word :=
  match offset with
  | 0x00 => identValue
  | 0x04 => s.partControl
  | 0x0C => s.irq.cause.zeroExtend 32
  | 0x10 => s.irq.mask.zeroExtend 32
  | _ => 0

end Sys2Proof.Machine
end

