-- ==== Sys2Proof/Machine/Layout.lean ====
section
/-! DEFINITION. The areas of the exchange memory (section 1.2) and the byte layout of every row (section 1.9), as tables of
fields (offset, width, value) like the manual's own. -/

namespace Sys2Proof.Machine

/-- The rows that begin with a change count (R6). -/
inductive Row where
  | header
  | drive (d : Fin 8)
  | zone (z : Fin 8)
  | buffer (k : Fin 7)
  | group (g : Fin 24)
  | panel (p : Fin 40)
  | board (b : Fin 16)
  | tally
  | paceLists
  | station (n : Fin 160)
  | openSlot (d : Fin 8)
  | history (i : Fin 64)
  | shiftHistory (i : Fin 8)
  deriving DecidableEq, Repr

/-- The offset at which a row begins (section 1.2). -/
def Row.base : Row → Nat
  | .header => 0x0000
  | .drive d => 0x0700 + 64 * d.val
  | .zone z => 0x0900 + 128 * z.val
  | .buffer k => 0x0D00 + 16 * k.val
  | .group g => 0x0D80 + 32 * g.val
  | .panel p => 0x1080 + 32 * p.val
  | .board b => 0x1580 + 64 * b.val
  | .tally => 0x1980
  | .paceLists => 0x1A80
  | .station n => 0x1B00 + 64 * n.val
  | .openSlot d => 0x4300 + 96 * d.val
  | .history i => 0x4600 + 96 * i.val
  | .shiftHistory i => 0x5E00 + 256 * i.val

/-- The size of a row in bytes (section 1.2). -/
def Row.size : Row → Nat
  | .header => 256
  | .drive _ => 64
  | .zone _ => 128
  | .buffer _ => 16
  | .group _ => 32
  | .panel _ => 32
  | .board _ => 64
  | .tally => 256
  | .paceLists => 32
  | .station _ => 64
  | .openSlot _ => 96
  | .history _ => 96
  | .shiftHistory _ => 256

/-- The place of a row's change count in `Window.counts`. -/
def Row.index : Row → Fin 346
  | .header => 0
  | .drive d => ⟨1 + d.val, by omega⟩
  | .zone z => ⟨9 + z.val, by omega⟩
  | .buffer k => ⟨17 + k.val, by omega⟩
  | .group g => ⟨24 + g.val, by omega⟩
  | .panel p => ⟨48 + p.val, by omega⟩
  | .board b => ⟨88 + b.val, by omega⟩
  | .tally => 104
  | .paceLists => 105
  | .station n => ⟨106 + n.val, by omega⟩
  | .openSlot d => ⟨266 + d.val, by omega⟩
  | .history i => ⟨274 + i.val, by omega⟩
  | .shiftHistory i => ⟨338 + i.val, by omega⟩

/-- Where the order slots, the text table and the journal stand (section 1.2). -/
def slotBase (k : Fin 24) : Nat := 0x0100 + 64 * k.val
def textBase (t : Fin 64) : Nat := 0x6600 + 16 * t.val
def journalBase (row : Nat) : Nat := 0x7000 + 16 * row

/-- The journal take count in the header, which the line computer writes (section 1.9). -/
def takeCountOffset : Nat := 0x10

/-! ### Header -/

/-- The header's fields before the take count. -/
def headerFields1 (s : State) : List Field :=
  [(0x02, 1, s.part.code), (0x03, 1, s.setup.status.code), (0x04, 1, s.ord.lock.reason), (0x05, 1, s.ord.lock.slot),
    (0x06, 1, s.ord.lock.kind.toNat), (0x07, 1, s.ord.lock.value.toNat), (0x08, 2, s.ord.lock.further),
    (0x0C, 4, s.jrn.put.toNat)]

/-- The plan-store directory: 17 pairs of state and in-use mark; the setup place has no plan and is never in use. -/
def directoryFields (s : State) : List Field :=
  ((List.finRange 16).map fun i =>
    [(0x28 + 2 * i.val, 1, s.store.plans[i].state.code), (0x29 + 2 * i.val, 1, bit (s.inUse (num i)))]).flatten
    ++ [(0x48, 1, s.store.setup.state.code)]

/-- The header's fields after the take count. -/
def headerFields2 (s : State) : List Field :=
  [(0x14, 4, s.jrn.gap), (0x18, 1, bit s.jrn.overflow), (0x1A, 2, s.jrn.threshold), (0x1C, 2, s.jrn.ageLimit),
    (0x20, 4, s.shift.clock.second), (0x24, 2, s.shift.clock.day), (0x26, 1, bit s.shift.clock.isSet)]
    ++ directoryFields s ++ [(0x4A, 1, bit s.store.op.isSome)]

/-! ### Drive, zone and buffer rows -/

def driveFields (s : State) (d : Fin 8) : List Field :=
  let v := s.drive d
  let due := dueCalls v.demand
  (match s.setup.drives[d] with
    | some f => [(2, 1, 1), (3, 1, f.response), (4, 2, f.pitch), (6, 2, f.notice), (8, 2, f.tolerance), (10, 2, f.short)]
    | none => [])
  ++ [(12, 2, v.pitch.toNat), (14, 2, v.count), (16, 4, v.reverse), (20, 2, v.markerFaults),
    (22, 1, feedbackCode v.feedback), (23, 1, bit v.stopRequest), (24, 2, due.length),
    (26, 1, bit (v.demand.contains .hold)), (27, 1, (v.demand.filter Demand.isPanel).length),
    (28, 4, optField 4 ((oldestDue v.demand).map CallRef.serial)), (32, 1, v.supervision.code), (36, 4, v.overrun)]

/-- The shown code of a stop policy: 1 STOPPING, 2 NON-STOPPING. -/
def policyCode (stopping : Bool) : Nat := if stopping then 1 else 2

def zoneFields (s : State) (z : Fin 8) : List Field :=
  (match s.zone z with
    | some f => [(2, 1, 1), (3, 1, num f.drive), (4, 1, f.first), (5, 1, f.last), (6, 1, f.capacity),
        (7, 1, policyCode f.stopping[0]), (8, 1, policyCode f.stopping[1]), (9, 1, policyCode f.stopping[2]),
        (10, 1, policyCode f.stopping[3]), (11, 1, f.extension), (12, 1, bit f.ignoreLoss), (13, 1, bit f.auto),
        (14, 1, f.name)]
    | none => [])
  ++ [(15, 1, s.setup.service[z].code), (16, 1, optField 1 (s.setup.drainSlot[z].map num)),
    (17, 1, s.drv.display[z].code), (18, 2, s.shift.zoneCount[z]), (20, 4, signedField (s.behindValue z)),
    (24, 1, bit s.shift.zoneBehind[z]), (26, 2, optField 2 s.shift.zonePace[z])]
  ++ ((List.finRange 9).map fun c => (28 + 4 * c.val, 4, s.attr.totals[z].totals[c]))
  ++ [(64, 2, s.attr.totals[z].stops), (66, 2, s.attr.totals[z].shorts)]

def bufferFields (s : State) (k : Fin 7) : List Field :=
  (if s.bufferExists k then
    [(2, 1, 1), (3, 1, s.bufferCapacity k), (4, 1, s.bufferCount k), (5, 1, bit (s.bufferFull k)),
      (6, 1, bit (s.bufferEmpty k))]
    else [])
  ++ [(8, 2, s.drv.buffers[k].overruns), (10, 2, s.drv.buffers[k].underruns)]

/-! ### Group, panel, board and station rows -/

def groupFields (s : State) (g : Fin 24) : List Field :=
  let l := s.setup.ladders[g]
  [(2, 1, l.count), (3, 1, s.groupHighest g)]
  ++ ((List.finRange 3).map fun i =>
      match l.level? (num i) with
      | some v => [(4 + 4 * i.val, 2, v.delay), (6 + 4 * i.val, 1, v.output), (7 + 4 * i.val, 1, bit v.flash)]
      | none => []).flatten
  ++ [(16, 2, (s.groupRaised g).length), (18, 2, (s.groupAnswered g).length), (20, 1, bit (s.groupFlash g)),
    (21, 1, s.groupOutputs g), (22, 1, bit (s.groupNext g).isSome), (24, 4, optField 4 (s.groupNext g))]

/-- The failures among a poll history (R39). -/
def failuresIn (h : List Bool) : Nat := (h.filter id).length

def panelFields (s : State) (p : Fin 40) : List Field :=
  let v := s.loop.panels[p]
  [(2, 1, v.state.code), (3, 1, bit v.base), (4, 1, v.last.toNat)]
  ++ ((List.finRange 4).map fun c => (5 + c.val, 1, v.lamps[c].code))
  ++ [(9, 1, failuresIn v.history), (10, 2, v.failures), (12, 2, v.answered), (14, 2, v.failed), (16, 2, v.mismatches),
    (18, 2, v.eventsLost)]

/-- The content carries OVER (R144: the attribute is 1 for OVER plus 2 for FLASH). -/
def Content.hasOver (c : Content) : Bool := c.attr % 2 == 1

/-- The fields 1 up to the board's field count. -/
def Board.inUse (b : Board) (f : Fin 32) : Bool :=
  match b.definition with
  | some d => decide (num f ≤ d.fields)
  | none => false

def Board.staleCount (b : Board) : Nat := (b.stale.toList.filter id).length

/-- The OVER set: bit f − 1 for field f (R139). -/
def Board.overSet (b : Board) : Nat :=
  ((List.finRange 32).map fun f => if b.inUse f && b.content[f].hasOver then 2 ^ f.val else 0).foldl (· + ·) 0

def boardFields (s : State) (i : Fin 16) : List Field :=
  let b := s.brd.boards[i]
  (match b.definition with
    | some d => [(2, 1, 1), (3, 1, num d.link), (4, 1, d.address), (5, 1, bit d.silent), (6, 1, d.fields)]
    | none => [])
  ++ [(7, 1, b.state.code), (8, 1, optField 1 (b.resetSlot.map num)), (9, 1, b.staleCount), (12, 4, b.overSet),
    (16, 2, b.sent), (18, 2, b.noAnswer), (20, 2, b.checkBad), (22, 2, b.addressBad), (24, 2, b.resets)]

/-- One call entry of a station row, from offset `o`; zero throughout when there is no call (section 1.9). -/
def callFields (o : Nat) : Option Call → List Field
  | none => []
  | some c =>
    [(o, 1, if c.answered then 2 else 1), (o + 1, 1, c.origin.code), (o + 2, 1, c.level), (o + 3, 1, c.repeats),
      (o + 4, 1, c.stop.code), (o + 5, 4, c.serial),
      (o + 9, 2, match c.stop with
        | .none => optField 2 none
        | .armed d => d.toNat
        | .due t => satTo 65534 (tenthsBetween c.raisedAt t / 10)),
      (o + 11, 2, optField 2 (c.answeredAt.map fun t => satTo 65534 (tenthsBetween c.raisedAt t / 10)))]

def stationFields (s : State) (n : Fin 160) : List Field :=
  let v := s.calls.stations[n]
  [(2, 1, match s.stationZone n with
      | some z => num z
      | none => 0), (3, 1, s.setup.bindings[n].group), (4, 1, s.setup.bindings[n].name), (5, 1, bit v.panelLost),
    (6, 2, v.ignored), (8, 2, v.raisedShift)]
  ++ ((List.finRange 4).map fun k => callFields (10 + 13 * k.val) v.calls[k]).flatten

/-! ### Stoppage records -/

def segmentFields (o : Nat) (g : Segment) : List Field :=
  [(o, 1, g.charge.code), (o + 1, 1, g.charge.detail), (o + 2, 3, satTo 16777215 g.start),
    (o + 5, 3, satTo 16777215 g.length)]

def recordFields (use : Nat) (r : StopRecord) : List Field :=
  [(2, 2, r.number.toNat), (4, 1, use), (5, 1, num r.drive), (6, 1, r.flags), (7, 1, r.segments.length), (8, 2, r.folds),
    (10, 4, r.start.toNat), (14, 4, optField 4 r.startE), (18, 4, optField 4 (r.endAt.map BitVec.toNat)),
    (22, 4, optField 4 r.duration), (26, 4, r.overrun)]
  ++ (r.segments.zipIdx.map fun g => segmentFields (30 + 8 * g.2) g.1).flatten

def openSlotFields : OpenSlot → List Field
  | .unused => []
  | .opened r => recordFields 1 r
  | .closed r => recordFields 2 r

def historyFields : Option StopRecord → List Field
  | none => []
  | some r => recordFields 2 r

/-! ### Shift tally, pace notice lists and shift history -/

/-- The fields of the current or last plan, zero while no shift has started since the reset (R135). -/
def planFields : Option Plan → List Field
  | none => []
  | some p =>
    [(4, 1, p.block.name.toNat), (5, 1, p.source), (6, 1, p.block.mode.toNat), (7, 1, p.block.behind.toNat),
      (8, 4, p.block.start.toNat), (12, 2, p.block.length.toNat), (14, 2, p.block.takt.toNat),
      (16, 2, p.block.target.toNat), (18, 2, p.block.overtime.toNat), (20, 1, p.block.recovery.toNat)]

/-- The break in course, absent outside ON BREAK (R135). -/
def State.breakInCourse (s : State) : Option Nat := if s.shift.state = .onBreak then some s.shift.breaksBegun else none

def tallyFields (s : State) : List Field :=
  let v := s.shift
  [(2, 1, v.state.code), (3, 1, bit v.sinceReset)]
  ++ planFields (if v.sinceReset then v.shown else none)
  ++ [(21, 1, optField 1 s.breakInCourse), (22, 1, optField 1 (v.pending.map Plan.source)),
    (23, 1, optField 1 (v.next.map Plan.source)), (24, 4, optField 4 (v.pending.map fun p => p.block.start.toNat)),
    (28, 4, optField 4 (v.next.map fun p => p.block.start.toNat)),
    (32, 4, if v.sinceReset then v.startPart.toNat else optField 4 none),
    (36, 4, optField 4 (v.startTime.map Prod.fst)), (40, 2, optField 2 (v.startTime.map Prod.snd)), (44, 4, v.elapsed),
    (48, 4, v.working), (52, 2, v.planCount), (54, 2, v.actual),
    (56, 4, signedField ((v.actual : Int) - (v.planCount : Int))), (60, 2, optField 2 v.pace), (62, 2, v.unplanned),
    (64, 2, v.callsRaised), (66, 1, optField 1 (v.closeReason.map CloseReason.code))]

/-- A RECOVERED notice's byte: the zone number, plus 16 when its reason is SHIFT CLOSED (section 1.9). -/
def recoveredByte (e : Fin 8 × Bool) : Nat := num e.1 + if e.2 then 16 else 0

def paceListFields (s : State) : List Field :=
  [(2, 1, s.shift.behindList.length), (3, 1, s.shift.recovered.length)]
  ++ ((s.shift.behindList.take 8).zipIdx.map fun e => (4 + e.2, 1, num e.1))
  ++ ((s.shift.recovered.take 8).zipIdx.map fun e => (12 + e.2, 1, recoveredByte e.1))

def historyZoneFields (o : Nat) (z : HistoryZone) : List Field :=
  [(o, 1, bit z.defined), (o + 1, 1, bit z.behind), (o + 2, 2, z.count)]
  ++ ((List.finRange 9).map fun c => (o + 4 + 2 * c.val, 2, z.downtime[c]))
  ++ [(o + 22, 2, z.stops), (o + 24, 2, z.shorts)]

def shiftHistoryFields : Option HistoryEntry → List Field
  | none => []
  | some h =>
    [(2, 1, h.name), (3, 1, h.source), (4, 1, h.reason.code), (6, 4, h.startPart.toNat),
      (10, 4, optField 4 (h.startTime.map Prod.fst)), (14, 2, optField 2 (h.startTime.map Prod.snd)), (16, 4, h.elapsed),
      (20, 4, h.working), (24, 2, h.target), (26, 2, h.plan), (28, 2, h.actual), (30, 2, h.calls),
      (32, 2, optField 2 h.pace)]
    ++ ((List.finRange 8).map fun z => historyZoneFields (36 + 26 * z.val) h.zones[z]).flatten

/-! ### Every row -/

/-- The fields of a row after its change count. -/
def rowFields (s : State) : Row → List Field
  | .header => headerFields1 s ++ headerFields2 s
  | .drive d => driveFields s d
  | .zone z => zoneFields s z
  | .buffer k => bufferFields s k
  | .group g => groupFields s g
  | .panel p => panelFields s p
  | .board b => boardFields s b
  | .tally => tallyFields s
  | .paceLists => paceListFields s
  | .station n => stationFields s n
  | .openSlot d => openSlotFields s.attr.slots[d]
  | .history i => historyFields s.attr.history[i]
  | .shiftHistory i => shiftHistoryFields (s.shift.history[i.val]?)

/-- What one writing of a row stores: runs of bytes with their offsets, filling the row. The part does not write the take
count, so the header is written around it (section 1.9). -/
def rowChunks (s : State) (r : Row) (count : Half) : List (Nat × List Byte) :=
  match r with
  | .header =>
    [(0, padTo 0x10 (halfBytes count ++ layoutFrom 0x10 2 (headerFields1 s))),
      (0x14, padTo 0xEC (layoutFrom 0x100 0x14 (headerFields2 s)))]
  | _ => [(r.base, padTo r.size (halfBytes count ++ layoutFrom r.size 2 (rowFields s r)))]

/-- The 16 bytes of a journal entry with its sequence (section 1.9). -/
def entryBytes (sequence : Word) (e : Entry) : List Byte :=
  wordBytes sequence ++ wordBytes e.time
    ++ layoutFrom 8 0 [(0, 1, e.kind), (1, 1, e.flags), (2, 2, e.subject), (4, 2, e.detailA), (6, 2, e.detailB)]

end Sys2Proof.Machine
end

