-- ==== Sys2Proof/Machine/Ops.lean ====
section
/-! DEFINITION. The operations over the exchange memory, and the journal unit (chapter 10), through which every block
writes. Each operation names in its record update the blocks it may change. -/

namespace Sys2Proof.Machine

/-! ### The exchange memory as a list of cells -/

/-- The canonical form: addresses strictly rising, no listed byte zero, every address inside the window. -/
def Memory.wf (mem : List Host.Cell) : Bool :=
  decide (mem.Pairwise fun x y => x.1 < y.1) && mem.all fun c => c.2 != 0 && decide (c.1 < 0x9000)

/-- One byte; an address not listed reads zero (R5: the whole exchange memory is cleared to zero at a power-on reset). -/
def Memory.read (mem : List Host.Cell) (a : Nat) : Byte := (mem.lookup a).getD 0

/-- The cells of a run of bytes from an address: those that are not zero. -/
def Memory.cells : (a : Nat) → List Byte → List Host.Cell
  | _, [] => []
  | a, b :: bs => if b = 0 then Memory.cells (a + 1) bs else (a, b) :: Memory.cells (a + 1) bs

/-- Store a run of bytes at an address. -/
def Memory.write (mem : List Host.Cell) (a : Nat) (bs : List Byte) : List Host.Cell :=
  mem.filter (fun c => decide (c.1 < a)) ++ Memory.cells a bs ++ mem.filter (fun c => decide (a + bs.length ≤ c.1))

/-- Clear `n` bytes from an address to zero. -/
def Memory.clear (mem : List Host.Cell) (a n : Nat) : List Host.Cell :=
  mem.filter fun c => decide (c.1 < a) || decide (a + n ≤ c.1)

/-- `n` bytes from an address. -/
def Memory.readRun (mem : List Host.Cell) (a n : Nat) : List Byte := (List.range n).map fun i => Memory.read mem (a + i)

/-- A byte of the exchange memory as either side reads it. -/
def State.readByte (s : State) (a : Nat) : Byte := Memory.read s.win.mem a

def State.readRun (s : State) (a n : Nat) : List Byte := Memory.readRun s.win.mem a n

/-- Store bytes in the exchange memory. -/
def writeBytes (a : Nat) (bs : List Byte) (s : State) : State :=
  { s with win := { s.win with mem := Memory.write s.win.mem a bs } }

/-- The line computer's writes into the exchange memory, one byte after another (R5, section 1.3). -/
def hostWrites (writes : List Host.Cell) (s : State) : State :=
  { s with win := { s.win with mem := writes.foldl (fun m c => Memory.write m c.1 [c.2]) s.win.mem } }

/-- One writing of a row: its change count moves by two and every field shows the block's state (R6). -/
def writeRow (r : Row) (s : State) : State :=
  let count := s.win.counts[r.index] + 2
  { s with win :=
      { mem := (rowChunks s r count).foldl (fun m c => Memory.write m c.1 c.2) s.win.mem,
        counts := upd s.win.counts r.index fun _ => count } }

/-- The row is rewritten, as one writing, if the event that led from `old` changed any of its fields. -/
def syncRow (old : State) (r : Row) (s : State) : State :=
  { s with win := if rowFields old r = rowFields s r then s.win else (writeRow r s).win }

def writeRows (rs : List Row) (s : State) : State := { s with win := (each rs writeRow s).win }

def syncRows (old : State) (rs : List Row) (s : State) : State := { s with win := (each rs (syncRow old) s).win }

/-- A text entry's 16 bytes as DEFINE TEXT gave them (R20); text entries carry no change count (R6). -/
def writeText (t : Fin 64) (s : State) : State := writeBytes (textBase t) s.setup.texts[t].toList s

/-! ### The journal unit -/

/-- The journal entry kinds (section 1.9). -/
def kindCallRaised : Nat := 0x01
def kindCallRepeated : Nat := 0x02
def kindCallEscalated : Nat := 0x03
def kindCallAnswered : Nat := 0x04
def kindCallDue : Nat := 0x05
def kindCallCleared : Nat := 0x06
def kindStopRequested : Nat := 0x10
def kindStopReleased : Nat := 0x11
def kindStoppageOpened : Nat := 0x13
def kindStoppageCause : Nat := 0x14
def kindStoppageClosed : Nat := 0x15
def kindDriveNotStopping : Nat := 0x16
def kindMarkerFault : Nat := 0x17
def kindBufferAnomaly : Nat := 0x18
def kindZoneService : Nat := 0x20
def kindPace : Nat := 0x21
def kindShift : Nat := 0x22
def kindPanelState : Nat := 0x30
def kindPanelEventsLost : Nat := 0x31
def kindBoardState : Nat := 0x32
def kindStoreDone : Nat := 0x40
def kindOrdersLocked : Nat := 0x41
def kindClockSet : Nat := 0x42
def kindSetupStatus : Nat := 0x43
def kindTakeFault : Nat := 0x44
def kindGap : Nat := 0x45

/-- The journal take count field of the header, as the line computer last wrote it (R156). -/
def State.takeField (s : State) : Word := wordAt (s.readRun takeCountOffset 4) 0

/-- The row of the ring in which entry number `k` stands (chapter 10). -/
def ringRow (k : Word) : Fin 512 := ⟨k.toNat % 512, Nat.mod_lt _ (by decide)⟩

/-- The instant at which the oldest unread entry has waited for the age limit (R158). -/
def State.ageInstant (s : State) : Nat := s.jrn.writtenAt[ringRow s.jrn.accepted] + s.jrn.ageLimit

/-- The notice condition (R158). -/
def State.noticeCondition (s : State) : Bool :=
  decide (s.jrn.threshold ≤ s.unread) || (decide (0 < s.unread) && decide (s.ageInstant ≤ s.ms))

def raiseNotice (s : State) : State := raiseIf s.noticeCondition .journal s

/-- The age timer expires: JOURNAL by the notice condition, and a full age limit again while entries are unread. -/
def expireAge (s : State) : State :=
  let t := raiseNotice s
  { t with jrn := { t.jrn with ageTimer := if 0 < t.unread then some (t.ms + t.jrn.ageLimit) else none } }

/-- The age timer follows the oldest unread entry (R158); an instant that has passed expires at once. -/
def followOldest (s : State) : State :=
  if s.unread = 0 then { s with jrn := { s.jrn with ageTimer := none } }
  else if s.ageInstant ≤ s.ms then expireAge s
  else { s with jrn := { s.jrn with ageTimer := some s.ageInstant } }

/-- The accepted take count becomes `v`. -/
def acceptTake (v : Word) (s : State) : State :=
  if v = s.jrn.accepted then s else followOldest { s with jrn := { s.jrn with accepted := v } }

/-- The write of an entry that the journal has room for (R155), as an append for the notice (R158). -/
def writeEntry (e : Entry) (s : State) : State :=
  let row := ringRow s.jrn.put
  let t := writeBytes (journalBase row.val) (entryBytes s.jrn.sequence e) s
  raiseNotice (writeRow .header { t with jrn :=
    { t.jrn with
      put := t.jrn.put + 1, sequence := t.jrn.sequence + 1, writtenAt := upd t.jrn.writtenAt row fun _ => t.ms,
      ageTimer := if s.unread = 0 then some (t.ms + t.jrn.ageLimit) else t.jrn.ageTimer } })

/-- The journal unit's own entries carry a 32-bit value in details A and B (R155). -/
def ownEntry (kind value : Nat) (s : State) : Entry := ⟨s.partTime, kind, 0, 0, value % 65536, value / 65536 % 65536⟩

/-- Room after a gap: one GAP entry, then the gap count and the overflow mark are cleared (R157). -/
def closeGap (s : State) : State :=
  if 0 < s.jrn.gap ∧ s.unread < 512 then
    let t := writeEntry (ownEntry kindGap s.jrn.gap s) s
    writeRow .header { t with jrn := { t.jrn with gap := 0, overflow := false } }
  else s

/-- A read of the take count: adopted, or judged bad and reported once (R156); GAP stands before TAKE FAULT (R157). -/
def readTakeStep (s : State) : State :=
  let v := s.takeField
  if (s.jrn.put - v).toNat ≤ 512 then
    let t := acceptTake v s
    closeGap { t with jrn := { t.jrn with lastBad := none } }
  else
    let t := closeGap (acceptTake s.jrn.put s)
    if s.jrn.lastBad = some v then t
    else writeEntry (ownEntry kindTakeFault v.toNat t) { t with jrn := { t.jrn with lastBad := some v } }

/-- The 10 ms read (R156). -/
def readTake (s : State) : State :=
  let t := readTakeStep s
  { s with win := t.win, jrn := t.jrn, irq := t.irq }

/-- A dropped append (R157). -/
def dropEntry (s : State) : State :=
  raiseNotice (writeRow .header
    { s with jrn := { s.jrn with gap := satAdd 4294967295 s.jrn.gap 1, overflow := true } })

/-- An append: the take count is read, and the entry is written or, in a full journal, dropped (R155, R157). -/
def journal (e : Entry) (s : State) : State :=
  let t := readTakeStep s
  let u := if t.unread = 512 then dropEntry t else writeEntry e t
  { s with win := u.win, jrn := u.jrn, irq := u.irq }

/-- Append an entry timed at the present part time. -/
def log (kind flags subject detailA detailB : Nat) (s : State) : State :=
  journal ⟨s.partTime, kind, flags, subject, detailA, detailB⟩ s

/-- Append an entry timed at a given tenth since power-on. -/
def logAt (tenths kind flags subject detailA detailB : Nat) (s : State) : State :=
  journal ⟨BitVec.ofNat 32 tenths, kind, flags, subject, detailA, detailB⟩ s

end Sys2Proof.Machine
end

