-- ==== Sys2Proof/Machine/Render.lean ====
section
/-! DEFINITION. What follows every change: the zone display status (R102), and the rendering of board fields with the
stale sets (R142 to R145). -/

namespace Sys2Proof.Machine

/-! ### Zone display status -/

/-- The evaluated cause of a drive's open record (R102 takes it from the attribution unit). -/
def State.openCause (s : State) (d : Fin 8) : Option Cause :=
  match s.attr.slots[d] with
  | .opened r => some r.evaluated
  | _ => none

/-- The display status of a zone on a drive, from the first row of R102's table that applies. -/
def State.driveStatus (s : State) (z d : Fin 8) : Display :=
  let v := s.drive d
  if (dueCalls v.demand).any fun r => s.stationZone r.station == some z then .callStop
  else if v.demand.any fun e => e == .hold || (match e with
      | .panel _ y => y == z
      | _ => false) then .hold
  else if v.stopRequest then .coupledStop
  else if v.feedback = .stopped then
    if s.shift.state = .onBreak then .onBreak
    else if s.openCause d = some .blocked then .blocked
    else if s.openCause d = some .starved then .starved
    else .stopped
  else if s.calls.active[z].isEmpty then .run
  else .calling

def State.displayOf (s : State) (z : Fin 8) : Display :=
  match s.zone z with
  | none => .off
  | some f =>
    match s.setup.service[z] with
    | .outOfService => .off
    | .draining => .draining
    | .inService => s.driveStatus z f.drive

/-- Recompute one zone's status; its row is rewritten when the status changes (R102). -/
def refreshDisplay (z : Fin 8) (s : State) : State :=
  if s.drv.display[z] = s.displayOf z then s
  else writeRow (.zone z) { s with drv := { s.drv with display := upd s.drv.display z fun _ => s.displayOf z } }

def refreshDisplays (s : State) : State :=
  let t := each (List.finRange 8) refreshDisplay s
  { s with drv := { s.drv with display := t.drv.display }, win := t.win }

/-! ### Values of the numeric sources (R142) -/

def sumOf (l : List Nat) : Nat := l.foldl (· + ·) 0

/-- The plan's working time in minutes: its length less the sum of its break lengths. -/
def workingMinutes (b : PlanBlock) : Int :=
  (b.length.toNat : Int) - (sumOf ((b.breaks.toList.take b.count.toNat).map fun x => x.length.toNat) : Int)

/-- Minutes of working time left, rounded up, or 0 (SHIFT REMAINING). -/
def State.shiftRemaining (s : State) (p : Plan) : Int :=
  let left := 600 * workingMinutes p.block - (s.shift.working : Int)
  if left < 0 then 0 else (left + 599) / 600

def State.oldestAge (s : State) (z : Fin 8) : Option Nat :=
  match s.calls.active[z].head? with
  | some r => (s.callAt r).map fun c => tenthsBetween c.raisedAt s.partTime / 10
  | none => none

/-- A value of a defined zone, absent for an undefined one. -/
def State.ofZone (s : State) (z : Fin 8) (v : Option Int) : Option Int := if (s.zone z).isSome then v else none

/-- A value absent while the shift-since-reset mark is clear. -/
def State.sinceStart (s : State) (v : Option Int) : Option Int := if s.shift.sinceReset then v else none

def intOf (v : Option Nat) : Option Int := v.map fun n => (n : Int)

/-- The value of a numeric source (R142); none for the sources that are not numeric. -/
def State.numericValue (s : State) : Source → Option Int
  | .zoneCount z => s.ofZone z (some s.shift.zoneCount[z])
  | .zoneDiff z => s.ofZone z (s.sinceStart (some (-(s.behindValue z))))
  | .zoneDowntime z => s.ofZone z (some (sumOf s.attr.totals[z].totals.toList / 600 : Nat))
  | .zonePace z => s.ofZone z (s.sinceStart (intOf s.shift.zonePace[z]))
  | .oldestCallAge z => s.ofZone z (intOf (s.oldestAge z))
  | .lineActual => some s.shift.actual
  | .linePlan => s.sinceStart (some s.shift.planCount)
  | .lineTarget => s.sinceStart (intOf (s.shift.shown.map fun p => p.block.target.toNat))
  | .lineDiff => s.sinceStart (some ((s.shift.actual : Int) - (s.shift.planCount : Int)))
  | .linePace => s.sinceStart (intOf s.shift.pace)
  | .shiftRemaining => s.sinceStart (s.shift.shown.map s.shiftRemaining)
  | .clock =>
    if s.shift.clock.isSet then
      some ((s.shift.clock.second / 3600 * 100 + s.shift.clock.second % 3600 / 60 : Nat) : Int)
    else none
  | .groupLevel g => some (s.groupHighest g)
  | .groupWaiting g => some (s.groupRaised g).length
  | _ => none

/-! ### Characters (R143) -/

/-- The displayed value and OVER of a present value in a field of `d` digits. -/
def displayed (d : Nat) (signed : Bool) (v : Int) : Int × Bool :=
  let hi : Int := 10 ^ d - 1
  let lo : Int := if signed then -(10 ^ (d - 1) - 1) else 0
  if hi < v then (hi, true) else if v < lo then (lo, true) else (v, false)

/-- The digit position of weight 10^i shows a digit: the integer part shows at least one. -/
def shownAt (places n i : Nat) : Bool := decide (i ≤ places) || decide (10 ^ i ≤ n)

/-- The character at the digit position of weight 10^i. -/
def digitChar (places : Nat) (v : Int) (i : Nat) : Byte :=
  if shownAt places v.natAbs i then BitVec.ofNat 8 (48 + v.natAbs / 10 ^ i % 10)
  else if v < 0 ∧ shownAt places v.natAbs (i - 1) then 45
  else 32

/-- The point stands before the last `places` characters. -/
def withPoint (places : Nat) (cs : List Byte) : List Byte :=
  if places = 0 then cs else cs.take (cs.length - places) ++ 46 :: cs.drop (cs.length - places)

/-- The characters of a displayed value, or dashes when it is absent. -/
def numberChars (d places : Nat) (v : Option Int) : List Byte :=
  withPoint places ((List.range d).map fun j =>
    match v with
    | some x => digitChar places x (d - 1 - j)
    | none => 45)

/-! ### Content (R144) -/

def blanks : List Byte := List.replicate 16 32

/-- The 16 characters of a name text: blanks for none and for an entry that holds zero bytes. -/
def State.nameChars (s : State) (n : Nat) : List Byte :=
  match index? 64 n with
  | some t => if s.setup.texts[t] = Vector.replicate 16 0 then blanks else s.setup.texts[t].toList
  | none => blanks

/-- The name text of the station whose call heads a zone's list; blanks when the value is absent. -/
def State.oldestName (s : State) (z : Fin 8) : List Byte :=
  match s.calls.active[z].head? with
  | some r =>
    if (s.zone z).isSome && (s.callAt r).isSome then s.nameChars s.setup.bindings[r.station].name else blanks
  | none => blanks

/-- A station's code in a STATION STRIP. -/
def State.stripCode (s : State) (n : Fin 160) : Byte :=
  match s.stationZone n with
  | none => 0
  | some z =>
    if !s.works z then 0
    else if (s.stationCalls n).any fun c => c.2.stop.code == 2 then 4
    else if (s.stationCalls n).any fun c => !c.2.answered then 3
    else if (s.stationCalls n).any fun c => c.2.answered then 2
    else 1

def State.strip (s : State) (first : Fin 160) (count : Nat) : List Byte :=
  ((List.finRange 160).filter fun n => decide (first.val ≤ n.val ∧ n.val < first.val + count)).map s.stripCode

/-- FLASH (R144): the flash-allowed flag, with CALL STOP for ZONE STATUS and the group's flash mark for the two group
sources. -/
def State.flashes (s : State) : Source → Bool
  | .zoneStatus z => s.drv.display[z] == .callStop
  | .groupLevel g => s.groupFlash g
  | .groupWaiting g => s.groupFlash g
  | _ => false

/-- The rendered content of a field entry. -/
def State.render (s : State) (e : FieldEntry) : Content :=
  let flash := 2 * bit (e.flash && s.flashes e.source)
  match e.source with
  | .zoneStatus z =>
    ⟨flash, BitVec.ofNat 8 (if (s.zone z).isSome then s.drv.display[z].code else 0)
      :: s.nameChars (((s.zone z).map ZoneDef.name).getD 0)⟩
  | .stationStrip n c => ⟨0, s.strip n c⟩
  | .text t => ⟨0, s.nameChars (num t)⟩
  | src =>
    let shown := (s.numericValue src).map (displayed e.digits e.signed)
    let overMark := bit ((shown.map Prod.snd).getD false)
    let tail := match src with
      | .oldestCallAge z => s.oldestName z
      | _ => []
    ⟨overMark + flash, numberChars e.digits e.places (shown.map Prod.fst) ++ tail⟩

/-- What an OLDEST CALL AGE field shows apart from the passing of time: which call heads the list, and its name. -/
def State.ageKey (s : State) (z : Fin 8) : Option Nat × Bool × List Byte :=
  (s.calls.active[z].head?.map CallRef.serial, (s.zone z).isSome, s.oldestName z)

/-- The source has changed between two states other than by the passing of time (R145). -/
def sourceChanged (old s : State) : Source → Bool
  | .oldestCallAge z => old.ageKey z != s.ageKey z
  | _ => true

/-- A field's content after an event: rendered if its source changed, or in any case when `force` is set. -/
def fieldContent (force : Bool) (old s : State) (b : Board) (f : Fin 32) : Content :=
  if b.inUse f then
    match b.entries[f] with
    | some e => if force || sourceChanged old s e.source then s.render e else b.content[f]
    | none => Content.empty
  else Content.empty

/-- Render a board's fields; those whose content changed join the stale set, unless the board is DISABLED (R145). -/
def renderBoard (force : Bool) (old s : State) (b : Board) : Board :=
  match b.definition with
  | none => b
  | some _ =>
    { b with
      content := Vector.ofFn fun f => fieldContent force old s b f,
      stale := Vector.ofFn fun f =>
        b.state != .disabled && (b.stale[f] || (b.inUse f && fieldContent force old s b f != b.content[f])) }

/-- Render every defined board. -/
def renderFields (force : Bool) (old s : State) : State :=
  { s with brd := { s.brd with boards := s.brd.boards.map (renderBoard force old s) } }

/-- Rewrite, as one writing each, the rows of the defined boards that the event which led from `old` changed (R139). -/
def rewriteBoards (old s : State) : State :=
  let defined := (List.finRange 16).filter fun i => (s.brd.boards[i].definition).isSome
  { s with win := (syncRows old (defined.map Row.board) s).win }

/-- What follows each change inside an event, as the owning block reports it: the display statuses (R102), then the
rendering of the fields whose sources the change from `old` touched (R145). A status or a content that changes and changes
back within one event is seen (notes/assumptions/5.md). -/
def follow (old s : State) : State := renderFields false old (refreshDisplays s)

/-- What closes an event that began in `old`: what follows its last change, and the board rows. -/
def settle (old s : State) : State := rewriteBoards old (follow old s)

/-- A board with the rendered content and the stale set of another. -/
def Board.withRendering (b c : Board) : Board := { b with content := c.content, stale := c.stale }

/-- Of the state `t` that some changes have led to, what `follow` may have changed since `s`, the window apart. -/
def followed (s t : State) : State :=
  { s with
    drv := { s.drv with display := t.drv.display },
    brd := { s.brd with boards := Vector.ofFn fun i => s.brd.boards[i].withRendering t.brd.boards[i] } }

/-- The rendering of every field of every defined board, whatever has changed (R145). -/
def renderAll (s : State) : State := rewriteBoards s (renderFields true s s)

end Sys2Proof.Machine
end

