-- ==== Sys2Proof/Machine/OrderUnit.lean ====
section
/-! DEFINITION. The order unit's handling of a slot: the answer (R7, R17), the take (R9), the end of a long order (R11),
protocol violations and the lock (R12, R13). -/

namespace Sys2Proof.Machine

/-! ### Answers -/

/-- The result codes (section 1.7). -/
def resDone : Nat := 0
def resRange : Nat := 1
def resState : Nat := 2
def resBusy : Nat := 3
def resLocked : Nat := 4
def resInUse : Nat := 5
def resStoreEmpty : Nat := 6
def resStoreDamaged : Nat := 7
def resStoreFailed : Nat := 8
def resAborted : Nat := 9
def resSetupProtected : Nat := 10
def resNoAnswer : Nat := 11

/-- An answer (R17): result code, result detail, result data (zeros after the bytes named), and the bytes written over the
parameter area by an order whose chapter says so. -/
structure Answer where
  code   : Nat
  detail : Nat := 0
  data   : List Byte := []
  params : Option (List Byte) := none
  deriving DecidableEq, Repr

def done (detail : Nat := 0) (data : List Byte := []) : Answer := { code := resDone, detail := detail, data := data }

def refuse (code detail : Nat) (data : List Byte := []) : Answer := { code := code, detail := detail, data := data }

/-- The state byte of a slot (section 1.3). -/
def State.slotState (s : State) (k : Fin 24) : Byte := s.readByte (slotBase k)

/-- The slot holds a long order in work. -/
def State.slotInWork (s : State) (k : Fin 24) : Bool := s.ord.inWork.any fun w => w.slot == k

/-- The fields of an answer, the slot state DONE last (R7), and ORDER DONE if the notify flag was set at the take. -/
def answerSlot (k : Fin 24) (notify : Bool) (tag : Half) (a : Answer) (s : State) : State :=
  let t := match a.params with
    | some ps => writeBytes (slotBase k + 16) (padTo 48 ps) s
    | none => s
  let u := writeBytes (slotBase k) [3]
    (writeBytes (slotBase k + 3) (BitVec.ofNat 8 a.code :: (halfBytes tag ++ leBytes 2 a.detail ++ padTo 8 a.data)) t)
  { s with win := u.win, irq := (raiseIf notify .orderDone s).irq }

/-- A long order is accepted: the slot goes to TAKEN and joins the slots in work (R9). -/
def acceptSlot (k : Fin 24) (notify : Bool) (tag : Half) (s : State) : State :=
  let t := writeBytes (slotBase k) [2] s
  { t with ord := { t.ord with inWork := t.ord.inWork ++ [⟨k, notify, tag⟩] } }

/-! ### Violations -/

/-- Reason codes (R12). -/
def reasonUnknownOrder : Nat := 1
def reasonBadSlotState : Nat := 2
def reasonSlotOverwritten : Nat := 3

/-- A protocol violation: it locks a READY unit, or counts a further violation (R12). The header shows the record. -/
def violation (reason : Nat) (k : Fin 24) (kind value : Byte) (s : State) : State :=
  if s.ord.locked then
    writeRow .header
      { s with ord := { s.ord with lock := { s.ord.lock with further := satAdd 65535 s.ord.lock.further 1 } } }
  else
    let t := { s with ord := { s.ord with locked := true, lock := ⟨reason, num k, kind, value, 0⟩ } }
    log kindOrdersLocked 1 (num k) reason kind.toNat (raiseCause .locked (writeRow .header t))

/-! ### The end and the abort of a long order -/

/-- What the end of a long order may change of the order unit: the slots in work, and the lock (R11, R12). -/
def orderEnds (u v : OrderUnit) : OrderUnit := { u with locked := v.locked, lock := v.lock, inWork := v.inWork }

def dropWork (k : Fin 24) (s : State) : State :=
  { s with ord := { s.ord with inWork := s.ord.inWork.filter fun w => w.slot != k } }

/-- An owner reports the end of the long order in a slot (R11). -/
def endLong (k : Fin 24) (a : Answer) (s : State) : State :=
  match s.ord.inWork.find? fun w => w.slot == k with
  | none => s
  | some w =>
    let t := dropWork k s
    if t.slotState k = 2 then answerSlot k w.notify w.tag a t
    else violation reasonSlotOverwritten k (t.readByte (slotBase k + 1)) (t.slotState k) t

/-- An aborted slot that still reads TAKEN is answered ABORTED; another is left unwritten, and no violation (R15). -/
def abortLong (w : Work) (s : State) : State :=
  let t := dropWork w.slot s
  if t.slotState w.slot = 2 then answerSlot w.slot w.notify w.tag (refuse resAborted 0) t else t

/-! ### The take -/

/-- What an owner does with an order at its take: the state after, and its answer, or none for a long order accepted. -/
abbrev Perform := State → State × Option Answer

/-- The take of a known order in a slot (R9, steps 2 and 3; R13), with what follows the event. -/
def carryOut (k : Fin 24) (notify : Bool) (tag : Half) (o : Order) (perform : Perform) (s : State) : State :=
  let t := { s with ord := { s.ord with takePos := k } }
  if t.ord.locked && !o.takenWhenLocked then answerSlot k notify tag (refuse resLocked t.ord.lock.reason) t
  else
    let r := perform t
    settle s (match r.2 with
      | some a => answerSlot k notify tag a r.1
      | none => acceptSlot k notify tag r.1)

/-- The notify flag: a byte of 0 means not set (R7). -/
def notifySet (b : Byte) : Bool := b != 0

/-- The line computer posts an order (section 1.3): kind, notify flag, post tag and parameters, then POSTED. -/
def postSlot (p : Post) (o : Order) (s : State) : State :=
  writeBytes (slotBase p.slot) [1]
    (writeBytes (slotBase p.slot + 16) o.params
      (writeBytes (slotBase p.slot + 4) (halfBytes p.tag)
        (writeBytes (slotBase p.slot + 1) [o.code, p.notify] { s with pins := { s.pins with key := p.key } })))

/-- A scan may reach the slot and take it: the part is RUNNING, the intake hold is off, and the slot holds no long order in
work (R8, R10). -/
def State.takes (s : State) (k : Fin 24) : Bool :=
  decide (s.part = .running) && !s.ord.hold && !s.slotInWork k

/-- An order command: the line computer posts the order in its slot, and a scan that reaches the slot takes it. While the
part is STARTING or the intake hold is on, the order stays POSTED (R10, R16). -/
def orderCommand (p : Post) (o : Order) (perform : Perform) (s : State) : State :=
  let t := postSlot p o s
  if t.takes p.slot then carryOut p.slot (notifySet p.notify) p.tag o perform t else t

/-! ### UNLOCK ORDERS -/

/-- The journal entry ORDERS LOCKED with flags 0, released (R14, R15). -/
def logReleased (k : Fin 24) (s : State) : State := log kindOrdersLocked 0 (num k) s.ord.lock.reason 0 s

/-- UNLOCK ORDERS (R14). -/
def unlockOrders (k : Fin 24) : Perform := fun s =>
  if !s.ord.locked then (s, some (done))
  else if s.ord.inWork.isEmpty then
    (logReleased k { s with ord := { s.ord with locked := false } }, some (done s.ord.lock.further))
  else (s, some (refuse resBusy s.ord.inWork.length))

end Sys2Proof.Machine
end

