-- ==== Sys2Proof/Machine/Escalation.lean ====
section
/-! DEFINITION. The escalation unit (chapter 5): levels, timers and alert outputs. Group rows are rewritten by the event
that touches them, once each (R78). -/

namespace Sys2Proof.Machine

/-- Replace the call entry of a kind at a station. -/
def setCall (n : Fin 160) (k : Kind) (c : Option Call) (s : State) : State :=
  { s with calls := { s.calls with
      stations := upd s.calls.stations n fun st => { st with calls := upd st.calls k.index fun _ => c } } }

/-- Change the open call of a kind at a station, if there is one. -/
def updCall (n : Fin 160) (k : Kind) (f : Call → Call) (s : State) : State := setCall n k ((s.call n k).map f) s

/-- The number of RAISED calls whose current level names each output (R75). -/
def State.alertCounts (s : State) : Vector Nat 8 :=
  Vector.ofFn fun i => (s.openCalls.filter fun c => s.outputOf c == num i).length

/-- Reevaluate the alert outputs (R75). -/
def reevaluateAlerts (s : State) : State := { s with alerts := s.alertCounts }

/-- Alert output i is on while its number is not 0 (R75). -/
def State.alertOn (s : State) (i : Fin 8) : Bool := s.alerts[i] != 0

/-- The instant, in tenths, at which a call that reaches level `level` at the tenth `t` climbs again: absent at the top of
its ladder (R70 to R73). -/
def State.climbTime (s : State) (group level t : Nat) : Option Nat :=
  ((s.ladder group).level? (level + 1)).map fun l => t + 10 * l.delay

/-- The call stands at its ladder's level count (R70). -/
def State.atTop (s : State) (c : Call) : Bool := decide ((s.ladder c.group).count ≤ c.level)

/-- Row of the group a call belongs to; none for group 0. -/
def groupRow (g : Nat) : List Row :=
  match index? 24 g with
  | some i => [.group i]
  | none => []

/-- A climb of one level at the tenth `t` (R72, R73), journaled CALL ESCALATED with its source: 0 timer, 1 repeat (R76). -/
def climb (n : Fin 160) (k : Kind) (source t : Nat) (s : State) : State :=
  match s.call n k with
  | none => s
  | some c =>
    let level := c.level + 1
    let l := ((s.ladder c.group).level? level).getD ⟨0, 0, false⟩
    let u := setCall n k (some { c with level := level, nextEscalation := s.climbTime c.group level t }) s
    reevaluateAlerts
      (logAt t kindCallEscalated (k.code + 4 * source + 8 * bit l.flash) (num n) (c.serial % 65536)
        (level + 256 * l.output) u)

/-- A repeat of a RAISED call climbs it below the top and changes nothing at the top (R73). -/
def escalateRepeat (n : Fin 160) (k : Kind) (s : State) : State :=
  match s.call n k with
  | none => s
  | some c => if s.atTop c then s else climb n k 1 s.tenths s

/-- The timer of a call expires when part time reaches its next escalation time (R72). An answered call, a call at the top
and a call without a timer have no expiry, and neither has a timer whose time lies ahead: where a repeat at the same instant
has replaced the timer, the old expiry does not happen. The station's and the group's rows are rewritten in any case. -/
def escalationExpiry (n : Fin 160) (k : Kind) (s : State) : State :=
  match s.call n k with
  | none => s
  | some c =>
    match c.nextEscalation with
    | none => s
    | some t =>
      if c.answered || s.atTop c || decide (s.ms < 100 * t) then s
      else settle s (writeRows (.station n :: groupRow c.group) (climb n k 0 t s))

/-- ESCALATION_EXPIRY (R72). -/
def execEscalationExpiry (n : Fin 160) (k : Kind) (s : State) : Host.Outcome State Fault Refusal :=
  .next (escalationExpiry n k s)

end Sys2Proof.Machine
end

