-- ==== Sys2Proof/Machine/Stoppage.lean ====
section
/-! DEFINITION. The attribution unit (chapter 7): stoppage records, causes, charges, segments and downtime totals. -/

namespace Sys2Proof.Machine

def State.openRecord (s : State) (d : Fin 8) : Option StopRecord :=
  match s.attr.slots[d] with
  | .opened r => some r
  | _ => none

def setSlot (d : Fin 8) (o : OpenSlot) (s : State) : State :=
  { s with attr := { s.attr with slots := upd s.attr.slots d fun _ => o } }

/-! ### Cause and charge -/

/-- The cause ladder (R108). -/
def State.evaluate (s : State) (d : Fin 8) : Cause :=
  let demand := (s.drive d).demand
  match oldestDue demand with
  | some r => .call r.station r.kind
  | none =>
    if demand.contains .hold then .hold
    else
      match lowestPanel demand with
      | some p => .panel p
      | none => if s.exitFull d then .blocked else if s.entryEmpty d then .starved else .unexplained

/-- The zones that hold a CALL or PANEL charge on a drive (R111). -/
def State.holdersOf (s : State) (d : Fin 8) : Charge → List (Fin 8)
  | .cause (.call n _) => (s.stationZone n).toList
  | .cause (.panel p) => panelZones (s.drive d).demand p
  | _ => []

/-! ### Downtime totals -/

/-- The category of a cause for a zone that holds the charge or does not (R111): ASSIST 0, MATERIAL 1, QUALITY 2, MAINT 3,
HOLD 4, BLOCKED 5, STARVED 6, UNEXPLAINED 7, COUPLED 8. -/
def category (c : Cause) (holder : Bool) : Fin 9 :=
  match c with
  | .call _ .assist => if holder then 0 else 8
  | .call _ .material => if holder then 1 else 8
  | .call _ .quality => if holder then 2 else 8
  | .call _ .maint => if holder then 3 else 8
  | .panel _ => if holder then 4 else 8
  | .hold => 4
  | .blocked => 5
  | .starved => 6
  | .unexplained => 7

/-- The category a zone is being charged in, if any (R111, R112). -/
def State.chargedIn (s : State) (z : Fin 8) : Option (Fin 9) :=
  if s.shiftOpen && s.works z then
    match (s.zoneDrive z).bind s.openRecord with
    | some r =>
      match r.charge with
      | .cause c => if r.outside then none else some (category c (r.holders.contains z))
      | .onBreak => none
    | none => none
  else none

/-- Add the time since a zone's last update to the category it is charged in (R112). -/
def accrue (z : Fin 8) (s : State) : State :=
  let t := s.attr.totals[z]
  let sum := match s.chargedIn z with
    | some c => upd t.totals c fun v => v + tenthsBetween t.last s.partTime
    | none => t.totals
  { s with attr := { s.attr with
      totals := upd s.attr.totals z fun v => { v with totals := sum, last := s.partTime } } }

/-- Bring a zone up to date, its row with it (R105, R112). -/
def bringZone (z : Fin 8) (s : State) : State := writeRow (.zone z) (accrue z s)

def bringZones (zs : List (Fin 8)) (s : State) : State :=
  let t := each zs bringZone s
  { s with attr := t.attr, win := t.win }

/-! ### Segments -/

/-- Make the last segment's length up to the offset `off`. -/
def growLast (off : Nat) : List Segment → List Segment
  | [] => []
  | [g] => [{ g with length := off - g.start }]
  | g :: gs => g :: growLast off gs

/-- Give the last segment a new charge in place. -/
def rechargeLast (c : Charge) : List Segment → List Segment
  | [] => []
  | [g] => [{ g with charge := c }]
  | g :: gs => g :: rechargeLast c gs

/-- The change falls at the start of the current segment. -/
def startsNow (off : Nat) (l : List Segment) : Bool := (l.getLast?.map Segment.start) == some off

/-- A record whose charge changes at the offset `off`: in place at the segment's own start, a new segment while there are
fewer than 8, a fold otherwise (R109, R110). -/
def StopRecord.recharge (r : StopRecord) (c : Charge) (off : Nat) : StopRecord :=
  if startsNow off r.segments then { r with charge := c, segments := rechargeLast c r.segments }
  else if r.segments.length < 8 then
    { r with charge := c, segments := growLast off r.segments ++ [⟨c, off, 0⟩] }
  else { r with charge := c, folded := true, folds := satAdd 65535 r.folds 1 }

/-- The record folds at a change at the offset `off` (R110). -/
def StopRecord.foldsAt (r : StopRecord) (off : Nat) : Bool := !startsNow off r.segments && decide (8 ≤ r.segments.length)

/-- The offset of the present part time in a record. -/
def State.offsetIn (s : State) (r : StopRecord) : Nat := tenthsBetween r.start s.partTime

/-- Rewrite an open slot, with the current segment's length up to now (R105). -/
def showSlot (d : Fin 8) (s : State) : State :=
  match s.openRecord d with
  | some r => writeRow (.openSlot d) (setSlot d (.opened { r with segments := growLast (s.offsetIn r) r.segments }) s)
  | none => writeRow (.openSlot d) s

/-- Rewrite the open slot of a drive whose record is open (R105). -/
def showOpen (d : Fin 8) (s : State) : State := if (s.openRecord d).isSome then showSlot d s else s

/-- What the attribution unit's acts may change: its own state, and what follows the causes it reports. -/
def attributionOnly (s t : State) : State :=
  { followed s t with attr := t.attr, win := t.win, jrn := t.jrn, irq := t.irq }

/-- A change of the charge (R109): totals under the old charge, segments, STOPPAGE CAUSE, the open slot. -/
def changeCharge (d : Fin 8) (c : Charge) (s : State) : State :=
  match s.openRecord d with
  | none => s
  | some r =>
    let t := bringZones r.zones s
    let off := s.offsetIn r
    let u := setSlot d (.opened { r.recharge c off with holders := s.holdersOf d c }) t
    showSlot d
      (log kindStoppageCause (c.code + 16 * bit (r.foldsAt off)) (num d) r.number.toNat c.detail u)

/-- Evaluate the cause of a drive's open record, report a new one to the drive unit, and decide the charge (R108, R109). -/
def reevaluateStep (d : Fin 8) (s : State) : State :=
  match s.openRecord d with
  | none => s
  | some r =>
    let c := s.evaluate d
    if c = r.evaluated then setSlot d (.opened { r with holders := s.holdersOf d r.charge }) s
    else
      let t := follow s (setSlot d (.opened { r with evaluated := c }) s)
      let target := if s.shift.state = .onBreak then Charge.onBreak else .cause c
      if target = r.charge then t else changeCharge d target t

def reevaluate (d : Fin 8) (s : State) : State := attributionOnly s (reevaluateStep d s)

/-! ### Opening and closing a record -/

/-- Open a record at the present instant (R106). The zones of the drive are first brought up to the instant, which adds
nothing because no record of the drive is open (R112); the cause is reported to the drive unit. -/
def openRecordAt (d : Fin 8) (overrun : Nat) (continued : Bool) (s : State) : State :=
  let t := each (s.zonesOn d) accrue s
  let cause := s.evaluate d
  let charge := if s.shift.state = .onBreak then Charge.onBreak else .cause cause
  let r : StopRecord :=
    { number := s.attr.lastNumber + 1, drive := d, isShort := false, isCut := false, continued := continued,
      continues := false, outside := !s.shiftOpen, folded := false, folds := 0, start := s.partTime,
      startE := if s.shiftOpen then some s.shiftE else none, endAt := none, duration := none, overrun := overrun,
      segments := [⟨charge, 0, 0⟩], evaluated := cause, charge := charge, holders := s.holdersOf d charge,
      zones := s.workingZones d, shortLimit := ((s.setup.drives[d]).map DriveDef.short).getD 0 }
  let u := setSlot d (.opened r) { t with attr := { t.attr with lastNumber := r.number } }
  writeRow (.openSlot d) (follow s
    (log kindStoppageOpened (charge.code + 16 * bit continued + 32 * bit (!s.shiftOpen)) (num d) r.number.toNat
      (satTo 65535 overrun) u))

/-- Raise the stop count or the short-stop count of a zone, with its row (R114). -/
def countStop (isShort : Bool) (z : Fin 8) (s : State) : State :=
  writeRow (.zone z) { s with attr := { s.attr with totals := upd s.attr.totals z fun v =>
    if isShort then { v with shorts := satAdd 65535 v.shorts 1 } else { v with stops := satAdd 65535 v.stops 1 } } }

/-- File a record in the history (R114, R115). -/
def fileRecord (r : StopRecord) (s : State) : State :=
  let i := s.attr.position
  let t := { s with attr := { s.attr with history := upd s.attr.history i fun _ => some r, position := i + 1 } }
  writeRow (.history i) t

/-- How a record closes (R113). -/
inductive Closing where
  | plain | continues | cut
  deriving DecidableEq, Repr

/-- The record as it stands after its close (R113 steps 2 and 3, R114). -/
def StopRecord.closedAs (r : StopRecord) (how : Closing) (now : Word) : StopRecord :=
  let off := tenthsBetween r.start now
  { r with
    segments := growLast off r.segments, endAt := some now, duration := some off, continues := how == .continues,
    isCut := how == .cut, isShort := how == .plain && !r.continued && decide (off < r.shortLimit) }

/-- Close a drive's open record, if it has one, and report to the drive unit that it has none (R113). -/
def closeRecordStep (how : Closing) (d : Fin 8) (s : State) : State :=
  match s.openRecord d with
  | none => s
  | some r =>
    let t := bringZones r.zones s
    let c := r.closedAs how s.partTime
    let u := if r.outside || c.isCut then t else each r.zones (countStop c.isShort) t
    let v := setSlot d (.closed c) u
    let w := if c.isShort then v else fileRecord c v
    follow s (writeRow (.openSlot d)
      (log kindStoppageClosed c.flags (num d) c.number.toNat (satTo 65535 (tenthsBetween r.start s.partTime / 10)) w))

def closeRecord (how : Closing) (d : Fin 8) (s : State) : State := attributionOnly s (closeRecordStep how d s)

def openRecordFor (d : Fin 8) (overrun : Nat) (continued : Bool) (s : State) : State :=
  attributionOnly s (openRecordAt d overrun continued s)

/-- The drive reports STOPPED (R106). -/
def driveStopped (d : Fin 8) (overrun : Nat) (s : State) : State :=
  if (s.workingZones d).isEmpty then s else openRecordFor d overrun false s

/-- A zone enters IN SERVICE from OUT OF SERVICE (R107); its service state has just changed. -/
def zoneJoins (z : Fin 8) (s : State) : State :=
  match s.zoneDrive z with
  | none => s
  | some d =>
    match s.openRecord d with
    | some r =>
      if r.zones.contains z then s else setSlot d (.opened { r with zones := r.zones ++ [z] }) s
    | none => if (s.drive d).feedback = .stopped then openRecordFor d 0 false s else s

/-- A zone has left for OUT OF SERVICE: the record closes if no zone of the drive still works (R113). -/
def zoneLeft (z : Fin 8) (s : State) : State :=
  match s.zoneDrive z with
  | none => s
  | some d => if (s.workingZones d).isEmpty then closeRecord .plain d s else s

/-! ### Breaks and shift edges -/

/-- The charge of an open record becomes BREAK, if it is not BREAK already (R109, BREAK FIRST). -/
def chargeBreak (d : Fin 8) (s : State) : State :=
  match s.openRecord d with
  | none => s
  | some r => if r.charge = .onBreak then s else changeCharge d .onBreak s

/-- A BREAK charge becomes the evaluated cause (R109). -/
def endBreakCharge (d : Fin 8) (s : State) : State :=
  match s.openRecord d with
  | none => s
  | some r => if r.charge = .onBreak then changeCharge d (.cause r.evaluated) s else s

/-- The drives with an open record. -/
def State.openDrives (s : State) : List (Fin 8) := (List.finRange 8).filter fun d => (s.openRecord d).isSome

/-- Every zone is brought up to date, the zone rows and the open slots with it (R105, R112). -/
def bringAll (s : State) : State :=
  let t := each s.openDrives showSlot (bringZones (List.finRange 8) s)
  { s with attr := t.attr, win := t.win }

/-- A break begins; the shift is ON BREAK (R108, R109). The drives are taken from D1 to D8, an order the manual leaves open
(DESIGN CHOICE, notes/assumptions/32.md). -/
def breakBegins (breakFirst : Bool) (s : State) : State :=
  attributionOnly s
    (each (List.finRange 8) (fun d t => let u := reevaluate d t; if breakFirst then chargeBreak d u else u) s)

/-- A break ends; the shift is RUNNING again (R108, R109). The drives are taken from D1 to D8 (DESIGN CHOICE,
notes/assumptions/32.md). -/
def breakEnds (s : State) : State :=
  attributionOnly s (each (List.finRange 8) (fun d t => endBreakCharge d (reevaluate d t)) s)

def zeroTotals (z : Fin 8) (s : State) : State :=
  writeRow (.zone z)
    { s with attr := { s.attr with totals := upd s.attr.totals z fun _ => ZoneTotals.initial s.partTime } }

/-- A shift starts: every open record is split, then the totals are zeroed (R116). The drives are taken from D1 to D8, an
order the manual leaves open (DESIGN CHOICE, notes/assumptions/32.md). -/
def attributionShiftStarts (s : State) : State :=
  attributionOnly s
    (each (List.finRange 8) zeroTotals
      (each s.openDrives (fun d t => openRecordFor d 0 true (closeRecord .continues d t)) s))

/-- A shift closes, steps 1 and 2 (R117), the records from D1 to D8 (DESIGN CHOICE, notes/assumptions/32.md). -/
def attributionShiftCloses (s : State) : State :=
  attributionOnly s (each s.openDrives (closeRecord .continues) (bringAll s))

/-- A shift has closed, step 4: the drives whose records closed and that still read STOPPED open new ones, from D1 to D8
(R117; DESIGN CHOICE, notes/assumptions/32.md). -/
def attributionReopens (drives : List (Fin 8)) (s : State) : State :=
  attributionOnly s
    (each (drives.filter fun d => (s.drive d).feedback == .stopped) (fun d t => openRecordFor d 0 true t) s)

/-- A part reset closes every open record, flagged CUT, from D1 to D8 (R119; notes/assumptions/15.md). -/
def cutRecords (s : State) : State := attributionOnly s (each s.openDrives (closeRecord .cut) s)

/-- TOTALS_SECOND: the zones of drives with an open record in shift, and those drives' open slots (R112, R105). -/
def totalsSecond (s : State) : State :=
  let drives := s.openDrives.filter fun d => ((s.openRecord d).map fun r => !r.outside).getD false
  let t := each drives (fun d t => showSlot d (bringZones (t.zonesOn d) t)) s
  settle s { s with attr := t.attr, win := t.win }

def execTotalsSecond (s : State) : Host.Outcome State Fault Refusal := .next (totalsSecond s)

end Sys2Proof.Machine
end

