-- ==== Sys2Proof/Machine/Drive.lean ====
section
/-! DEFINITION. The drive unit (chapter 6): position, deadlines, demand sets, supervision, overrun, and buffers. -/

namespace Sys2Proof.Machine

def updDrive (d : Fin 8) (f : Drive → Drive) (s : State) : State :=
  { s with drv := { s.drv with drives := upd s.drv.drives d f } }

def updBuffer (k : Fin 7) (f : Buffer → Buffer) (s : State) : State :=
  { s with drv := { s.drv with buffers := upd s.drv.buffers k f } }

/-! ### Stop response supervision (R95) -/

/-- Enter TIMING, with the stop response limit in force now. -/
def startTiming (d : Fin 8) (s : State) : State :=
  match s.setup.drives[d] with
  | some f => updDrive d (fun v => { v with supervision := .timing s.tenths f.response }) s
  | none => s

/-- The supervision returns to IDLE; the end of NOT STOPPING is journaled (R95). -/
def endSupervision (d : Fin 8) (s : State) : State :=
  let t := updDrive d (fun v => { v with supervision := .idle }) s
  match (s.drive d).supervision with
  | .notStopping entered =>
    log kindDriveNotStopping 0 (num d) (satTo 65535 ((s.tenths - entered) / 10)) (s.drive d).pitch.toNat t
  | _ => t

/-! ### The demand set (R90) -/

/-- The stop request is asserted, journaled with the kind of the entry, and timed if the drive is moving. -/
def assertStop (d : Fin 8) (flags detail : Nat) (s : State) : State :=
  let t := log kindStopRequested flags (num d) detail (s.drive d).pitch.toNat
    (updDrive d (fun v => { v with stopRequest := true }) s)
  if (s.drive d).feedback = .moving then startTiming d t else t

/-- An entry joins a drive's demand set; an entry already present changes nothing (R90, R93). The change is reported to the
attribution unit, and the display statuses follow it. -/
def addDemand (d : Fin 8) (e : Demand) (flags detail : Nat) (s : State) : State :=
  if (s.drive d).demand.contains e then s
  else
    let t := updDrive d (fun v => { v with demand := v.demand ++ [e] }) s
    follow s (reevaluate d (if (s.drive d).demand.isEmpty then assertStop d flags detail t else t))

/-- The stop request is released, journaled with the removal and the overrun count it discards (R90, R96). -/
def releaseStop (d : Fin 8) (flags discarded : Nat) (s : State) : State :=
  endSupervision d
    (log kindStopReleased flags (num d) (satTo 65535 discarded) (s.drive d).pitch.toNat
      (updDrive d (fun v => { v with stopRequest := false }) s))

/-- The demand set after a removal, with the overrun watch ended when no DUE call is left (R96). -/
def Drive.keepDemand (v : Drive) (kept : List Demand) : Drive :=
  if v.watching && (dueCalls kept).isEmpty then { v with demand := kept, watching := false, overrun := 0 }
  else { v with demand := kept }

/-- Every entry that `gone` names leaves a drive's demand set, reported and followed like an addition (R90, R93).
The entries of one request that stand on one drive leave as one change of its set, a point R93 leaves open (DESIGN CHOICE,
notes/assumptions/36.md). -/
def removeDemand (d : Fin 8) (gone : Demand → Bool) (flags : Nat) (s : State) : State :=
  let v := s.drive d
  let kept := v.demand.filter fun e => !gone e
  if kept.length = v.demand.length then s
  else
    let t := updDrive d (fun v => v.keepDemand kept) s
    let discarded := if v.watching && (dueCalls kept).isEmpty then v.overrun else 0
    follow s (reevaluate d (if kept.isEmpty then releaseStop d flags discarded t else t))

/-- The entries of a drive's set that `gone` names. -/
def State.countDemand (s : State) (d : Fin 8) (gone : Demand → Bool) : Nat := ((s.drive d).demand.filter gone).length

def isCallOf (r : CallRef) : Demand → Bool
  | .call x => x == r
  | _ => false
def isPanelOf (p : Fin 40) : Demand → Bool
  | .panel q _ => q == p
  | _ => false
def isZoneOf (z : Fin 8) : Demand → Bool
  | .panel _ y => y == z
  | _ => false
def isHold : Demand → Bool
  | .hold => true
  | _ => false

/-- What the demand operations may change. -/
def demandOnly (s t : State) : State :=
  { followed s t with drv := t.drv, attr := t.attr, win := t.win, jrn := t.jrn, irq := t.irq }

/-- The rows of all drives, and the row of a zone's drive. An event rewrites, as one writing each, those of its drives'
rows that it changed (R82). -/
def everyDriveRow : List Row := (List.finRange 8).map Row.drive
def State.driveRow (s : State) (z : Fin 8) : List Row := ((s.zoneDrive z).map Row.drive).toList

/-! ### PANEL entries (R93) -/

/-- Add the entry of a panel and a zone; the number added is returned. The drive's row is left to the event, which may add
several. -/
def addPanelDemand (p : Fin 40) (z : Fin 8) (s : State) : State × Nat :=
  match s.zoneDrive z with
  | none => (s, 0)
  | some d =>
    (demandOnly s (addDemand d (.panel p z) 3 (num p) s),
      if (s.drive d).demand.contains (.panel p z) then 0 else 1)

/-- Remove every entry naming a panel; the number removed is returned. The drives are taken from D1 to D8, an order the
manual leaves open (DESIGN CHOICE, notes/assumptions/32.md). -/
def removePanelDemands (p : Fin 40) (s : State) : State × Nat :=
  (demandOnly s (each (List.finRange 8) (fun d t => syncRow s (.drive d) (removeDemand d (isPanelOf p) 4 t)) s),
    sumOf ((List.finRange 8).map fun d => s.countDemand d (isPanelOf p)))

/-- Remove every entry naming a zone that leaves IN SERVICE. -/
def removeZoneDemands (z : Fin 8) (s : State) : State :=
  match s.zoneDrive z with
  | none => s
  | some d => demandOnly s (syncRow s (.drive d) (removeDemand d (isZoneOf z) 5 s))

/-! ### Deadlines (R86 to R89) -/

/-- The deadline pitch of a call armed at a position (R86). -/
def deadline (n : Half) (x pitch notice : Nat) : Half := if notice ≤ pitch - x then n + 1 else n + 2

/-- The stop status of a newly opened call of a kind in a zone (R86). -/
def State.armStatus (s : State) (z : Fin 8) (k : Kind) : StopStatus :=
  match s.zone z with
  | none => .none
  | some f =>
    match f.stopping[k.index], s.setup.drives[f.drive] with
    | true, some g => .armed (deadline (s.drive f.drive).pitch (s.drive f.drive).count g.pitch g.notice)
    | _, _ => .none

/-- The deadline of an ARMED call after an answer with extension `e`: it never moves nearer (R88). -/
def extended (n old : Half) (e : Nat) : Half :=
  let c := n + 1 + BitVec.ofNat 16 e
  if (old - n).toNat < (c - n).toNat then c else old

/-- The drive unit's part of an answer (R88). -/
def answerStop (r : CallRef) (z : Fin 8) (s : State) : State :=
  match s.zone z, s.callAt r with
  | some f, some c =>
    let n := (s.drive f.drive).pitch
    match c.stop with
    | .none => s
    | .armed old => updCall r.station r.kind (fun c => { c with stop := .armed (extended n old f.extension) }) s
    | .due _ =>
      if f.extension = 0 then s
      else
        removeDemand f.drive (isCallOf r) 1
          (updCall r.station r.kind (fun c => { c with stop := .armed (n + BitVec.ofNat 16 f.extension) }) s)
  | _, _ => s

/-- The drive unit's part of a clear (R89). -/
def clearStop (r : CallRef) (z : Fin 8) (s : State) : State :=
  match s.zoneDrive z with
  | some d => removeDemand d (isCallOf r) 2 s
  | none => s

/-- A call becomes DUE at a crossing, `beyond` counts of the same advance lying past it (R87, R96). -/
def makeDue (d : Fin 8) (beyond : Nat) (r : CallRef) (s : State) : State :=
  match s.callAt r with
  | none => s
  | some c =>
    let t := addDemand d (.call r) 1 (r.serial % 65536)
      (updCall r.station r.kind (fun c => { c with stop := .due s.partTime }) s)
    let u :=
      if (t.drive d).feedback = .moving ∧ !(t.drive d).watching then
        updDrive d (fun v => { v with watching := true, overrun := satAdd 4294967295 v.overrun beyond }) t
      else t
    writeRow (.station r.station)
      (log kindCallDue (r.kind.code + 4 * bit c.answered) (num r.station) (r.serial % 65536) (s.drive d).pitch.toNat u)

/-- The calls ARMED with a deadline, in serial order. -/
def State.callsDueAt (s : State) (d : Fin 8) (n : Half) : List CallRef :=
  (s.armedCalls d).filter fun r => (s.callAt r).map Call.stop == some (.armed n)

/-- A crossing (R83, R87): the pitch index rises, and the calls whose deadline it is become DUE. -/
def crossing (d : Fin 8) (beyond : Nat) (s : State) : State :=
  let n := (s.drive d).pitch + 1
  let t := updDrive d (fun v => { v with pitch := n, count := 0 }) s
  each (t.callsDueAt d n) (makeDue d beyond) t

/-- `c` crossings, the first with `beyond` counts past it and each later one a pitch further (R83). -/
def crossings (d : Fin 8) (pitch : Nat) : (c beyond : Nat) → State → State
  | 0, _, s => s
  | c + 1, beyond, s => crossings d pitch c (beyond - pitch) (crossing d beyond s)

/-- What a motion event of a drive may change. -/
def motionOnly (s t : State) : State :=
  { followed s t with
    drv := t.drv, calls := { s.calls with stations := t.calls.stations }, attr := t.attr, win := t.win, jrn := t.jrn,
    irq := t.irq }

/-- A forward advance of `k` counts (R83), counted by a running overrun watch (R96). -/
def advanceForward (d : Fin 8) (pitch k : Nat) (s : State) : State :=
  let v := s.drive d
  let t := if v.watching then updDrive d (fun v => { v with overrun := satAdd 4294967295 v.overrun k }) s else s
  let u := crossings d pitch ((v.count + k) / pitch) (k - (pitch - v.count)) t
  updDrive d (fun w => { w with count := (v.count + k) % pitch }) u

/-- A reverse advance of `k` counts (R84). -/
def advanceReverse (d : Fin 8) (k : Nat) (s : State) : State :=
  updDrive d (fun v =>
    if v.count < k then { v with count := 0, reverse := satAdd 4294967295 v.reverse (k - v.count) }
    else { v with count := v.count - k }) s

/-- An advance event (R81, R83, R84): discarded before the setup load and on an undefined drive. -/
def advance (d : Fin 8) (k : Half) (dir : Direction) (s : State) : State :=
  if s.part = .starting then s
  else
    match s.setup.drives[d] with
    | none => s
    | some f =>
      let t := match dir with
        | .forward => advanceForward d f.pitch k.toNat s
        | .reverse => advanceReverse d k.toNat s
      settle s (syncRow s (.drive d) (motionOnly s t))

/-- ADVANCE (R83, R84). An advance carries at least one count (section 6.1). -/
def execAdvance (d : Fin 8) (k : Half) (dir : Direction) (s : State) : Host.Outcome State Fault Refusal :=
  if k = 0 then .refused .illFormed else .next (advance d k dir s)

/-- A marker event (R81, R85). -/
def marker (d : Fin 8) (s : State) : State :=
  if s.part = .starting then s
  else
    match s.setup.drives[d] with
    | none => s
    | some f =>
      let v := s.drive d
      let t :=
        if f.pitch - f.tolerance ≤ v.count then crossing d 0 s
        else if v.count ≤ f.tolerance then updDrive d (fun v => { v with count := 0 }) s
        else
          log kindMarkerFault 0 (num d) v.count v.pitch.toNat
            (updDrive d (fun v => { v with markerFaults := satAdd 65535 v.markerFaults 1 }) s)
      settle s (syncRow s (.drive d) (motionOnly s t))

/-- MARKER (R85). -/
def execMarker (d : Fin 8) (s : State) : Host.Outcome State Fault Refusal := .next (marker d s)

/-! ### Run feedback (R94) -/

def setFeedbackPin (d : Fin 8) (f : Feedback) (s : State) : State :=
  { s with pins := { s.pins with feedback := upd s.pins.feedback d fun _ => f } }

/-- MOVING to STOPPED (R94): the supervision and the overrun watch end, and a record opens with the held count. -/
def feedbackStopped (d : Fin 8) (s : State) : State :=
  let held := (s.drive d).overrun
  let t := endSupervision d s
  let u := updDrive d (fun v => { v with feedback := .stopped, watching := false, overrun := 0 }) t
  driveStopped d held u

/-- STOPPED to MOVING (R94): the record closes, and a drive asked to stop is timed and, if a call is DUE, watched. -/
def feedbackMoving (d : Fin 8) (s : State) : State :=
  let t := closeRecord .plain d (updDrive d (fun v => { v with feedback := .moving }) s)
  let u := if (s.drive d).stopRequest then startTiming d t else t
  if (dueCalls (s.drive d).demand).isEmpty then u else updDrive d (fun v => { v with watching := true }) u

/-- A change of the run feedback input. Before the setup load the input only stands at its reading, and the load reads it
(R81); a reading that does not change is no event. -/
def runFeedbackChange (d : Fin 8) (f : Feedback) (s : State) : State :=
  let p := setFeedbackPin d f s
  if s.part = .starting ∨ (s.drive d).feedback = f then p
  else
    let t := match f with
      | .stopped => feedbackStopped d p
      | .moving => feedbackMoving d p
    settle p (syncRow p (.drive d) (motionOnly p t))

/-- RUN_FEEDBACK_CHANGE (R94). -/
def execRunFeedbackChange (d : Fin 8) (f : Feedback) (s : State) : Host.Outcome State Fault Refusal :=
  .next (runFeedbackChange d f s)

/-- The stop response timer expires (R95); without a running timer nothing happens. -/
def supervisionExpiry (d : Fin 8) (s : State) : State :=
  match (s.drive d).supervision with
  | .timing entered limit =>
    let t := updDrive d (fun v => { v with supervision := .notStopping entered })
      (s.reach (100 * (entered + 10 * limit)))
    let u := raiseCause .fault (log kindDriveNotStopping 1 (num d) limit (s.drive d).pitch.toNat t)
    settle s (syncRow s (.drive d) u)
  | _ => s

/-- SUPERVISION_EXPIRY (R95). -/
def execSupervisionExpiry (d : Fin 8) (s : State) : Host.Outcome State Fault Refusal := .next (supervisionExpiry d s)

/-! ### Buffers (R97 to R101) -/

/-- A buffer change is reported for the drive of Zk and the drive of Zk+1 (R98), in that order, which the manual leaves open
(DESIGN CHOICE, notes/assumptions/32.md). -/
def bufferChanged (k : Fin 7) (s : State) : State :=
  each ((s.zoneDrive (zoneBefore k)).toList ++ (s.zoneDrive (zoneAfter k)).toList) reevaluate s

/-- BUFFER ANOMALY (R99, R100). -/
def logAnomaly (k : Fin 7) (flags count : Nat) (s : State) : State :=
  log kindBufferAnomaly flags (num k) count (s.bufferCapacity k) s

/-- What an exit transfer does at its buffer (R99). -/
def fillBuffer (k : Fin 7) (s : State) : State :=
  if !s.bufferExists k then s
  else
    let t :=
      if s.bufferCount k < s.bufferCapacity k then
        bufferChanged k (updBuffer k (fun b => { b with count := b.count + 1 }) s)
      else
        logAnomaly k 1 (s.bufferCount k) (updBuffer k (fun b => { b with overruns := satAdd 65535 b.overruns 1 }) s)
    syncRow s (.buffer k) t

/-- A release of a buffer (R81, R100). -/
def bufferRelease (k : Fin 7) (s : State) : State :=
  if s.part = .starting ∨ !s.bufferExists k then s
  else
    let t :=
      if 0 < s.bufferCount k then bufferChanged k (updBuffer k (fun b => { b with count := b.count - 1 }) s)
      else logAnomaly k 2 0 (updBuffer k (fun b => { b with underruns := satAdd 65535 b.underruns 1 }) s)
    settle s (syncRow s (.buffer k) (motionOnly s t))

/-- BUFFER_RELEASE (R100). -/
def execBufferRelease (k : Fin 7) (s : State) : Host.Outcome State Fault Refusal := .next (bufferRelease k s)

/-! ### Orders of the drive unit -/

/-- HOLD DRIVE (R91). -/
def holdDrive (drive : Byte) : Perform := fun s =>
  match index? 8 drive.toNat with
  | none => (s, some (refuse resRange 1))
  | some d =>
    let v := s.drive d
    let data := BitVec.ofNat 8 (feedbackCode v.feedback) :: halfBytes v.pitch
    if s.setup.drives[d].isNone then (s, some (refuse resRange 2))
    else if v.demand.contains .hold then (s, some (done 1 data))
    else (demandOnly s (syncRow s (.drive d) (addDemand d .hold 2 0 s)), some (done 0 data))

/-- HOLD_DRIVE. -/
def execHoldDrive (p : Post) (drive : Byte) (s : State) : Host.Outcome State Fault Refusal :=
  .next (orderCommand p (.holdDrive drive) (holdDrive drive) s)

/-- RELEASE DRIVE (R92). -/
def releaseDrive (drive : Byte) : Perform := fun s =>
  match index? 8 drive.toNat with
  | none => (s, some (refuse resRange 1))
  | some d =>
    let v := s.drive d
    if !v.demand.contains .hold then (s, some (done 1 [BitVec.ofNat 8 (satTo 255 v.demand.length)]))
    else
      (demandOnly s (syncRow s (.drive d) (removeDemand d isHold 3 s)),
        some (done 0 [BitVec.ofNat 8 (satTo 255 (v.demand.filter fun e => !isHold e).length)]))

/-- RELEASE_DRIVE. -/
def execReleaseDrive (p : Post) (drive : Byte) (s : State) : Host.Outcome State Fault Refusal :=
  .next (orderCommand p (.releaseDrive drive) (releaseDrive drive) s)

/-- SET BUFFER COUNT (R101). -/
def setBufferCount (buffer count : Byte) : Perform := fun s =>
  match index? 7 buffer.toNat with
  | none => (s, some (refuse resRange 1))
  | some k =>
    if !s.bufferExists k then (s, some (refuse resState 0))
    else if s.bufferCapacity k < count.toNat then
      (s, some (refuse resRange 2 [BitVec.ofNat 8 (s.bufferCapacity k)]))
    else
      let answer := done 0 [BitVec.ofNat 8 (s.bufferCount k)]
      if s.bufferCount k = count.toNat then (s, some answer)
      else
        (demandOnly s (syncRow s (.buffer k)
          (bufferChanged k (updBuffer k (fun b => { b with count := count.toNat }) s))), some answer)

/-- SET_BUFFER_COUNT. -/
def execSetBufferCount (p : Post) (buffer count : Byte) (s : State) : Host.Outcome State Fault Refusal :=
  .next (orderCommand p (.setBufferCount buffer count) (setBufferCount buffer count) s)

end Sys2Proof.Machine
end

