-- ==== Sys2Proof/Machine/Shift.lean ====
section
/-! DEFINITION. The shift unit (chapter 8): clock, plans, shift states, counting, plan and pace, notices, history. -/

namespace Sys2Proof.Machine

/-- Change the shift unit's own state. -/
def updShift (f : Shift → Shift) (s : State) : State := { s with shift := f s.shift }

/-- What a transition of the shift may change. -/
def shiftOnly (s t : State) : State :=
  { followed s t with
    shift := { t.shift with clock := s.shift.clock }, calls := { s.calls with stations := t.calls.stations },
    attr := t.attr, win := t.win, jrn := t.jrn, irq := t.irq }

/-- Append a SHIFT entry; the subject is the state code after the event (R137). -/
def logShift (state : ShiftState) (flags a b : Nat) (s : State) : State := log kindShift flags state.code a b s

/-! ### Bringing the tally up to date (R131, R135) -/

/-- The takt of the current plan. -/
def State.takt (s : State) : Nat := (s.shift.current.map fun p => p.block.takt.toNat).getD 0

/-- The target of the current plan. -/
def State.target (s : State) : Nat := (s.shift.current.map fun p => p.block.target.toNat).getD 0

/-- E, W, the pace and the zone paces of an open shift, as of now (R126, R131). An undefined zone has no pace, whatever W is
(DEDUCED, notes/assumptions/20.md). -/
def bringTally (s : State) : State :=
  if s.shiftOpen then
    updShift (fun v => { v with
      elapsed := s.shiftE, working := s.shiftW, pace := paceOf v.actual s.shiftW s.takt,
      zonePace := Vector.ofFn fun z =>
        if (s.zone z).isSome then paceOf v.zoneCount[z] s.shiftW s.takt else none }) s
  else s

/-- Rewrite the tally and the rows of some zones, brought up to date (R131, R132, R135). -/
def showShift (zs : List (Fin 8)) (s : State) : State := writeRows (.tally :: zs.map Row.zone) (bringTally s)

/-- The pace of one zone as of W now, or as of the close between shifts, absent before any shift has started (R131): what a
zone shows from its definition on. -/
def bringZonePace (z : Fin 8) (s : State) : State :=
  let w := if s.shiftOpen then s.shiftW else s.shift.working
  updShift (fun v => { v with zonePace := upd v.zonePace z fun _ =>
    if v.sinceReset then paceOf v.zoneCount[z] w ((v.shown.map fun p => p.block.takt.toNat).getD 0) else none }) s

def State.definedZones (s : State) : List (Fin 8) := (List.finRange 8).filter fun z => (s.zone z).isSome

/-! ### Zone pace and notices (R132, R133) -/

/-- A crossing of a zone: moved to the tail of its list, journaled PACE, and the cause PACE raised (R133). -/
def crossPace (behind closed : Bool) (z : Fin 8) (s : State) : State :=
  let t := updShift (fun v =>
    let b := v.behindList.filter fun y => y != z
    let r := v.recovered.filter fun e => e.1 != z
    { v with
      zoneBehind := upd v.zoneBehind z fun _ => behind,
      behindList := if behind then b ++ [z] else b,
      recovered := if behind then r else r ++ [(z, closed)] }) s
  let flags := if behind then 1 else if closed then 3 else 2
  raiseCause .pace (log kindPace flags (num z) t.shift.zoneCount[z] t.shift.planCount (writeRow .paceLists t))

/-- Evaluate a defined zone's pace state against the current plan's threshold and recovery delta (R132). -/
def evaluateZone (z : Fin 8) (s : State) : State :=
  match s.shift.current with
  | none => s
  | some p =>
    if !s.shiftOpen || (s.zone z).isNone then s
    else
      let h : Int := p.block.behind.toNat
      let d : Int := p.block.recovery.toNat
      if s.shift.zoneBehind[z] then
        if s.behindValue z ≤ h - d then crossPace false false z s else s
      else if h ≤ s.behindValue z then crossPace true false z s
      else s

/-! ### Plans (R123, R124) -/

/-- Break `i` (counted from 0) of a plan lies in its range (R123). -/
def breakFits (b : PlanBlock) (i : Fin 6) : Bool :=
  let x := b.breaks[i]
  decide (1 ≤ x.length.toNat ∧ x.length.toNat ≤ 60) && decide (1 ≤ x.offset.toNat)
    && decide (x.offset.toNat + x.length.toNat < b.length.toNat)
    && (if h : 0 < i.val then
          let y := b.breaks[i.val - 1]'(by omega)
          decide (y.offset.toNat + y.length.toNat < x.offset.toNat)
        else true)

/-- The checks of a plan block in the order of R123's table, each with its detail. -/
def planChecks (b : PlanBlock) : List (Nat × Bool) :=
  [(1, decide (b.name.toNat ≤ 64)), (2, decide (b.mode.toNat ≤ 1)), (3, decide (b.count.toNat ≤ 6)),
    (4, decide (1 ≤ b.behind.toNat ∧ b.behind.toNat ≤ 50)),
    (5, decide (b.start.toNat ≤ 86340 ∧ b.start.toNat % 60 = 0)),
    (6, decide (60 ≤ b.length.toNat ∧ b.length.toNat ≤ 720)), (7, decide (300 ≤ b.takt.toNat ∧ b.takt.toNat ≤ 6000)),
    (8, decide (1 ≤ b.target.toNat ∧ b.target.toNat ≤ 2000)), (9, decide (b.overtime.toNat ≤ 120)),
    (10, decide (1 ≤ b.recovery.toNat ∧ b.recovery.toNat ≤ b.behind.toNat))]
  ++ ((List.finRange 6).filter fun i => decide (i.val < b.count.toNat)).map fun i => (10 + num i, breakFits b i)

/-- The detail of the first field out of range; none for a valid plan (R123). -/
def planError (b : PlanBlock) : Option Nat := ((planChecks b).find? fun c => !c.2).map Prod.fst

/-- Rewrite the header if the in-use marks or its other fields changed, and the tally (R124, R135). -/
def showPlans (old s : State) : State := writeRow .tally (syncRow old .header (bringTally s))

/-- Place a plan by the shift state at the take; the SHIFT entry carries the reason (R124, R137). -/
def placePlan (reason : Nat) (p : Plan) (s : State) : State × Answer :=
  let start := p.block.start.toNat / 60
  if s.shiftOpen then
    let replaced := s.shift.next.isSome
    let t := updShift (fun v => { v with next := some p }) s
    (showPlans s (logShift t.shift.state (reason + 64 * bit replaced) p.source start t), done 1 [BitVec.ofNat 8 (bit replaced)])
  else
    let replaced := s.shift.pending.isSome
    let t := updShift (fun v => { v with pending := some p, state := .pending }) s
    (showPlans s (logShift .pending (reason + 64 * bit replaced) p.source start t),
      done 0 [BitVec.ofNat 8 (bit replaced)])

/-! ### Start (R125) -/

/-- The tally zeroed for a start at the present instant (R125, step 3), the shift RUNNING (step 4). -/
def Shift.started (v : Shift) (tenths : Nat) (now : Word) : Shift :=
  { v with
    state := .running, sinceReset := true, shown := v.current, breaksBegun := 0, breakFrom := 0, breakTaken := 0,
    startTenths := tenths, startPart := now,
    startTime := if v.clock.isSet then some (v.clock.second, v.clock.day) else none, elapsed := 0, working := 0,
    planCount := 0, actual := 0, pace := none, unplanned := 0, callsRaised := 0, closeReason := none,
    zoneCount := Vector.replicate 8 0, zoneBehind := Vector.replicate 8 false, zonePace := Vector.replicate 8 none }

/-- The call table zeroes calls raised this shift in every station row (R53, R125). -/
def zeroRaisedShift (s : State) : State :=
  let raised := (List.finRange 160).filter fun n => s.calls.stations[n].raisedShift != 0
  let t := { s with calls := { s.calls with stations := s.calls.stations.map fun st => { st with raisedShift := 0 } } }
  writeRows (raised.map Row.station) t

/-- The PENDING plan starts, for a reason 3, 4 or 5, late by some minutes (R125). -/
def startShiftStep (reason late : Nat) (s : State) : State :=
  let t := updShift (fun v => { v with current := v.pending, pending := none }) s
  let u := logShift .running reason s.shift.unplanned late (syncRow s .header t)
  let v := updShift (fun x => x.started s.tenths s.partTime) u
  showShift (List.finRange 8) (zeroRaisedShift (attributionShiftStarts v))

def startShift (reason late : Nat) (s : State) : State := shiftOnly s (startShiftStep reason late s)

/-! ### Close (R128) -/

/-- The zone entries of a history row (R136). -/
def State.historyZone (s : State) (z : Fin 8) : HistoryZone :=
  { defined := (s.zone z).isSome, behind := s.shift.zoneBehind[z], count := s.shift.zoneCount[z],
    downtime := s.attr.totals[z].totals.map fun t => t / 10, stops := s.attr.totals[z].stops,
    shorts := s.attr.totals[z].shorts }

def State.historyEntry (s : State) (reason : CloseReason) : HistoryEntry :=
  let v := s.shift
  { name := (v.current.map fun p => p.block.name.toNat).getD 0, source := (v.current.map Plan.source).getD 0,
    reason := reason, startPart := v.startPart, startTime := v.startTime, elapsed := v.elapsed, working := v.working,
    target := s.target, plan := v.planCount, actual := v.actual, calls := v.callsRaised, pace := v.pace,
    zones := Vector.ofFn s.historyZone }

/-- File the tally: the rows move down by one, the oldest of 8 is dropped, and every row that changed is rewritten
(R136). -/
def fileShift (reason : CloseReason) (s : State) : State :=
  let t := updShift (fun v => { v with history := (s.historyEntry reason :: v.history).take 8 }) s
  syncRows s ((List.finRange 8).map Row.shiftHistory) t

/-- The plan count as of W (R130). At a close, a rise that falls at that very instant is counted here and no zone is evaluated
on it, so that the pace states filed stand as R128 finds them (DEDUCED, notes/assumptions/9.md). -/
def bringPlanCount (s : State) : State :=
  updShift (fun v => { v with planCount := min s.target (s.shiftW / s.takt) }) s

/-- SHIFT flags of a close (R137). -/
def closeFlags (r : CloseReason) : Nat := 8 + r.code

/-- A shift closes (R128). With the shift no longer open, the drive unit is told of the end of a break, before the records
of the drives still stopped open again. -/
def closeShiftStep (reason : CloseReason) (s : State) : State :=
  let drives := s.openDrives
  let t := fileShift reason (bringTally (bringPlanCount (attributionShiftCloses s)))
  let behind := (List.finRange 8).filter fun z => t.shift.zoneBehind[z]
  let u := each behind (crossPace false true) t
  let after := if u.shift.next.isSome then ShiftState.pending else .idle
  let v := logShift after (closeFlags reason) u.shift.actual u.shift.planCount u
  let w := updShift (fun x =>
    { x with current := none, pending := x.next, next := none, state := after, closeReason := some reason }) v
  writeRows (.tally :: (List.finRange 8).map Row.zone) (attributionReopens drives (follow s (syncRow v .header w)))

def closeShift (reason : CloseReason) (s : State) : State := shiftOnly s (closeShiftStep reason s)

/-- A part reset cuts an open shift: SHIFT with reason 14 (R138). -/
def cutShift (s : State) : State :=
  if s.shiftOpen then logShift .idle 14 s.shift.actual s.shift.planCount s else s

/-! ### Timers of the open shift (R126, R130) -/

/-- The instant, in milliseconds, at which E reaches a count of tenths. -/
def State.instantOfE (s : State) (e : Nat) : Nat := 100 * (s.shift.startTenths + e)

/-- The break with index `i` of the current plan. -/
def State.breakSpan (s : State) (i : Nat) : Option BreakSpan :=
  match s.shift.current with
  | none => none
  | some p => if i < p.block.count.toNat then p.block.breaks[i]? else none

/-- The break mode of the current plan is BREAK FIRST. -/
def State.breakFirst (s : State) : Bool := (s.shift.current.map fun p => p.block.mode == 0).getD true

/-- E reaches the offset of the next break, in RUNNING (R126). -/
def breakBegin (s : State) : State :=
  match s.shift.state, s.breakSpan s.shift.breaksBegun with
  | .running, some b =>
    let t := s.reach (s.instantOfE (600 * b.offset.toNat))
    let u := bringTally (bringAll t)
    let v := updShift (fun x =>
      { x with state := .onBreak, breaksBegun := x.breaksBegun + 1, breakFrom := t.shiftE }) u
    let w := logShift .onBreak 6 v.shift.breaksBegun (v.shift.working / 600) v
    settle s (shiftOnly t (writeRow .tally (breakBegins w.breakFirst w)))
  | _, _ => s

/-- BREAK_BEGIN (R126). -/
def execBreakBegin (s : State) : Host.Outcome State Fault Refusal := .next (breakBegin s)

/-- E reaches the end of the break in course (R126). -/
def breakEnd (s : State) : State :=
  match s.shift.state, s.breakSpan (s.shift.breaksBegun - 1) with
  | .onBreak, some b =>
    let t := s.reach (s.instantOfE (600 * (b.offset.toNat + b.length.toNat)))
    let u := bringTally (bringAll t)
    let v := updShift (fun x =>
      { x with state := .running, breakTaken := x.breakTaken + (t.shiftE - x.breakFrom) }) u
    let w := logShift .running 7 v.shift.breaksBegun (v.shift.working / 600) v
    settle s (shiftOnly t (writeRow .tally (breakEnds w)))
  | _, _ => s

/-- BREAK_END (R126). -/
def execBreakEnd (s : State) : Host.Outcome State Fault Refusal := .next (breakEnd s)

/-- E reaches the planned end, in RUNNING: a close, or OVERTIME (R126). -/
def plannedEnd (s : State) : State :=
  match s.shift.state, s.shift.current with
  | .running, some p =>
    let t := s.reach (s.instantOfE (600 * p.block.length.toNat))
    if p.block.target.toNat ≤ t.shift.actual ∨ p.block.overtime = 0 then settle s (closeShift .plannedEnd t)
    else
      let u := updShift (fun x => { x with state := .overtime }) (bringTally t)
      let v := logShift .overtime 8 u.shift.actual p.block.target.toNat u
      settle s (shiftOnly t (writeRow .tally v))
  | _, _ => s

/-- PLANNED_END (R126). -/
def execPlannedEnd (s : State) : Host.Outcome State Fault Refusal := .next (plannedEnd s)

/-- E reaches the overtime limit, in OVERTIME (R126). -/
def overtimeLimit (s : State) : State :=
  match s.shift.state, s.shift.current with
  | .overtime, some p =>
    settle s (closeShift .overtimeLimit
      (s.reach (s.instantOfE (600 * (p.block.length.toNat + p.block.overtime.toNat)))))
  | _, _ => s

/-- OVERTIME_LIMIT (R126). -/
def execOvertimeLimit (s : State) : Host.Outcome State Fault Refusal := .next (overtimeLimit s)

/-- The plan count rises by one: every defined zone's pace is evaluated, the tally and every zone row rewritten, since an
undefined zone's row shows a behind value too (R130, R132). -/
def risePlan (s : State) : State :=
  let t := bringTally (updShift (fun v => { v with planCount := v.planCount + 1 }) s)
  shiftOnly s (showShift (List.finRange 8) (each t.definedZones evaluateZone t))

/-- W reaches the next multiple of takt below the target (R130). W stands still ON BREAK, where the rise comes only if W
had reached the multiple when the break began. -/
def planRise (s : State) : State :=
  if s.shiftOpen && decide (s.shift.planCount < s.target) then
    let w := (s.shift.planCount + 1) * s.takt
    if s.shift.state = .onBreak then (if w ≤ s.shiftW then settle s (risePlan s) else s)
    else settle s (risePlan (s.reach (s.instantOfE (w + s.shift.breakTaken))))
  else s

/-- PLAN_RISE (R130). -/
def execPlanRise (s : State) : Host.Outcome State Fault Refusal := .next (planRise s)

/-- Once in every second of an open shift: E, W and the paces, the tally and the zone rows (R131, R132, R135). -/
def tallySecond (s : State) : State := if s.shiftOpen then settle s (showShift (List.finRange 8) s) else s

/-- TALLY_SECOND (R135). -/
def execTallySecond (s : State) : Host.Outcome State Fault Refusal := .next (tallySecond s)

/-! ### Counting (R129) -/

/-- A transfer of a defined zone in an open shift. -/
def countTransfer (z : Fin 8) (s : State) : State :=
  let last := s.lastZone == some z
  let t := follow s (updShift (fun v => { v with
    zoneCount := upd v.zoneCount z fun c => satAdd 65535 c 1,
    actual := if last then satAdd 65535 v.actual 1 else v.actual }) s)
  if t.shift.state = .overtime ∧ t.target ≤ t.shift.actual then closeShift .targetReached t
  else shiftOnly t (showShift [z] (evaluateZone z t))

/-- What the shift unit does with a transfer: counted in an open shift, unplanned for the last zone otherwise. -/
def shiftTransfer (z : Fin 8) (s : State) : State :=
  if s.shiftOpen then countTransfer z s
  else if s.lastZone == some z then
    writeRow .tally (updShift (fun v => { v with unplanned := satAdd 65535 v.unplanned 1 }) s)
  else s

/-- An exit transfer (R81, R99): discarded before the setup load and for an undefined zone; counted by the shift unit, then
handled at the zone's buffer. -/
def exitTransfer (z : Fin 8) (s : State) : State :=
  if s.part = .starting ∨ (s.zone z).isNone then s
  else
    let t := shiftTransfer z s
    let u := if h : z.val < 7 then motionOnly t (fillBuffer ⟨z.val, h⟩ t) else t
    settle s u

/-- EXIT_TRANSFER (R99). -/
def execExitTransfer (z : Fin 8) (s : State) : Host.Outcome State Fault Refusal := .next (exitTransfer z s)

/-! ### The clock (R121, R122) -/

/-- The clock one second on: the day number rises after 86399 and stops at 65535. -/
def Clock.tick (c : Clock) : Clock :=
  { c with
    second := if c.second < 86399 then c.second + 1 else 0,
    day := if c.second < 86399 then c.day else satAdd 65535 c.day 1,
    nextAdvance := c.nextAdvance + 1000 }

/-- The clock advances, and a PENDING shift starts when its start second is reached (R121). An UNSET clock does not
advance. -/
def clockAdvance (s : State) : State :=
  if s.shift.clock.isSet then
    let t := s.reach s.shift.clock.nextAdvance
    let u := writeRow .header (updShift (fun v => { v with clock := v.clock.tick }) t)
    let due : Bool := match u.shift.pending with
      | some p => u.shift.state == .pending && p.block.start.toNat == u.shift.clock.second
      | none => false
    settle s (if due then startShift 3 0 u else u)
  else s

/-- CLOCK_ADVANCE (R121). -/
def execClockAdvance (s : State) : Host.Outcome State Fault Refusal := .next (clockAdvance s)

/-- The seconds by which `second` lies past a plan's start second, modulo a day. -/
def latenessOf (p : Plan) (second : Nat) : Nat := (second + 86400 - p.block.start.toNat) % 86400

/-- The second lies in the plan's start window (R122). -/
def inWindow (p : Plan) (second : Nat) : Bool := decide (latenessOf p second < p.block.length.toNat * 60)

/-- SET CLOCK (R122). The ten tenths to the next advance are counted from the millisecond of the take, where the manual
counts part time in whole tenths (DESIGN CHOICE, notes/assumptions/33.md). -/
def setClock (second : Word) (day : Half) : Perform := fun s =>
  if 86399 < second.toNat then (s, some (refuse resRange 1))
  else
    let c := s.shift.clock
    let t := writeRow .header
      (updShift (fun v => { v with clock := ⟨true, second.toNat, day.toNat, s.ms + 1000⟩ }) s)
    let u := log kindClockSet (bit (!c.isSet)) day.toNat (second.toNat / 60) (second.toNat % 60) t
    let data := leBytes 4 c.second ++ leBytes 2 c.day ++ [BitVec.ofNat 8 (bit c.isSet)]
    match u.shift.state, u.shift.pending with
    | .pending, some p =>
      if inWindow p second.toNat then
        (startShift 4 (latenessOf p second.toNat / 60) u, some (done 1 data))
      else (u, some (done 0 data))
    | _, _ => (u, some (done 0 data))

/-- SET_CLOCK. -/
def execSetClock (p : Post) (second : Word) (day : Half) (s : State) : Host.Outcome State Fault Refusal :=
  .next (orderCommand p (.setClock second day) (setClock second day) s)

/-! ### Orders of the shift unit -/

/-- DEFINE SHIFT PLAN (R123, R124). -/
def defineShiftPlan (b : PlanBlock) : Perform := fun s =>
  match planError b with
  | some detail => (s, some (refuse resRange detail))
  | none =>
    let r := placePlan 1 ⟨b, 0⟩ s
    (r.1, some r.2)

/-- DEFINE_SHIFT_PLAN. -/
def execDefineShiftPlan (p : Post) (b : PlanBlock) (s : State) : Host.Outcome State Fault Refusal :=
  .next (orderCommand p (.defineShiftPlan b) (defineShiftPlan b) s)

/-- LOAD SHIFT PLAN (R124): judged by the place as it stood before an operation in work (R161). -/
def loadShiftPlan (place : Byte) : Perform := fun s =>
  match index? 16 place.toNat with
  | none => (s, some (refuse resRange 1))
  | some i =>
    match s.store.plans[i].state, s.store.plans[i].stored with
    | .empty, _ => (s, some (refuse resStoreEmpty 0))
    | .valid, .good b =>
      let r := placePlan 2 ⟨b, num i⟩ s
      (r.1, some r.2)
    | _, _ => (s, some (refuse resStoreDamaged 0))

/-- LOAD_SHIFT_PLAN. -/
def execLoadShiftPlan (p : Post) (place : Byte) (s : State) : Host.Outcome State Fault Refusal :=
  .next (orderCommand p (.loadShiftPlan place) (loadShiftPlan place) s)

/-- START SHIFT NOW (R127). -/
def startShiftNow : Perform := fun s =>
  if s.shift.state = .pending then (startShift 5 0 s, some (done))
  else (s, some (refuse resState s.shift.state.code))

/-- START_SHIFT_NOW. -/
def execStartShiftNow (p : Post) (s : State) : Host.Outcome State Fault Refusal :=
  .next (orderCommand p .startShiftNow startShiftNow s)

/-- END SHIFT (R127). -/
def endShift : Perform := fun s =>
  match s.shift.state with
  | .idle => (s, some (refuse resState 0))
  | .pending =>
    let t := updShift (fun v => { v with pending := none, state := .idle }) s
    (shiftOnly s (showPlans s (logShift .idle 13 0 0 t)), some (done 1))
  | _ =>
    let t := closeShift .endShift s
    (t, some (done 0 (leBytes 2 t.shift.actual ++ leBytes 2 t.shift.planCount)))

/-- END_SHIFT. -/
def execEndShift (p : Post) (s : State) : Host.Outcome State Fault Refusal :=
  .next (orderCommand p .endShift endShift s)

/-- COLLECT PACE NOTICES (R134). -/
def collectPaceNotices : Perform := fun s =>
  let v := s.shift
  let answer : Answer :=
    { code := resDone, detail := v.behindList.length + 256 * v.recovered.length,
      params := some (v.behindList.map (fun z => BitVec.ofNat 8 (num z))
        ++ v.recovered.map fun e => BitVec.ofNat 8 (recoveredByte e)) }
  (writeRow .paceLists (updShift (fun v => { v with behindList := [], recovered := [] }) s), some answer)

/-- COLLECT_PACE_NOTICES. -/
def execCollectPaceNotices (p : Post) (s : State) : Host.Outcome State Fault Refusal :=
  .next (orderCommand p .collectPaceNotices collectPaceNotices s)

end Sys2Proof.Machine
end

