-- ==== Sys2Proof/Machine/ZoneService.lean ====
section
/-! DEFINITION. Zone service (section 2.7): the service state of each zone, drains, and the orders that change it. -/

namespace Sys2Proof.Machine

/-- The service part of the setup unit: states, drain slots, and the calls open when each drain began. -/
def serviceOf (u v : Setup) : Setup :=
  { u with service := v.service, drainSlot := v.drainSlot, drainCalls := v.drainCalls }

/-- What a change of a zone's service state may change. -/
def serviceOnly (s t : State) : State :=
  { followed s t with
    setup := serviceOf s.setup t.setup, ord := orderEnds s.ord t.ord, drv := t.drv, attr := t.attr, win := t.win,
    jrn := t.jrn, irq := t.irq }

/-- A zone's open calls, counted by its active-call list (R56). -/
def State.openIn (s : State) (z : Fin 8) : Nat := s.calls.active[z].length

/-- A change of a zone's service state (R32): the totals are brought up to the instant under the old state, with the open
slot of the zone's drive (R105, R112), the row shows the new state with its drain slot, and ZONE SERVICE is journaled with
the reason in its flags. The report then reaches the attribution unit first, and the drive unit after it (R112). -/
def changeService (z : Fin 8) (v : Service) (slot : Option (Fin 24)) (calls flags : Nat) (s : State) : State :=
  let t := match s.zoneDrive z with
    | some d => showOpen d (accrue z s)
    | none => accrue z s
  let u := { t with setup := { t.setup with
    service := upd t.setup.service z fun _ => v, drainSlot := upd t.setup.drainSlot z fun _ => slot,
    drainCalls := upd t.setup.drainCalls z fun _ => calls } }
  log kindZoneService flags (num z) v.code (s.openIn z) (writeRow (.zone z) u)

/-- Under the HOLD policy, a PANEL demand for each LOST panel that serves a station of the zone (R33), in ascending panel
number, an order the manual leaves open (DESIGN CHOICE, notes/assumptions/32.md). The drive's row is left to the order. -/
def addLostPanels (z : Fin 8) (s : State) : State :=
  match s.zone z with
  | none => s
  | some f =>
    if f.ignoreLoss then s
    else
      each ((List.finRange 40).filter fun p => s.loop.panels[p].state == .lost && s.serves p z)
        (fun p t => (addPanelDemand p z t).1) s

/-- A zone enters IN SERVICE from OUT OF SERVICE, with the reason 1 or 5 (R33, R107). -/
def enterService (z : Fin 8) (flags : Nat) (s : State) : State :=
  let t := follow s (zoneJoins z (changeService z .inService none 0 flags s))
  serviceOnly s (syncRows s (s.driveRow z) (addLostPanels z t))

/-- PLACE ZONE IN SERVICE (R33). -/
def placeZoneInService (zone : Byte) : Perform := fun s =>
  match index? 8 zone.toNat with
  | none => (s, some (refuse resRange 0))
  | some z =>
    match s.zone z with
    | none => (s, some (refuse resState 1))
    | some f =>
      if s.setup.drives[f.drive].isNone then (s, some (refuse resState 2))
      else
        match s.setup.service[z] with
        | .draining => (s, some (refuse resState 3))
        | .inService => (s, some (done 0))
        | .outOfService => (enterService z 1 s, some (done 1))

/-- PLACE_ZONE_IN_SERVICE. -/
def execPlaceZoneInService (p : Post) (zone : Byte) (s : State) : Host.Outcome State Fault Refusal :=
  .next (orderCommand p (.placeZoneInService zone) (placeZoneInService zone) s)

/-- A zone leaves IN SERVICE with no open call: OUT OF SERVICE at once (R34). -/
def leaveService (z : Fin 8) (s : State) : State :=
  serviceOnly s (removeZoneDemands z (follow s (zoneLeft z (changeService z .outOfService none 0 2 s))))

/-- A zone leaves IN SERVICE with open calls: DRAINING, with the drain slot (R34). -/
def beginDrain (z : Fin 8) (k : Fin 24) (s : State) : State :=
  serviceOnly s (removeZoneDemands z (follow s (changeService z .draining (some k) (s.openIn z) 2 s)))

/-- TAKE ZONE OUT OF SERVICE taken from slot `k` (R34); no answer when the drain is accepted. -/
def takeZoneOutOfService (k : Fin 24) (zone : Byte) : Perform := fun s =>
  match index? 8 zone.toNat with
  | none => (s, some (refuse resRange 0))
  | some z =>
    if (s.zone z).isNone then (s, some (done 0))
    else
      match s.setup.service[z] with
      | .outOfService => (s, some (done 0))
      | .draining => (s, some (refuse resBusy ((s.setup.drainSlot[z].map num).getD 0)))
      | .inService => if s.openIn z = 0 then (leaveService z s, some (done 0)) else (beginDrain z k s, none)

/-- TAKE_ZONE_OUT_OF_SERVICE. -/
def execTakeZoneOutOfService (p : Post) (zone : Byte) (s : State) : Host.Outcome State Fault Refusal :=
  .next (orderCommand p (.takeZoneOutOfService zone) (takeZoneOutOfService p.slot zone) s)

/-- The drain is complete (R35): OUT OF SERVICE, journaled, and the end of the long order reported. -/
def completeDrain (z : Fin 8) (s : State) : State :=
  let t := follow s (zoneLeft z (changeService z .outOfService none 0 3 s))
  serviceOnly s (match s.setup.drainSlot[z] with
    | some k => endLong k (done s.setup.drainCalls[z] (wordBytes s.partTime)) t
    | none => t)

/-- A closing of one of a zone's calls is reported to the setup unit (R35). -/
def reportClosing (z : Fin 8) (s : State) : State :=
  if s.setup.service[z] = .draining ∧ s.openIn z = 0 then completeDrain z s else s

/-- STOP ALL WORK aborts a drain: the zone is back IN SERVICE (R37). The order unit writes the slot, and the drive's row
with the others that the order changes. -/
def abortDrain (z : Fin 8) (s : State) : State :=
  serviceOnly s (addLostPanels z (follow s (changeService z .inService none 0 4 s)))

end Sys2Proof.Machine
end

