-- ==== Sys2Proof/Machine/Calls.lean ====
section
/-! DEFINITION. The call table (chapter 4): presses, the opening, repeat, answer and clear of calls, and its orders. -/

namespace Sys2Proof.Machine

/-- The part of the tally that an opening may change: calls raised, and the figures brought up to date. -/
def tallyOf (u v : Shift) : Shift :=
  { u with callsRaised := v.callsRaised, elapsed := v.elapsed, working := v.working, pace := v.pace,
           zonePace := v.zonePace }

/-- What presses and the call orders may change. -/
def callsOnly (s t : State) : State :=
  { followed s t with
    setup := serviceOf s.setup t.setup, ord := orderEnds s.ord t.ord, calls := t.calls, alerts := t.alerts,
    drv := t.drv, attr := t.attr, shift := tallyOf s.shift t.shift, win := t.win, jrn := t.jrn, irq := t.irq }

/-- Change a station's row fields that the call table counts. -/
def updStation (n : Fin 160) (f : Station → Station) (s : State) : State :=
  { s with calls := { s.calls with stations := upd s.calls.stations n f } }

/-- The tail of every journal entry about a call: subject the station, detail A the serial modulo 65536 (R67). -/
def logCall (kind flags : Nat) (n : Fin 160) (c : Call) (detailB : Nat) (s : State) : State :=
  log kind flags (num n) (c.serial % 65536) detailB s

/-- Seconds since a call was raised, saturating at 65535 (R67). -/
def State.secondsOpen (s : State) (c : Call) : Nat := satTo 65535 (tenthsBetween c.raisedAt s.partTime / 10)

/-! ### Opening and repeating (R58, R59) -/

/-- The shift unit's part of an opening: calls raised, in an open shift (R58 step 3, R129). -/
def countRaised (n : Fin 160) (s : State) : State :=
  if s.shiftOpen then
    showShift [] (updShift (fun v => { v with callsRaised := satAdd 65535 v.callsRaised 1 })
      (updStation n (fun r => { r with raisedShift := satAdd 65535 r.raisedShift 1 }) s))
  else s

/-- The entry of a call that opens now (R58 steps 1, 4 and 5). -/
def State.newCall (s : State) (n : Fin 160) (z : Fin 8) (k : Kind) (origin : Origin) : Call :=
  let group := s.setup.bindings[n].group
  { answered := false, origin := origin, serial := s.calls.nextSerial, raisedAt := s.partTime, answeredAt := none,
    repeats := 0, group := group, level := 0, nextEscalation := s.climbTime group 0 s.tenths, stop := s.armStatus z k }

/-- A kind press opens a call (R58). -/
def openCall (n : Fin 160) (z : Fin 8) (k : Kind) (origin : Origin) (s : State) : State :=
  let c := s.newCall n z k origin
  let t := setCall n k (some c) s
  let u := { t with calls := { t.calls with
    nextSerial := t.calls.nextSerial + 1,
    active := upd t.calls.active z fun l => l ++ [⟨n, k, c.serial⟩] } }
  follow s (logCall kindCallRaised (k.code + 4 * origin.code) n c (c.serial / 65536 % 65536) (countRaised n u))

/-- A kind press repeats an open call (R59). -/
def repeatCall (n : Fin 160) (k : Kind) (origin : Origin) (c : Call) (s : State) : State :=
  let t := updCall n k (fun c => { c with repeats := satAdd 255 c.repeats 1 }) s
  let u := if c.answered then t else escalateRepeat n k t
  follow s (logCall kindCallRepeated (k.code + 4 * origin.code + 8 * bit c.answered) n c (satAdd 255 c.repeats 1) u)

/-- A kind press at a station of an IN SERVICE zone, without the rewriting of rows. -/
def kindPress (n : Fin 160) (z : Fin 8) (k : Kind) (origin : Origin) (s : State) : State :=
  match s.call n k with
  | none => openCall n z k origin s
  | some c => repeatCall n k origin c s

/-! ### Answering and clearing (R60, R63) -/

/-- One RAISED call is answered; `source` is 0 for a KEY press, 1 for ANSWER CALL (R60, R74, R88). -/
def answerOne (n : Fin 160) (z : Fin 8) (k : Kind) (source : Nat) (c : Call) (s : State) : State :=
  let t := reevaluateAlerts (updCall n k
    (fun c => { c with answered := true, answeredAt := some s.partTime, nextEscalation := none }) s)
  follow s (logCall kindCallAnswered (k.code + 4 * source) n c (s.secondsOpen c) (answerStop ⟨n, k, c.serial⟩ z t))

/-- The reasons of a clear (R63): KEY, ORDER, FORCED. -/
def clearKey : Nat := 1
def clearOrder : Nat := 2
def clearForced : Nat := 3

/-- One open call is cleared (R63). -/
def clearOne (n : Fin 160) (z : Fin 8) (k : Kind) (reason : Nat) (c : Call) (s : State) : State :=
  let t := logCall kindCallCleared (k.code + 4 * reason) n c (s.secondsOpen c) (clearStop ⟨n, k, c.serial⟩ z s)
  let u := setCall n k none t
  let v := { u with calls := { u.calls with
    active := upd u.calls.active z fun l => l.filter fun r => r.serial != c.serial } }
  reportClosing z (follow s (reevaluateAlerts v))

/-- A station's RAISED calls, in kind order. -/
def State.raisedCalls (s : State) (n : Fin 160) : List (Kind × Call) := (s.stationCalls n).filter fun c => !c.2.answered

/-- The calls that a KEY press acts on (R61): the RAISED ones, or else the ANSWERED ones, in kind order. -/
def State.keyedCalls (s : State) (n : Fin 160) : List (Kind × Call) :=
  if (s.raisedCalls n).isEmpty then s.stationCalls n else s.raisedCalls n

/-- A KEY press at a station with open calls (R61, cases 1 and 2): every RAISED call is answered, or else every ANSWERED call
cleared, in kind order. -/
def keyPress (n : Fin 160) (z : Fin 8) (s : State) : State :=
  each (s.keyedCalls n) (fun c t =>
    if (s.raisedCalls n).isEmpty then clearOne n z c.1 clearKey c.2 t else answerOne n z c.1 0 c.2 t) s

/-! ### Presses (R57) -/

/-- The rows of the groups that some calls belong to, each once; group 0 has none. -/
def groupRowsOf (cs : List Call) : List Row :=
  ((List.finRange 24).filter fun g => cs.any fun c => c.group == num g).map Row.group

/-- The group row that a kind press rewrites (R78): of the call it raises or climbs; a repeat of an ANSWERED call and one at
the top change nothing at the escalation unit (R73). -/
def State.pressGroup (s : State) (n : Fin 160) (k : Kind) : List Row :=
  match s.call n k with
  | none => groupRow (s.setup.bindings[n]).group
  | some c => if c.answered || s.atTop c then [] else groupRow c.group

/-- The rows that an event at a station rewrites once each: the station's own, in any case (R53, R59), those of the groups
whose calls it touched (R78), and its drive's if its demand set changed (R82). -/
def rewriteCallRows (old : State) (n : Fin 160) (groups : List Row) (z : Fin 8) (s : State) : State :=
  syncRows old (old.driveRow z) (writeRows (.station n :: groups) s)

/-- A press that is ignored is counted (R62). -/
def ignorePress (n : Fin 160) (s : State) : State :=
  writeRow (.station n) (updStation n (fun r => { r with ignored := satAdd 65535 r.ignored 1 }) s)

/-- A panel press (R57): ignored, a kind press, or a KEY press. -/
def pressStep (n : Fin 160) (i : PressInput) (s : State) : State :=
  match s.stationZone n with
  | none => ignorePress n s
  | some z =>
    match s.setup.service[z], i.kind? with
    | .outOfService, _ => ignorePress n s
    | .draining, some _ => ignorePress n s
    | .inService, some k => rewriteCallRows s n (s.pressGroup n k) z (kindPress n z k .panel s)
    | _, none =>
      if (s.stationCalls n).isEmpty then ignorePress n s
      else rewriteCallRows s n (groupRowsOf ((s.keyedCalls n).map Prod.snd)) z (keyPress n z s)

/-- A press is handled whole before the next (section 4.2). -/
def press (n : Fin 160) (i : PressInput) (s : State) : State := callsOnly s (settle s (pressStep n i s))

/-! ### The call orders (section 4.5) -/

/-- The parameter check common to the three orders: the station first (section 4.5). -/
def callParams (station kind : Byte) : Fin 160 × Kind ⊕ Answer :=
  match index? 160 station.toNat, Kind.ofCode? kind.toNat with
  | none, _ => .inr (refuse resRange 1)
  | some _, none => .inr (refuse resRange 2)
  | some n, some k => .inl (n, k)

/-- The result of RAISE CALL for the call as it stands after the order (R64). -/
def raiseAnswer (repeated : Bool) (c : Call) : Answer :=
  done (bit repeated) (leBytes 4 c.serial ++ [BitVec.ofNat 8 c.stop.code] ++
    (if repeated then [BitVec.ofNat 8 c.repeats, 0]
     else match c.stop with
      | .armed d => halfBytes d
      | _ => [0, 0]))

/-- RAISE CALL (R64). -/
def raiseCall (station kind : Byte) : Perform := fun s =>
  match callParams station kind with
  | .inr a => (s, some a)
  | .inl (n, k) =>
    match s.stationZone n with
    | none => (s, some (refuse resState 1))
    | some z =>
      match s.setup.service[z] with
      | .draining => (s, some (refuse resState 2))
      | .outOfService => (s, some (refuse resState 3))
      | .inService =>
        let t := callsOnly s (rewriteCallRows s n (s.pressGroup n k) z (kindPress n z k .order s))
        (t, some (raiseAnswer (s.call n k).isSome ((t.call n k).getD (s.newCall n z k .order))))

/-- RAISE_CALL. -/
def execRaiseCall (p : Post) (station kind : Byte) (s : State) : Host.Outcome State Fault Refusal :=
  .next (orderCommand p (.raiseCall station kind) (raiseCall station kind) s)

/-- The result of ANSWER CALL (R65). -/
def answerAnswer (detail : Nat) (c : Call) : Answer := done detail (leBytes 4 c.serial ++ [BitVec.ofNat 8 c.stop.code])

/-- ANSWER CALL (R65). -/
def answerCall (station kind : Byte) : Perform := fun s =>
  match callParams station kind with
  | .inr a => (s, some a)
  | .inl (n, k) =>
    match s.call n k, s.stationZone n with
    | some c, some z =>
      if c.answered then (s, some (answerAnswer 2 c))
      else
        let t := callsOnly s (rewriteCallRows s n (groupRow c.group) z (answerOne n z k 1 c s))
        (t, some (answerAnswer 0 ((t.call n k).getD c)))
    | _, _ => (s, some (refuse resState 1))

/-- ANSWER_CALL. -/
def execAnswerCall (p : Post) (station kind : Byte) (s : State) : Host.Outcome State Fault Refusal :=
  .next (orderCommand p (.answerCall station kind) (answerCall station kind) s)

/-- CLEAR CALL (R66). -/
def clearCall (station kind : Byte) : Perform := fun s =>
  match callParams station kind with
  | .inr a => (s, some a)
  | .inl (n, k) =>
    match s.call n k, s.stationZone n with
    | some c, some z =>
      (callsOnly s (rewriteCallRows s n (groupRow c.group) z (clearOne n z k clearOrder c s)),
        some (done (if c.answered then 2 else 1)
          (leBytes 4 c.serial ++ leBytes 4 (tenthsBetween c.raisedAt s.partTime))))
    | _, _ => (s, some (refuse resState 1))

/-- CLEAR_CALL. -/
def execClearCall (p : Post) (station kind : Byte) (s : State) : Host.Outcome State Fault Refusal :=
  .next (orderCommand p (.clearCall station kind) (clearCall station kind) s)

/-! ### FORCE DRAIN (R36) -/

/-- Clear the call a reference names, if it is open. -/
def clearRef (z : Fin 8) (reason : Nat) (r : CallRef) (s : State) : State :=
  match s.callAt r with
  | some c => clearOne r.station z r.kind reason c s
  | none => s

/-- Every open call of a DRAINING zone is cleared FORCED, oldest serial first. -/
def forceClears (z : Fin 8) (s : State) : State :=
  let l := s.calls.active[z]
  let t := each l (clearRef z clearForced) s
  let stations := (List.finRange 160).filter fun n => l.any fun r => r.station == n
  callsOnly s (syncRows s (stations.map Row.station ++ groupRowsOf (l.filterMap s.callAt) ++ s.driveRow z) t)

/-- FORCE DRAIN (R36). -/
def forceDrain (zone : Byte) : Perform := fun s =>
  match index? 8 zone.toNat with
  | none => (s, some (refuse resRange 0))
  | some z =>
    if s.setup.service[z] = .draining then (forceClears z s, some (done (s.openIn z)))
    else (s, some (refuse resState s.setup.service[z].code))

/-- FORCE_DRAIN. -/
def execForceDrain (p : Post) (zone : Byte) (s : State) : Host.Outcome State Fault Refusal :=
  .next (orderCommand p (.forceDrain zone) (forceDrain zone) s)

end Sys2Proof.Machine
end

