-- ==== Sys2Proof/Machine/CallLoop.lean ====
section
/-! DEFINITION. The call loop controller (chapter 3): polls, events, panel states and panel loss. -/

namespace Sys2Proof.Machine

def updPanel (p : Fin 40) (f : Panel → Panel) (s : State) : State :=
  { s with loop := { s.loop with panels := upd s.loop.panels p f } }

def setPoll (q : Option Poll) (s : State) : State := { s with loop := { s.loop with poll := q } }

/-- What the events of the call loop may change: everything a press may, and the loop's own state. -/
def loopOnly (s t : State) : State :=
  { followed s t with
    setup := serviceOf s.setup t.setup, ord := orderEnds s.ord t.ord, calls := t.calls, alerts := t.alerts,
    loop := { s.loop with panels := t.loop.panels, poll := t.loop.poll }, drv := t.drv, attr := t.attr,
    shift := tallyOf s.shift t.shift, win := t.win, jrn := t.jrn, irq := t.irq }

/-! ### Sending (R40, R41) -/

/-- The lamp of a station's channel (R41). -/
def State.lampOf (s : State) (n : Fin 160) : Lamp :=
  let open_ := (s.stationCalls n).map Prod.snd
  if open_.any fun c => c.stop.code == 2 then .fastFlash
  else if open_.any fun c => !c.answered then .slowFlash
  else if open_.any Call.answered then .steady
  else .off

def State.lampsOf (s : State) (p : Fin 40) : Vector Lamp 4 := Vector.ofFn fun c => s.lampOf (stationAt p c)

/-- The poll frame of an attempt (R41). -/
structure PollFrame where
  address : Nat
  ack     : Byte
  valid   : Bool
  lamps   : Vector Lamp 4
  deriving DecidableEq, Repr

/-- The frame on the loop while a poll is in progress. -/
def State.pollFrame (s : State) (q : Poll) : PollFrame :=
  ⟨num q.panel, s.loop.panels[q.panel].last, s.loop.panels[q.panel].base, q.lamps⟩

/-- The panels after a rotation position, in ascending number, panel 1 following panel 40 (R40). -/
def afterPanel (r : Fin 40) : List (Fin 40) :=
  (List.finRange 40).filter (fun p => decide (r < p)) ++ (List.finRange 40).filter (fun p => decide (p ≤ r))

/-- A panel of the rotation: fitted and not LOST. -/
def Panel.inRotation (v : Panel) : Bool :=
  match v.state with
  | .seeking => true
  | .online => true
  | .weak => true
  | _ => false

/-- The lowest-numbered LOST panel with a poll due (R40). -/
def State.lostDue (s : State) : Option (Fin 40) :=
  (List.finRange 40).find? fun p => s.loop.panels[p].state == .lost && s.loop.panels[p].due

/-- The next panel of the rotation (R40). -/
def State.nextInRotation (s : State) : Option (Fin 40) :=
  (afterPanel s.loop.rotation).find? fun p => (s.loop.panels[p]).inRotation

/-- Send attempt number `a` of a poll of a panel (R41, R42). -/
def sendAttempt (p : Fin 40) (a : Nat) (void : Bool) (s : State) : State :=
  setPoll (some ⟨p, a, s.lampsOf p, s.ms + Config.loopTimeoutMs * s.loop.scale, void⟩) s

/-- The loop is chosen (R40): a LOST panel whose poll is due, else the next of the rotation, else nothing. -/
def pollSend (s : State) : State :=
  if s.part = .starting ∨ s.loop.poll.isSome then s
  else
    match s.lostDue with
    | some p => sendAttempt p 1 false (updPanel p (fun v => { v with due := false }) s)
    | none =>
      match s.nextInRotation with
      | some p => sendAttempt p 1 false { s with loop := { s.loop with rotation := p } }
      | none => s

/-- POLL_SEND (R40, R41). -/
def execPollSend (s : State) : Host.Outcome State Fault Refusal := .next (pollSend s)

/-- A LOST panel's poll falls due (R40). -/
def lostPollDue (p : Fin 40) (s : State) : State :=
  let v := s.loop.panels[p]
  match v.state, v.dueAt with
  | .lost, some t => updPanel p (fun v => { v with due := true, dueAt := none }) (s.reach t)
  | _, _ => s

/-- LOST_POLL_DUE (R40). -/
def execLostPollDue (p : Fin 40) (s : State) : Host.Outcome State Fault Refusal := .next (lostPollDue p s)

/-! ### Panel states (R47, R49, R50) -/

/-- The panel-lost flags of a panel's four stations. -/
def markPanelLost (p : Fin 40) (b : Bool) (s : State) : State :=
  each (stationsOf p) (fun n t => updStation n (fun r => { r with panelLost := b }) t) s

/-- The panel-lost flags of a panel's four stations, with their rows (R49, R50). -/
def setPanelLost (p : Fin 40) (b : Bool) (s : State) : State :=
  writeRows ((stationsOf p).map Row.station) (markPanelLost p b s)

/-- PANEL STATE (R47). -/
def logPanel (p : Fin 40) (new old : PanelState) (demands : Nat) (s : State) : State :=
  log kindPanelState demands (num p) new.code old.code s

/-- The zones that take a PANEL demand for a lost panel (R49), in ascending zone number: the order of the demands, which the
manual leaves open (DESIGN CHOICE, notes/assumptions/32.md). -/
def State.holdZones (s : State) (p : Fin 40) : List (Fin 8) :=
  (List.finRange 8).filter fun z =>
    s.setup.service[z] == .inService && s.serves p z && ((s.zone z).map fun f => !f.ignoreLoss).getD false

/-- Add the PANEL demands of a panel that enters LOST; the number added comes with them. -/
def addDemands (p : Fin 40) (zs : List (Fin 8)) (s : State) : State × Nat :=
  zs.foldl (fun r z => let a := addPanelDemand p z r.1; (a.1, r.2 + a.2)) (s, 0)

/-- A panel enters LOST (R49), its drives' rows rewritten once each; its first poll falls due 1 s later (R40). -/
def enterLost (p : Fin 40) (old : PanelState) (s : State) : State :=
  let t := updPanel p (fun v => { v with state := .lost }) s
  let r := addDemands p (s.holdZones p) t
  raiseCause .fault (logPanel p .lost old r.2 (setPanelLost p true (syncRows s everyDriveRow r.1)))

/-- A panel leaves LOST by an answer (R50): PANEL STATE stands before the release of the stop request. -/
def recoverPanel (p : Fin 40) (new : PanelState) (s : State) : State :=
  let t := updPanel p (fun v => { v with state := new, dueAt := none, due := false }) s
  setPanelLost p false (removePanelDemands p (logPanel p new .lost (removePanelDemands p t).2 t)).1

/-- The state after a poll (R47). -/
def Panel.judged (v : Panel) (success : Bool) : PanelState :=
  if success then (if 2 ≤ failuresIn v.history then .weak else .online)
  else if 3 ≤ v.failures then .lost
  else if v.state = .seeking then .seeking
  else if 2 ≤ failuresIn v.history then .weak
  else .online

/-- Step 3 of R43: the state changes, or stays and journals nothing. -/
def judgePanel (p : Fin 40) (success : Bool) (s : State) : State :=
  let v := s.loop.panels[p]
  let new := v.judged success
  if new = v.state then s
  else if new = .lost then settle s (enterLost p v.state s)
  else if v.state = .lost then settle s (recoverPanel p new s)
  else logPanel p new v.state 0 (updPanel p (fun v => { v with state := new }) s)

/-! ### Events (R44 to R46) -/

/-- A press of a panel's channel, handed to the call table (R46). -/
def pressAt (p : Fin 40) (channel : Nat) (i : PressInput) (s : State) : State :=
  if h : channel < 4 then press (stationAt p ⟨channel, h⟩) i s else s

/-- An event is taken: L becomes its number, and the press is handed over. -/
def takePress (p : Fin 40) (e : PanelEvent) (s : State) : State :=
  let t := updPanel p (fun v => { v with last := e.number, base := true }) s
  match e.input with
  | some i => pressAt p e.channel i t
  | none => t

/-- An event that leaves a gap (R44). -/
def reportGap (p : Fin 40) (e : PanelEvent) (g : Nat) (s : State) : State :=
  log kindPanelEventsLost 1 (num p) g e.number.toNat (updPanel p (fun v => { v with eventsLost := satAdd 65535 v.eventsLost g }) s)

/-- Event `e` of an accepted answer (R44). -/
def takeEvent (p : Fin 40) (e : PanelEvent) (s : State) : State :=
  let v := s.loop.panels[p]
  if !v.base then takePress p e s
  else if (v.last - e.number).toNat < 8 then s
  else if e.number = v.last + 1 then takePress p e s
  else takePress p e (reportGap p e (e.number - v.last - 1).toNat s)

/-- The events-lost flag of an accepted answer (R45). -/
def takeLostFlag (p : Fin 40) (s : State) : State :=
  let t := updPanel p (fun v => { v with eventsLost := satAdd 65535 v.eventsLost 1 }) s
  log kindPanelEventsLost 2 (num p) 0 (s.loop.panels[p]).last.toNat t

/-! ### The end of a poll (R43) -/

/-- What an accepted answer brings: its events and its events-lost flag. -/
structure Accepted where
  eventsLost : Bool
  events     : List PanelEvent
  deriving DecidableEq, Repr

/-- Steps 1 and 2 of R43, with the lamp states of the last attempt (R41). -/
def Panel.record (v : Panel) (success : Bool) (lamps : Vector Lamp 4) : Panel :=
  let history := v.history ++ [!success]
  { v with
    answered := if success then satAdd 65535 v.answered 1 else v.answered,
    failed := if success then v.failed else satAdd 65535 v.failed 1,
    history := history.drop (history.length - 8),
    failures := if success then 0 else satAdd 65535 v.failures 1, lamps := lamps }

/-- A panel that is LOST after its poll is polled again 1 s later (R40). -/
def Panel.schedule (v : Panel) (ms : Nat) : Panel :=
  if v.state = .lost then { v with dueAt := some (ms + Config.lostPollMs), due := false } else v

/-- A poll ends (R43); the outcome of a poll whose panel became UNFITTED is discarded. -/
def endPoll (q : Poll) (a : Option Accepted) (s : State) : State :=
  let t := setPoll none s
  if q.void then t
  else
    let u := judgePanel q.panel a.isSome (updPanel q.panel (fun v => v.record a.isSome q.lamps) t)
    let v := match a with
      | some x =>
        let e := each x.events (takeEvent q.panel) u
        if x.eventsLost then takeLostFlag q.panel e else e
      | none => u
    writeRow (.panel q.panel) (updPanel q.panel (fun w => w.schedule s.ms) v)

/-- An attempt fails: the next one follows at once, and the poll fails with the third (R42). -/
def failAttempt (q : Poll) (s : State) : State :=
  if q.attempt < 3 then sendAttempt q.panel (q.attempt + 1) q.void s else endPoll q none s

/-- The frame is well formed (R42): at most 7 events, channels 0 to 3, known inputs. -/
def wellFormedAnswer (events : List PanelEvent) : Bool :=
  decide (events.length ≤ 7) && events.all fun e => decide (e.channel < 4) && e.input.isSome

/-- The panel address mismatch of an attempt (R42); a void poll records nothing (R43). -/
def countMismatch (q : Poll) (s : State) : State :=
  if q.void then s else updPanel q.panel (fun v => { v with mismatches := satAdd 65535 v.mismatches 1 }) s

/-- A frame arrives on the call loop (R42). -/
def panelAnswer (f : PanelFrame) (s : State) : State :=
  match s.loop.poll, f with
  | some q, .answer address lost events =>
    if !wellFormedAnswer events then s
    else
      let t := if address = num q.panel then endPoll q (some ⟨lost, events⟩) s else failAttempt q (countMismatch q s)
      loopOnly s t
  | _, _ => s

/-- PANEL_ANSWER (R42). -/
def execPanelAnswer (f : PanelFrame) (s : State) : Host.Outcome State Fault Refusal := .next (panelAnswer f s)

/-- The response timeout of the attempt that waits (R42). -/
def responseTimeout (s : State) : State :=
  match s.loop.poll with
  | some q =>
    let t := s.reach q.waitEnd
    loopOnly t (failAttempt q t)
  | none => s

/-- RESPONSE_TIMEOUT (R42). -/
def execResponseTimeout (s : State) : Host.Outcome State Fault Refusal := .next (responseTimeout s)

/-! ### Fitting (R28, R48) -/

/-- A panel becomes fitted. -/
def fitPanel (p : Fin 40) (s : State) : State :=
  let t := updPanel p (fun v => { v with
    state := .seeking, base := false, last := 0, history := [], failures := 0, dueAt := none, due := false }) s
  writeRow (.panel p) (logPanel p .seeking .unfitted 0 t)

/-- The poll in progress becomes void when its panel becomes UNFITTED (R43). -/
def voidPoll (p : Fin 40) (s : State) : State :=
  setPoll (s.loop.poll.map fun q => if q.panel = p then { q with void := true } else q) s

/-- A panel becomes UNFITTED; a LOST panel leaves LOST (R48, R50). The rows of its stations are left to the definition that
unfits it, which writes them once with their new zone (R53). -/
def unfitPanel (p : Fin 40) (s : State) : State :=
  let old := (s.loop.panels[p]).state
  let t := voidPoll p (updPanel p (fun v => { v with state := .unfitted, dueAt := none, due := false }) s)
  if old = .lost then
    let n := (removePanelDemands p t).2
    writeRow (.panel p) (markPanelLost p false (removePanelDemands p (logPanel p .unfitted old n t)).1)
  else writeRow (.panel p) (logPanel p .unfitted old 0 t)

/-- Compare a panel's fitting with the setup (R28). -/
def refitPanel (p : Fin 40) (s : State) : State :=
  let was := (s.loop.panels[p]).state != .unfitted
  if s.fitted p && !was then fitPanel p s else if !s.fitted p && was then unfitPanel p s else s

/-- What a change of the fitted set may change: panels, the poll in progress, panel-lost flags, demand sets. -/
def fittingOnly (s t : State) : State :=
  { followed s t with
    calls := { s.calls with stations := t.calls.stations },
    loop := { s.loop with panels := t.loop.panels, poll := t.loop.poll }, drv := t.drv, attr := t.attr, win := t.win,
    jrn := t.jrn, irq := t.irq }

/-- Recompute the fitted panels (R28), their changes handled and journaled in ascending panel number, an order the manual
leaves open (DESIGN CHOICE, notes/assumptions/32.md). -/
def refitPanels (s : State) : State := fittingOnly s (each (List.finRange 40) refitPanel s)

/-! ### Orders of the call loop (section 3.8); SET LOOP TIMING is setup-changing and stands in Setup.lean -/

/-- The panels a panel byte names: one, or all 40 for 0 (R52). -/
def namedPanels (panel : Byte) : Option (List (Fin 40)) :=
  if panel = 0 then some (List.finRange 40) else (index? 40 panel.toNat).map fun p => [p]

/-- RESET PANEL COUNTERS (R52). -/
def resetPanelCounters (panel : Byte) : Perform := fun s =>
  match namedPanels panel with
  | none => (s, some (refuse resRange 0))
  | some l =>
    let t := each l (fun p t =>
      writeRow (.panel p) (updPanel p (fun v => { v with answered := 0, failed := 0, mismatches := 0, eventsLost := 0 }) t)) s
    ({ s with loop := t.loop, win := t.win }, some (done l.length))

/-- RESET_PANEL_COUNTERS. -/
def execResetPanelCounters (p : Post) (panel : Byte) (s : State) : Host.Outcome State Fault Refusal :=
  .next (orderCommand p (.resetPanelCounters panel) (resetPanelCounters panel) s)

end Sys2Proof.Machine
end

