-- ==== Sys2Proof/Machine/Setup.lean ====
section
/-! DEFINITION. The setup unit's definitions and protection (chapter 2, sections 2.1 to 2.5), and SET LOOP TIMING. -/

namespace Sys2Proof.Machine

def updSetup (f : Setup → Setup) (s : State) : State := { s with setup := f s.setup }

/-- What a zone's definition may change. -/
def setupOnly (s t : State) : State := { fittingOnly s t with setup := { s.setup with zones := t.setup.zones } }

/-- The first check that fails, by its detail. -/
def firstFailure (checks : List (Nat × Bool)) : Option Nat := (checks.find? fun c => !c.2).map Prod.fst

/-- A number lies in a range. -/
def within (lo hi n : Nat) : Bool := decide (lo ≤ n) && decide (n ≤ hi)

/-! ### Protection (R21) -/

/-- The detail with which the protection check refuses an order, if it does (R21). -/
def State.protection (s : State) : Option Nat :=
  if s.setup.lockdown then some 1 else if s.setup.keyed && s.pins.key == .run then some 2 else none

/-- The result data of a protected order: the mode, and the key reading at the take (R21). -/
def State.protectionData (s : State) : List Byte :=
  [BitVec.ofNat 8 (bit s.setup.keyed), BitVec.ofNat 8 (keyCode s.pins.key)]

/-- The protection check comes before any other check of a setup-changing order (R21). -/
def guarded (perform : Perform) : Perform := fun s =>
  match s.protection with
  | some detail => (s, some (refuse resSetupProtected detail s.protectionData))
  | none => perform s

/-- SET SETUP PROTECTION past the protection check (R22). -/
def setSetupProtection (mode : Byte) : Perform := fun s =>
  if 1 < mode.toNat then (s, some (refuse resRange 0))
  else (updSetup (fun v => { v with keyed := mode == 1 }) s, some (done 0 [BitVec.ofNat 8 (bit s.setup.keyed)]))

/-- SET_SETUP_PROTECTION (R22). -/
def execSetSetupProtection (p : Post) (mode : Byte) (s : State) : Host.Outcome State Fault Refusal :=
  .next (orderCommand p (.setSetupProtection mode) (guarded (setSetupProtection mode)) s)

/-- LOCK SETUP past the protection check (R23). -/
def lockSetup : Perform := fun s =>
  (log kindSetupStatus 0 0 4 0 (updSetup (fun v => { v with lockdown := true }) s), some (done))

/-- LOCK_SETUP (R23). -/
def execLockSetup (p : Post) (s : State) : Host.Outcome State Fault Refusal :=
  .next (orderCommand p .lockSetup (guarded lockSetup) s)

/-- SET LOOP TIMING past the protection check (R51). -/
def setLoopTiming (scale : Byte) : Perform := fun s =>
  if within 1 32 scale.toNat then
    ({ s with loop := { s.loop with scale := scale.toNat } }, some (done 0 [BitVec.ofNat 8 s.loop.scale]))
  else (s, some (refuse resRange 0))

/-- SET_LOOP_TIMING (R51). -/
def execSetLoopTiming (p : Post) (scale : Byte) (s : State) : Host.Outcome State Fault Refusal :=
  .next (orderCommand p (.setLoopTiming scale) (guarded (setLoopTiming scale)) s)

/-! ### DEFINE DRIVE (R24) -/

/-- The range checks of DEFINE DRIVE, each with its place in the table. -/
def driveChecks (q : DriveParams) : List (Nat × Bool) :=
  [(1, within 1 8 q.drive.toNat), (2, within 64 60000 q.pitch.toNat), (3, within 0 (q.pitch.toNat - 1) q.notice.toNat),
    (4, within 0 (q.pitch.toNat / 4) q.tolerance.toNat), (5, within 1 60 q.response.toNat),
    (6, within 0 300 q.short.toNat)]

def driveDefinition (q : DriveParams) : DriveDef :=
  { pitch := q.pitch.toNat, notice := q.notice.toNat, tolerance := q.tolerance.toNat, response := q.response.toNat,
    short := q.short.toNat }

/-- The drive unit applies a definition: the position and the reverse count start again, the demand set stands.
The drive's row is written even by a definition that changes none of its fields, a point R24 and R82 leave open (DESIGN
CHOICE, notes/assumptions/34.md). -/
def applyDrive (d : Fin 8) (f : DriveDef) (s : State) : State :=
  writeRow (.drive d) (updDrive d (fun v => { v with pitch := 0, count := 0, reverse := 0 })
    (updSetup (fun v => { v with drives := upd v.drives d fun _ => some f }) s))

/-- DEFINE DRIVE past the protection check. -/
def defineDrive (q : DriveParams) : Perform := fun s =>
  match firstFailure (driveChecks q), index? 8 q.drive.toNat with
  | none, some d =>
    match (s.workingZones d).head? with
    | some z => (s, some (refuse resState (num z)))
    | none => (applyDrive d (driveDefinition q) s, some (done))
  | some detail, _ => (s, some (refuse resRange detail))
  | none, none => (s, some (refuse resRange 1))

/-- DEFINE_DRIVE (R24). -/
def execDefineDrive (p : Post) (q : DriveParams) (s : State) : Host.Outcome State Fault Refusal :=
  .next (orderCommand p (.defineDrive q) (guarded (defineDrive q)) s)

/-! ### DEFINE ZONE (R25 to R27) -/

/-- The neighbours of a zone in flow order (R25). -/
def zonePrev (z : Fin 8) : Option (Fin 8) := if h : 0 < z.val then some ⟨z.val - 1, by omega⟩ else none
def zoneNext (z : Fin 8) : Option (Fin 8) := if h : z.val < 7 then some ⟨z.val + 1, by omega⟩ else none

/-- The lowest other defined zone whose range a station range overlaps (R25, check 5). -/
def State.overlapped (s : State) (z : Fin 8) (first last : Nat) : Option (Fin 8) :=
  (List.finRange 8).find? fun y => y != z &&
    match s.zone y with
    | some f => decide (f.first ≤ last) && decide (first ≤ f.last)
    | none => false

/-- Checks 4 and 6 to 7 of R25: what the parameters say by themselves. -/
def stationRangeFits (q : ZoneParams) : Bool :=
  within 1 160 q.first.toNat && within q.first.toNat (min (q.first.toNat + 39) 160) q.last.toNat

def capacityFits (z : Fin 8) (q : ZoneParams) : Bool :=
  within 0 30 q.capacity.toNat && (decide (z.val < 7) || q.capacity == 0)

def policiesFit (q : ZoneParams) : Bool :=
  [q.assist, q.material, q.quality, q.maint].all (fun b => within 0 2 b.toNat) && within 0 3 q.extension.toNat
    && within 0 1 q.lossPolicy.toNat && within 0 1 q.auto.toNat && within 0 64 q.name.toNat

/-- Checks 8 to 10 of R25 against the zone before. -/
def State.previousChecks (s : State) (z : Fin 8) (drive : Nat) : List (Nat × Bool) :=
  match zonePrev z with
  | none => []
  | some y =>
    match s.zone y with
    | none => [(7, false)]
    | some f =>
      [(8, decide (num f.drive ≤ drive)),
        (9, if drive = num f.drive then decide (f.capacity = 0) else decide (f.capacity ≠ 0))]

/-- Checks 11 and 12 of R25 against the zone after. -/
def State.nextChecks (s : State) (z : Fin 8) (drive capacity : Nat) : List (Nat × Bool) :=
  match (zoneNext z).bind s.zone with
  | none => []
  | some f =>
    [(10, decide (drive ≤ num f.drive)),
      (11, if drive = num f.drive then decide (capacity = 0) else decide (capacity ≠ 0))]

/-- The RANGE checks of R25 after the zone and drive numbers, each with its detail. -/
def State.zoneChecks (s : State) (z : Fin 8) (q : ZoneParams) : List (Nat × Bool) :=
  [(3, stationRangeFits q), (4, (s.overlapped z q.first.toNat q.last.toNat).isNone), (5, capacityFits z q),
    (6, policiesFit q)]
  ++ s.previousChecks z q.drive.toNat ++ s.nextChecks z q.drive.toNat q.capacity.toNat

/-- The policy that a stop policy byte gives, 0 taking the kind's default: MATERIAL alone defaults to NON-STOPPING. -/
def policyOf (default : Bool) (b : Byte) : Bool := if b = 0 then default else b == 1

def zoneDefinition (q : ZoneParams) (drive : Fin 8) : ZoneDef :=
  { drive := drive, first := q.first.toNat, last := q.last.toNat, capacity := q.capacity.toNat,
    stopping := #v[policyOf true q.assist, policyOf false q.material, policyOf true q.quality, policyOf true q.maint],
    extension := q.extension.toNat, ignoreLoss := q.lossPolicy == 1, auto := q.auto == 1, name := q.name.toNat }

/-- A buffer after a definition: count 0 when it comes into existence or ceases to exist, and never above its capacity. A
change is reported as a buffer change, and the row follows (R26, R98). -/
def adjustBuffer (old : State) (k : Fin 7) (s : State) : State :=
  let count := if old.bufferExists k && s.bufferExists k then min (s.bufferCount k) (s.bufferCapacity k) else 0
  let t := updBuffer k (fun b => { b with count := count }) s
  let u :=
    if old.bufferExists k = t.bufferExists k ∧ old.bufferCount k = t.bufferCount k then t else bufferChanged k t
  syncRow old (.buffer k) u

/-- The buffers on either side of a zone, in ascending number: the order of their changes at a definition, which the manual
leaves open (DESIGN CHOICE, notes/assumptions/32.md). -/
def buffersAt (z : Fin 8) : List (Fin 7) :=
  (if h : 0 < z.val then [⟨z.val - 1, by omega⟩] else []) ++ (if h : z.val < 7 then [⟨z.val, h⟩] else [])

/-- The stations whose zone or panel-lost flag differs between two states. -/
def movedStations (old s : State) : List (Fin 160) :=
  (List.finRange 160).filter fun n =>
    old.stationZone n != s.stationZone n || (old.calls.stations[n]).panelLost != (s.calls.stations[n]).panelLost

/-- Hand the consequences of a changed zone definition to the owning blocks (R26, R27): station zones, buffers, panels. A
station whose zone changes and whose panel leaves LOST has its row rewritten once, after both (R53). -/
def applyZone (z : Fin 8) (f : Option ZoneDef) (s : State) : State :=
  let t := follow s (writeRow (.zone z) (updSetup (fun v => { v with zones := upd v.zones z fun _ => f }) s))
  let u := refitPanels (each (buffersAt z) (adjustBuffer s) t)
  setupOnly s (writeRows ((movedStations s u).map Row.station) u)

/-- A zone whose definition is removed becomes ON PACE without a notice (R132), and its pace is absent. -/
def dropPace (z : Fin 8) (s : State) : State :=
  updShift (fun v => { v with
    zoneBehind := upd v.zoneBehind z fun _ => false, zonePace := upd v.zonePace z fun _ => none }) s

/-- DEFINE ZONE with drive 0 (R27). -/
def removeZone (z : Fin 8) : Perform := fun s =>
  if ((zoneNext z).bind s.zone).isSome then (s, some (refuse resRange 12))
  else if s.setup.service[z] ≠ .outOfService then (s, some (refuse resState s.setup.service[z].code))
  else if (s.zone z).isNone then (s, some (done))
  else (applyZone z none (dropPace z s), some (done))

/-- DEFINE ZONE past the protection check (R25, R26). -/
def defineZone (q : ZoneParams) : Perform := fun s =>
  match index? 8 q.zone.toNat with
  | none => (s, some (refuse resRange 1))
  | some z =>
    if q.drive = 0 then removeZone z s
    else
      match index? 8 q.drive.toNat with
      | none => (s, some (refuse resRange 2))
      | some d =>
        match firstFailure (s.zoneChecks z q) with
        | some detail =>
          (s, some (refuse resRange detail (if detail = 4 then
            ((s.overlapped z q.first.toNat q.last.toNat).map fun y => BitVec.ofNat 8 (num y)).toList else [])))
        | none =>
          if s.setup.service[z] ≠ .outOfService then (s, some (refuse resState s.setup.service[z].code))
          else (applyZone z (some (zoneDefinition q d)) (bringZonePace z s), some (done))

/-- DEFINE_ZONE (R25 to R27). -/
def execDefineZone (p : Post) (q : ZoneParams) (s : State) : Host.Outcome State Fault Refusal :=
  .next (orderCommand p (.defineZone q) (guarded (defineZone q)) s)

/-! ### BIND STATIONS (R29) -/

def bindChecks (q : BindParams) : List (Nat × Bool) :=
  [(1, within 1 160 q.first.toNat), (2, within 1 16 q.count.toNat && decide (q.first.toNat + q.count.toNat - 1 ≤ 160)),
    (3, within 0 24 q.group.toNat),
    (4, within 0 64 q.base.toNat && (q.base == 0 || decide (q.base.toNat + q.count.toNat - 1 ≤ 64)))]

/-- The stations of a run of `count` from the station numbered `first`. -/
def stationRun (first count : Nat) : List (Fin 160) :=
  (List.finRange 160).filter fun n => decide (first ≤ num n) && decide (num n < first + count)

/-- The binding that BIND STATIONS gives a station of its run. -/
def bindingOf (q : BindParams) (n : Fin 160) : Binding :=
  ⟨q.group.toNat, if q.base = 0 then 0 else q.base.toNat + (num n - q.first.toNat)⟩

/-- A station lies in a zone that is IN SERVICE or DRAINING. -/
def State.stationWorks (s : State) (n : Fin 160) : Bool := ((s.stationZone n).map s.works).getD false

def applyBindings (q : BindParams) (s : State) : State :=
  let run := stationRun q.first.toNat q.count.toNat
  writeRows (run.map Row.station)
    (updSetup (fun v => { v with bindings := each run (fun n b => upd b n fun _ => bindingOf q n) v.bindings }) s)

/-- BIND STATIONS past the protection check. -/
def bindStations (q : BindParams) : Perform := fun s =>
  match firstFailure (bindChecks q) with
  | some detail => (s, some (refuse resRange detail))
  | none =>
    match (stationRun q.first.toNat q.count.toNat).find? s.stationWorks with
    | some n => (s, some (refuse resState (num n)))
    | none => (applyBindings q s, some (done))

/-- BIND_STATIONS (R29). -/
def execBindStations (p : Post) (q : BindParams) (s : State) : Host.Outcome State Fault Refusal :=
  .next (orderCommand p (.bindStations q) (guarded (bindStations q)) s)

/-! ### DEFINE GROUP (R30) -/

def groupLevels (q : GroupParams) : Vector LevelParams 3 := #v[q.level1, q.level2, q.level3]

def levelChecks (i : Fin 3) (q : LevelParams) : List (Nat × Bool) :=
  [(10 * num i + 1, within 5 3600 q.delay.toNat), (10 * num i + 2, within 0 8 q.output.toNat),
    (10 * num i + 3, within 0 1 q.flash.toNat)]

def groupChecks (q : GroupParams) : List (Nat × Bool) :=
  [(1, within 1 24 q.group.toNat), (2, within 0 3 q.count.toNat)]
  ++ (((List.finRange 3).filter fun i => decide (num i ≤ q.count.toNat)).map fun i => levelChecks i (groupLevels q)[i]).flatten

/-- The ladder a DEFINE GROUP gives; the entries above the level count are not read. -/
def ladderOf (q : GroupParams) : Ladder :=
  ⟨q.count.toNat, Vector.ofFn fun i =>
    if num i ≤ q.count.toNat then ⟨(groupLevels q)[i].delay.toNat, (groupLevels q)[i].output.toNat, (groupLevels q)[i].flash == 1⟩
    else ⟨0, 0, false⟩⟩

def applyGroup (g : Fin 24) (l : Ladder) (s : State) : State :=
  writeRow (.group g) (updSetup (fun v => { v with ladders := upd v.ladders g fun _ => l }) s)

/-- DEFINE GROUP past the protection check. -/
def defineGroup (q : GroupParams) : Perform := fun s =>
  match firstFailure (groupChecks q), index? 24 q.group.toNat with
  | none, some g =>
    let n := (s.groupRaised g).length + (s.groupAnswered g).length
    if 0 < n then (s, some (refuse resState (satTo 65535 n))) else (applyGroup g (ladderOf q) s, some (done))
  | some detail, _ => (s, some (refuse resRange detail))
  | none, none => (s, some (refuse resRange 1))

/-- DEFINE_GROUP (R30). -/
def execDefineGroup (p : Post) (q : GroupParams) (s : State) : Host.Outcome State Fault Refusal :=
  .next (orderCommand p (.defineGroup q) (guarded (defineGroup q)) s)

/-! ### DEFINE TEXT (R31) -/

/-- The position of the first character outside 0x20 to 0x7E. -/
def badChar (cs : Vector Byte 16) : Option Nat :=
  ((List.finRange 16).find? fun i => !within 0x20 0x7E (cs[i]).toNat).map num

def applyText (t : Fin 64) (cs : Vector Byte 16) (s : State) : State :=
  writeText t (updSetup (fun v => { v with texts := upd v.texts t fun _ => cs }) s)

/-- DEFINE TEXT past the protection check. -/
def defineText (q : TextParams) : Perform := fun s =>
  match index? 64 q.entry.toNat with
  | none => (s, some (refuse resRange 0))
  | some t =>
    match badChar q.chars with
    | some i => (s, some (refuse resRange i))
    | none => (applyText t q.chars s, some (done))

/-- DEFINE_TEXT (R31). -/
def execDefineText (p : Post) (q : TextParams) (s : State) : Host.Outcome State Fault Refusal :=
  .next (orderCommand p (.defineText q) (guarded (defineText q)) s)

end Sys2Proof.Machine
end

