-- ==== Sys2Proof/Machine/Boards.lean ====
section
/-! DEFINITION. The board composer's definitions and the display links (chapter 9). -/

namespace Sys2Proof.Machine

def updBoard (b : Fin 16) (f : Board → Board) (s : State) : State :=
  { s with brd := { s.brd with boards := upd s.brd.boards b f } }

def updLink (l : Fin 2) (f : Link → Link) (s : State) : State :=
  { s with brd := { s.brd with links := upd s.brd.links l f } }

/-- What the events of the display links may change. -/
def boardOnly (s t : State) : State := { s with brd := t.brd, ord := orderEnds s.ord t.ord, win := t.win, jrn := t.jrn, irq := t.irq }

/-- Every field becomes stale: the fields 1 up to the field count (R145). -/
def Board.allStale (b : Board) : Board := { b with stale := Vector.ofFn b.inUse }

def noneStale : Vector Bool 32 := Vector.replicate 32 false

/-! ### Board definitions (R140) -/

def boardChecks (q : BoardParams) : List (Nat × Bool) :=
  [(1, within 1 16 q.board.toNat), (2, within 1 2 q.link.toNat), (3, within 1 8 q.address.toNat),
    (4, within 0 1 q.mode.toNat), (5, within 1 32 q.fields.toNat)]

/-- Another defined board on the same link with the same address. -/
def State.sameAddress (s : State) (b : Fin 16) (link address : Nat) : Option (Fin 16) :=
  (List.finRange 16).find? fun c => c != b &&
    match (s.brd.boards[c]).definition with
    | some d => num d.link == link && d.address == address
    | none => false

/-- A board with a new definition: its entries above the field count go, every field is rendered, nothing is stale. -/
def Board.define (b : Board) (s : State) (d : BoardDef) : Board :=
  let c := { b with
    definition := some d,
    entries := Vector.ofFn fun f => if num f ≤ d.fields then b.entries[f] else none }
  { renderBoard true s s c with stale := noneStale }

/-- DEFINE BOARD past the protection check. -/
def defineBoard (q : BoardParams) : Perform := fun s =>
  match firstFailure (boardChecks q), index? 16 q.board.toNat, index? 2 q.link.toNat with
  | none, some b, some l =>
    match s.sameAddress b q.link.toNat q.address.toNat with
    | some c => (s, some (refuse resRange 6 [BitVec.ofNat 8 (num c)]))
    | none =>
      let v := s.brd.boards[b]
      if v.definition.isSome && v.state != .disabled then (s, some (refuse resState v.state.code))
      else
        let d : BoardDef := { link := l, address := q.address.toNat, silent := q.mode == 1, fields := q.fields.toNat }
        (updBoard b (fun v => v.define s d) s, some (done))
  | some detail, _, _ => (s, some (refuse resRange detail))
  | none, _, _ => (s, some (refuse resRange 1))

/-- DEFINE_BOARD (R140). -/
def execDefineBoard (p : Post) (q : BoardParams) (s : State) : Host.Outcome State Fault Refusal :=
  .next (orderCommand p (.defineBoard q) (guarded (defineBoard q)) s)

/-! ### Field entries (R141) -/

/-- The range of index 1 by source code; none where the source does not read it. -/
def indexRange (source : Nat) : Option Nat :=
  if within 1 6 source then some 8
  else if source = 14 then some 160
  else if within 15 16 source then some 24
  else if source = 17 then some 64
  else none

/-- The sources that read the digits, the decimal places and the signed flag. -/
def numericSource (source : Nat) : Bool := within 2 13 source || within 15 16 source

/-- The checks of one entry, each with its place; `number` is the field number it must carry. -/
def entryChecks (number : Nat) (e : FieldBytes) : List (Nat × Bool) :=
  let src := e.source.toNat
  [(1, decide (e.number.toNat = number)), (2, within 0 17 src)]
  ++ (if src = 0 then []
      else
        (match indexRange src with
          | some n => [(3, within 1 n e.index1.toNat)]
          | none => [])
        ++ (if src = 14 then
              [(4, within 1 40 e.index2.toNat && decide (e.index1.toNat + e.index2.toNat - 1 ≤ 160))]
            else [])
        ++ (if numericSource src then
              [(5, within 1 6 e.digits.toNat), (6, within 0 2 e.places.toNat && decide (e.places.toNat < e.digits.toNat)),
                (7, within 0 1 e.signed.toNat && (e.signed == 0 || decide (e.places.toNat + 2 ≤ e.digits.toNat)))]
            else [])
        ++ [(8, within 0 1 e.flash.toNat)])

/-- The source that a checked entry names; none for code 0. -/
def sourceOf (e : FieldBytes) : Option Source :=
  let i := e.index1.toNat
  match e.source.toNat with
  | 1 => (index? 8 i).map .zoneStatus
  | 2 => (index? 8 i).map .zoneCount
  | 3 => (index? 8 i).map .zoneDiff
  | 4 => (index? 8 i).map .zoneDowntime
  | 5 => (index? 8 i).map .zonePace
  | 6 => (index? 8 i).map .oldestCallAge
  | 7 => some .lineActual
  | 8 => some .linePlan
  | 9 => some .lineTarget
  | 10 => some .lineDiff
  | 11 => some .linePace
  | 12 => some .shiftRemaining
  | 13 => some .clock
  | 14 => (index? 160 i).map fun n => .stationStrip n e.index2.toNat
  | 15 => (index? 24 i).map .groupLevel
  | 16 => (index? 24 i).map .groupWaiting
  | 17 => (index? 64 i).map .text
  | _ => none

/-- The entry a field takes; the bytes a source does not read carry nothing. -/
def entryOf (e : FieldBytes) : Option FieldEntry :=
  (sourceOf e).map fun src =>
    if numericSource e.source.toNat then ⟨src, e.digits.toNat, e.places.toNat, e.signed == 1, e.flash == 1⟩
    else ⟨src, 0, 0, false, e.flash == 1⟩

/-- The entries an order carries: index from 0, field number it must have, bytes. -/
def carriedEntries (q : FieldsParams) : List (Nat × Nat × FieldBytes) :=
  ((q.entries.toList.take q.count.toNat).zipIdx).map fun e => (e.2, q.first.toNat + e.2, e.1)

/-- The checks of the entries, with detail 10 × i plus the place. -/
def entriesChecks (q : FieldsParams) : List (Nat × Bool) :=
  ((carriedEntries q).map fun e => (entryChecks e.2.1 e.2.2).map fun c => (10 * (e.1 + 1) + c.1, c.2)).flatten

/-- The checks 3 and 4 of R141 on a board of some field count. -/
def fieldsChecks (fields : Nat) (q : FieldsParams) : List (Nat × Bool) :=
  [(2, within 1 32 q.first.toNat && decide (q.first.toNat + q.count.toNat - 1 ≤ fields)), (3, within 1 5 q.count.toNat)]
  ++ entriesChecks q

/-- Replace the entries an order carries. -/
def replaceEntries (q : FieldsParams) (v : Vector (Option FieldEntry) 32) : Vector (Option FieldEntry) 32 :=
  each (carriedEntries q) (fun e v => match index? 32 e.2.1 with
    | some f => upd v f fun _ => entryOf e.2.2
    | none => v) v

/-- DEFINE BOARD FIELDS past the protection check. Every field of the board is rendered at once, those not carried too, a point
R141 leaves open (DESIGN CHOICE, notes/assumptions/37.md). -/
def defineBoardFields (q : FieldsParams) : Perform := fun s =>
  match index? 16 q.board.toNat with
  | none => (s, some (refuse resRange 1))
  | some b =>
    match (s.brd.boards[b]).definition with
    | none => (s, some (refuse resState 5))
    | some d =>
      match firstFailure (fieldsChecks d.fields q) with
      | some detail => (s, some (refuse resRange detail))
      | none =>
        (updBoard b (fun v => renderBoard true s s { v with entries := replaceEntries q v.entries }) s, some (done))

/-- DEFINE_BOARD_FIELDS (R141). -/
def execDefineBoardFields (p : Post) (q : FieldsParams) (s : State) : Host.Outcome State Fault Refusal :=
  .next (orderCommand p (.defineBoardFields q) (guarded (defineBoardFields q)) s)

/-- SET LINK TIMING past the protection check. -/
def setLinkTiming (scale period : Byte) : Perform := fun s =>
  if !within 1 32 scale.toNat then (s, some (refuse resRange 1))
  else if !within 1 60 period.toNat then (s, some (refuse resRange 2))
  else
    ({ s with brd := { s.brd with scale := scale.toNat, refresh := period.toNat } },
      some (done 0 [BitVec.ofNat 8 s.brd.scale, BitVec.ofNat 8 s.brd.refresh]))

/-- SET_LINK_TIMING (R153). -/
def execSetLinkTiming (p : Post) (scale period : Byte) (s : State) : Host.Outcome State Fault Refusal :=
  .next (orderCommand p (.setLinkTiming scale period) (guarded (setLinkTiming scale period)) s)

/-! ### Link states (R150) -/

/-- A board's link state changes: BOARD STATE with its reason, and FAULT on entry into FAULT (R150). -/
def changeLinkState (b : Fin 16) (new : LinkState) (flags : Nat) (s : State) : State :=
  raiseIf (new == .fault) .fault
    (log kindBoardState flags (num b) new.code (s.brd.boards[b]).state.code (updBoard b (fun v => { v with state := new }) s))

/-- A board enters ONLINE: every field stale, the refresh timer started (R145, R146). -/
def enterOnline (b : Fin 16) (flags : Nat) (s : State) : State :=
  changeLinkState b .online flags (updBoard b (fun v =>
    { v.allStale with refreshAt := some (s.ms + 1000 * s.brd.refresh), probeAt := none, probeDue := false,
                      resetUnsent := false, resetSlot := none }) s)

/-- A board enters FAULT, its next probe due 5 s later (R149, R152). -/
def enterFault (b : Fin 16) (flags : Nat) (s : State) : State :=
  changeLinkState b .fault flags (updBoard b (fun v =>
    { v with refreshAt := none, probeAt := some (s.ms + Config.probeMs), probeDue := false, resetUnsent := false,
             resetSlot := none }) s)

/-- A board enters SEARCHING with its first probe due at once (R151, R154). -/
def enterSearching (b : Fin 16) (flags : Nat) (s : State) : State :=
  changeLinkState b .searching flags (updBoard b (fun v => { v with probeAt := none, probeDue := true }) s)

/-- Abandon the frame outstanding to a board (R149). -/
def abandonFrame (b : Fin 16) (s : State) : State :=
  { s with brd := { s.brd with links := s.brd.links.map fun l =>
    match l.frame with
    | some o => if o.board = b then { l with frame := none } else l
    | none => l } }

/-! ### Frames (R147 to R149, R152) -/

/-- The check value of a field frame (R148). -/
def checkValue (carried : List (Fin 32 × Content)) : Half :=
  BitVec.ofNat 16 (sumOf (carried.map fun c => num c.1 + c.2.attr + sumOf (c.2.chars.map BitVec.toNat)))

/-- The check value a link expects in reply to a frame (R148). -/
def FrameKind.expected : FrameKind → Half
  | .fields carried => checkValue carried
  | _ => 0

/-- Up to 8 fields of the stale set in ascending order, with their content at this moment (R147). -/
def Board.nextFields (b : Board) : List (Fin 32 × Content) :=
  (((List.finRange 32).filter fun f => b.stale[f]).take 8).map fun f => (f, b.content[f])

/-- The fields that a confirmed frame takes off the stale set (R145, R149). -/
def Board.confirm (b : Board) (carried : List (Fin 32 × Content)) : Board :=
  { b with stale := each carried (fun c v => if b.content[c.1] = c.2 then upd v c.1 fun _ => false else v) b.stale }

/-- A frame other than a reset frame ends (R149). -/
def endFrame (l : Fin 2) (b : Fin 16) (k : FrameKind) (success : Bool) (s : State) : State :=
  let t := updLink l (fun v => { v with frame := none }) s
  match k, success with
  | .fields carried, true => updBoard b (fun v => v.confirm carried) t
  | .fields _, false => enterFault b 4 t
  | .probe, true => enterOnline b 3 t
  | .probe, false => updBoard b (fun v => { v with probeAt := some (s.ms + Config.probeMs) }) t
  | .reset, _ => t

/-- Raise frames sent by one (R148, R152). -/
def countSent (b : Fin 16) (s : State) : State := updBoard b (fun v => { v with sent := satAdd 65535 v.sent 1 }) s

/-- Send an attempt of a field frame or a probe, with its wait (R148). -/
def sendFrame (l : Fin 2) (b : Fin 16) (k : FrameKind) (a : Nat) (s : State) : State :=
  updLink l (fun v => { v with frame := some ⟨b, k, a, s.ms + Config.linkWaitMs * s.brd.scale⟩ }) (countSent b s)

/-- Start a field frame or a probe; a SILENT board's counts as a success as soon as it is sent (R148). -/
def startFrame (l : Fin 2) (b : Fin 16) (k : FrameKind) (s : State) : State :=
  if ((s.brd.boards[b]).definition.map BoardDef.silent).getD false then endFrame l b k true (countSent b s)
  else sendFrame l b k 1 s

/-- A board with work for its link's rotation (R147). -/
def Board.hasWork (b : Board) : Bool :=
  match b.state with
  | .searching => b.probeDue
  | .fault => b.probeDue
  | .online => b.staleCount != 0
  | _ => false

/-- The defined board is on the link. -/
def State.onLink (s : State) (l : Fin 2) (b : Fin 16) : Bool :=
  ((s.brd.boards[b]).definition.map BoardDef.link) == some l

/-- The boards after a rotation position, wrapping from 16 to 1 (R147). -/
def afterBoard (r : Fin 16) : List (Fin 16) :=
  (List.finRange 16).filter (fun b => decide (r < b)) ++ (List.finRange 16).filter (fun b => decide (b ≤ r))

def State.unsentReset (s : State) (l : Fin 2) : Option (Fin 16) :=
  (List.finRange 16).find? fun b =>
    s.onLink l b && (s.brd.boards[b]).state == .resetting && (s.brd.boards[b]).resetUnsent

def State.nextOnLink (s : State) (l : Fin 2) : Option (Fin 16) :=
  (afterBoard (s.brd.links[l]).rotation).find? fun b => s.onLink l b && (s.brd.boards[b]).hasWork

/-- Send a reset frame, with its wait of 2 s (R152). -/
def sendReset (l : Fin 2) (b : Fin 16) (s : State) : State :=
  updLink l (fun v => { v with frame := some ⟨b, .reset, 1, s.ms + Config.resetWaitMs⟩ })
    (updBoard b (fun v => { v with resetUnsent := false }) (countSent b s))

/-- The frame a board of the rotation is sent: its stale fields when ONLINE, a probe otherwise. -/
def Board.nextFrame (b : Board) : FrameKind := if b.state = .online then .fields b.nextFields else .probe

/-- A link without a frame outstanding chooses (R147). -/
def linkChooseStep (l : Fin 2) (s : State) : State :=
  match s.unsentReset l with
  | some b => syncRow s (.board b) (sendReset l b s)
  | none =>
    match s.nextOnLink l with
    | some b =>
      let t := updBoard b (fun v => { v with probeDue := false }) (updLink l (fun v => { v with rotation := b }) s)
      syncRow s (.board b) (startFrame l b (s.brd.boards[b]).nextFrame t)
    | none => s

def linkChoose (l : Fin 2) (s : State) : State :=
  if s.part = .starting ∨ (s.brd.links[l]).frame.isSome then s else boardOnly s (linkChooseStep l s)

/-- LINK_CHOOSE (R147). -/
def execLinkChoose (l : Fin 2) (s : State) : Host.Outcome State Fault Refusal := .next (linkChoose l s)

/-- An attempt fails: the next follows at once, and the frame fails with the third (R148). -/
def failFrame (l : Fin 2) (o : Outstanding) (s : State) : State :=
  if o.attempt < 3 then sendFrame l o.board o.kind (o.attempt + 1) s else endFrame l o.board o.kind false s

/-- The reset order of a board ends (R152, R11). -/
def endReset (k : Option (Fin 24)) (a : Answer) (s : State) : State :=
  match k with
  | some k => endLong k a s
  | none => s

/-- A RESETTING board is ready (R152). -/
def resetReady (l : Fin 2) (b : Fin 16) (s : State) : State :=
  endReset (s.brd.boards[b]).resetSlot (done) (enterOnline b 6 (updLink l (fun v => { v with frame := none }) s))

/-- A frame received during the wait of a field frame or a probe (R148). -/
def judgeReply (l : Fin 2) (o : Outstanding) (address : Nat) (check : Half) (s : State) : State :=
  if address ≠ ((s.brd.boards[o.board]).definition.map BoardDef.address).getD 0 then
    failFrame l o (updBoard o.board (fun v => { v with addressBad := satAdd 65535 v.addressBad 1 }) s)
  else if check = o.kind.expected then endFrame l o.board o.kind true s
  else failFrame l o (updBoard o.board (fun v => { v with checkBad := satAdd 65535 v.checkBad 1 }) s)

/-- A frame received during the wait of a reset frame (R152). -/
def judgeReady (l : Fin 2) (o : Outstanding) (address : Nat) (ready : Bool) (s : State) : State :=
  if address ≠ ((s.brd.boards[o.board]).definition.map BoardDef.address).getD 0 then
    updBoard o.board (fun v => { v with addressBad := satAdd 65535 v.addressBad 1 }) s
  else if ready then resetReady l o.board s
  else s

/-- A frame arrives on a display link (R148, R152); outside a wait, or damaged, it is discarded. -/
def boardReply (l : Fin 2) (f : BoardFrame) (s : State) : State :=
  match (s.brd.links[l]).frame, f with
  | some o, .reply address check ready =>
    let t := if o.kind = .reset then judgeReady l o address ready s else judgeReply l o address check s
    boardOnly s (syncRow s (.board o.board) t)
  | _, _ => s

/-- BOARD_REPLY (R148, R152). -/
def execBoardReply (l : Fin 2) (f : BoardFrame) (s : State) : Host.Outcome State Fault Refusal :=
  .next (boardReply l f s)

def countNoAnswer (b : Fin 16) (s : State) : State :=
  updBoard b (fun v => { v with noAnswer := satAdd 65535 v.noAnswer 1 }) s

/-- The wait of a field frame or a probe ends (R148). -/
def linkWaitExpiry (l : Fin 2) (s : State) : State :=
  match (s.brd.links[l]).frame with
  | some o =>
    if o.kind = .reset then s
    else
      let t := s.reach o.waitEnd
      boardOnly t (syncRow t (.board o.board) (failFrame l o (countNoAnswer o.board t)))
  | none => s

/-- LINK_WAIT_EXPIRY (R148). -/
def execLinkWaitExpiry (l : Fin 2) (s : State) : Host.Outcome State Fault Refusal := .next (linkWaitExpiry l s)

/-- The wait of a reset frame ends: a SILENT board is taken as ready, another enters FAULT (R152). -/
def resetUnanswered (l : Fin 2) (b : Fin 16) (s : State) : State :=
  if ((s.brd.boards[b]).definition.map BoardDef.silent).getD false then resetReady l b s
  else
    endReset (s.brd.boards[b]).resetSlot (refuse resNoAnswer 0)
      (enterFault b 7 (countNoAnswer b (updLink l (fun v => { v with frame := none }) s)))

def resetWaitExpiry (l : Fin 2) (s : State) : State :=
  match (s.brd.links[l]).frame with
  | some o =>
    if o.kind = .reset then
      let t := s.reach o.waitEnd
      boardOnly t (syncRow t (.board o.board) (resetUnanswered l o.board t))
    else s
  | none => s

/-- RESET_WAIT_EXPIRY (R152). -/
def execResetWaitExpiry (l : Fin 2) (s : State) : Host.Outcome State Fault Refusal := .next (resetWaitExpiry l s)

/-- A board's next probe falls due (R149). -/
def probeDue (b : Fin 16) (s : State) : State :=
  match (s.brd.boards[b]).probeAt with
  | some t => updBoard b (fun v => { v with probeDue := true, probeAt := none }) (s.reach t)
  | none => s

/-- PROBE_DUE (R149). -/
def execProbeDue (b : Fin 16) (s : State) : Host.Outcome State Fault Refusal := .next (probeDue b s)

/-- The refresh timer of an ONLINE board expires (R146). -/
def refreshTimerExpiry (b : Fin 16) (s : State) : State :=
  match (s.brd.boards[b]).refreshAt with
  | some t =>
    let u := s.reach t
    boardOnly u (syncRow u (.board b)
      (updBoard b (fun v => { v.allStale with refreshAt := some (u.ms + 1000 * u.brd.refresh) }) u))
  | none => s

/-- REFRESH_TIMER_EXPIRY (R146). -/
def execRefreshTimerExpiry (b : Fin 16) (s : State) : Host.Outcome State Fault Refusal :=
  .next (refreshTimerExpiry b s)

/-- RENDER_SECOND (R145): every field of every defined board. -/
def execRenderSecond (s : State) : Host.Outcome State Fault Refusal := .next (renderAll s)

/-! ### Orders on a board; the take of an order rewrites the board rows it changed (R139) -/

/-- The board a board byte names, if it is in range and defined; the answer otherwise (R151, R152). -/
def State.namedBoard (s : State) (rangeDetail : Nat) (board : Byte) : Fin 16 ⊕ Answer :=
  match index? 16 board.toNat with
  | none => .inr (refuse resRange rangeDetail)
  | some b => if (s.brd.boards[b]).definition.isSome then .inl b else .inr (refuse resState 5)

/-- ENABLE BOARD (R151). -/
def enableBoard (board : Byte) : Perform := fun s =>
  match s.namedBoard 0 board with
  | .inr a => (s, some a)
  | .inl b =>
    if (s.brd.boards[b]).state = .disabled then
      (boardOnly s (enterSearching b 1 s), some (done 0))
    else (s, some (done 1))

/-- ENABLE_BOARD. -/
def execEnableBoard (p : Post) (board : Byte) (s : State) : Host.Outcome State Fault Refusal :=
  .next (orderCommand p (.enableBoard board) (enableBoard board) s)

/-- A board is disabled (R151): its frame abandoned, timers stopped, nothing stale; a reset in course ends ABORTED. -/
def disableStep (b : Fin 16) (s : State) : State :=
  let v := s.brd.boards[b]
  let t := changeLinkState b .disabled 2 (updBoard b (fun v =>
    { v with refreshAt := none, stale := noneStale, probeAt := none, probeDue := false, resetUnsent := false,
             resetSlot := none }) (abandonFrame b s))
  if v.state = .resetting then endReset v.resetSlot (refuse resAborted 0) t else t

/-- DISABLE BOARD (R151). -/
def disableBoard (board : Byte) : Perform := fun s =>
  match s.namedBoard 0 board with
  | .inr a => (s, some a)
  | .inl b =>
    if (s.brd.boards[b]).state = .disabled then (s, some (done 1))
    else (boardOnly s (disableStep b s), some (done 0))

/-- DISABLE_BOARD. -/
def execDisableBoard (p : Post) (board : Byte) (s : State) : Host.Outcome State Fault Refusal :=
  .next (orderCommand p (.disableBoard board) (disableBoard board) s)

/-- A board enters RESETTING for the order in slot `k` (R152). -/
def beginReset (b : Fin 16) (k : Fin 24) (s : State) : State :=
  changeLinkState b .resetting 5 (updBoard b (fun v =>
    { v with resetSlot := some k, resetUnsent := true, refreshAt := none, probeAt := none, probeDue := false,
             resets := satAdd 65535 v.resets 1 }) (abandonFrame b s))

/-- RESET BOARD taken from slot `k` (R152); no answer when it is accepted. -/
def resetBoard (k : Fin 24) (board : Byte) : Perform := fun s =>
  match s.namedBoard 1 board with
  | .inr a => (s, some a)
  | .inl b =>
    let v := s.brd.boards[b]
    match v.state with
    | .disabled => (s, some (refuse resState 0))
    | .resetting => (s, some (refuse resBusy ((v.resetSlot.map num).getD 0)))
    | _ => (boardOnly s (beginReset b k s), none)

/-- RESET_BOARD. -/
def execResetBoard (p : Post) (board : Byte) (s : State) : Host.Outcome State Fault Refusal :=
  .next (orderCommand p (.resetBoard board) (resetBoard p.slot board) s)

/-- STOP ALL WORK aborts a board reset (R152); the order unit writes the slot. -/
def abortReset (b : Fin 16) (s : State) : State :=
  boardOnly s (enterFault b 8 (abandonFrame b s))

def refreshOne (b : Fin 16) (s : State) : State := updBoard b Board.allStale s

/-- The defined boards that are not DISABLED. -/
def State.enabledBoards (s : State) : List (Fin 16) :=
  (List.finRange 16).filter fun b => (s.brd.boards[b]).definition.isSome && (s.brd.boards[b]).state != .disabled

/-- REFRESH BOARD (R146). -/
def refreshBoard (board : Byte) : Perform := fun s =>
  if board = 0 then (boardOnly s (each s.enabledBoards refreshOne s), some (done s.enabledBoards.length))
  else
    match s.namedBoard 0 board with
    | .inr a => (s, some a)
    | .inl b =>
      if (s.brd.boards[b]).state = .disabled then (s, some (refuse resState 0))
      else (boardOnly s (refreshOne b s), some (done))

/-- REFRESH_BOARD. -/
def execRefreshBoard (p : Post) (board : Byte) (s : State) : Host.Outcome State Fault Refusal :=
  .next (orderCommand p (.refreshBoard board) (refreshBoard board) s)

end Sys2Proof.Machine
end

