-- ==== Sys2Proof/Machine/PlanStore.lean ====
section
/-! DEFINITION. The plan store's operations (chapter 11). -/

namespace Sys2Proof.Machine

/-- What the plan store's events may change. -/
def storeOnly (s t : State) : State :=
  { s with store := t.store, ord := orderEnds s.ord t.ord, win := t.win, jrn := t.jrn, irq := t.irq }

def updStore (f : Store → Store) (s : State) : State := { s with store := f s.store }

/-- Change the place a job works on, whatever its contents' type. -/
def Store.onPlace (v : Store) (j : StoreJob) (fp : Place PlanBlock → Place PlanBlock)
    (fs : Place SetupImage → Place SetupImage) : Store :=
  match j with
  | .savePlan i _ => { v with plans := upd v.plans i fp }
  | .erasePlan i => { v with plans := upd v.plans i fp }
  | .saveSetup _ => { v with setup := fs v.setup }

def Place.mark {α : Type} (p : Place α) : Place α := { p with marked := true }

/-- A place whose operation was aborted or failed verification: DAMAGED, holding what the write left (R165). -/
def Place.damage {α : Type} (p : Place α) : Place α := { p with state := .damaged, stored := .bad }

/-- The durations of R162. -/
def StoreJob.duration : StoreJob → Nat
  | .savePlan _ _ => Config.savePlanMs
  | .erasePlan _ => Config.erasePlanMs
  | .saveSetup _ => Config.saveSetupMs

/-- STORE DONE's flags and subject (R165). -/
def StoreJob.code : StoreJob → Nat
  | .savePlan _ _ => 1
  | .erasePlan _ => 2
  | .saveSetup _ => 3
def StoreJob.subject : StoreJob → Nat
  | .savePlan i _ => num i
  | .erasePlan i => num i
  | .saveSetup _ => 17

/-- An operation is accepted from slot `k`: its place marked, the store WORKING, the header rewritten (R162, R165). -/
def beginStore (k : Fin 24) (j : StoreJob) (s : State) : State :=
  writeRow .header (updStore (fun v => { v.onPlace j Place.mark Place.mark with op := some ⟨k, j, s.ms + j.duration⟩ }) s)

/-- A plan store order that has passed its range checks (R162, R163). -/
def storeOrder (k : Fin 24) (j : StoreJob) (inUse : Bool) : Perform := fun s =>
  match s.store.op with
  | some o => (s, some (refuse resBusy (num o.slot)))
  | none =>
    if inUse then (s, some (refuse resInUse 0 [BitVec.ofNat 8 s.shift.state.code]))
    else (beginStore k j s, none)

/-- SAVE PLAN taken from slot `k` (R163). -/
def savePlan (k : Fin 24) (place : Byte) (b : PlanBlock) : Perform := fun s =>
  match index? 16 place.toNat with
  | none => (s, some (refuse resRange 100))
  | some i =>
    match planError b with
    | some detail => (s, some (refuse resRange detail))
    | none => storeOrder k (.savePlan i b) (s.inUse (num i)) s

/-- SAVE_PLAN. -/
def execSavePlan (p : Post) (place : Byte) (b : PlanBlock) (s : State) : Host.Outcome State Fault Refusal :=
  .next (orderCommand p (.savePlan place b) (savePlan p.slot place b) s)

/-- ERASE PLAN taken from slot `k` (R163). -/
def erasePlan (k : Fin 24) (place : Byte) : Perform := fun s =>
  match index? 16 place.toNat with
  | none => (s, some (refuse resRange 100))
  | some i => storeOrder k (.erasePlan i) (s.inUse (num i)) s

/-- ERASE_PLAN. -/
def execErasePlan (p : Post) (place : Byte) (s : State) : Host.Outcome State Fault Refusal :=
  .next (orderCommand p (.erasePlan place) (erasePlan p.slot place) s)

/-- The copy that SAVE SETUP takes of the live setup (R164, R139). -/
def State.image (s : State) (startPlace : Nat) : SetupImage :=
  { drives := s.setup.drives, zones := s.setup.zones, bindings := s.setup.bindings, ladders := s.setup.ladders,
    texts := s.setup.texts, keyed := s.setup.keyed,
    boards := s.brd.boards.map fun b => ⟨b.definition, b.entries, b.state != .disabled⟩, startPlace := startPlace }

/-- SAVE SETUP taken from slot `k`, past the protection check (R164). -/
def saveSetup (k : Fin 24) (startPlace : Byte) : Perform := fun s =>
  if 16 < startPlace.toNat then (s, some (refuse resRange 1))
  else storeOrder k (.saveSetup (s.image startPlace.toNat)) false s

/-- SAVE_SETUP. -/
def execSaveSetup (p : Post) (startPlace : Byte) (s : State) : Host.Outcome State Fault Refusal :=
  .next (orderCommand p (.saveSetup startPlace) (guarded (saveSetup p.slot startPlace)) s)

/-! ### The end of an operation (R165) -/

/-- The place after a verified operation; the operation's last write has removed the mark. -/
def finishPlan (contents : Option PlanBlock) : Place PlanBlock :=
  match contents with
  | some b => ⟨.valid, .good b, false⟩
  | none => ⟨.empty, .erased, false⟩

def StoreJob.planContents : StoreJob → Option PlanBlock
  | .savePlan _ b => some b
  | _ => none

/-- The store after a job that verified. -/
def Store.finish (v : Store) (j : StoreJob) : Store :=
  match j with
  | .saveSetup image => { v with setup := ⟨.valid, .good image, false⟩ }
  | j => v.onPlace j (fun _ => finishPlan j.planContents) id

/-- The store after a job that did not verify: its last write has removed the mark, and the contents do not match. -/
def Store.fail (v : Store) (j : StoreJob) : Store :=
  v.onPlace j (fun p => { p.damage with marked := false }) (fun p => { p.damage with marked := false })

/-- The state code of the place a job works on. -/
def Store.stateOf (v : Store) : StoreJob → Nat
  | .savePlan i _ => (v.plans[i]).state.code
  | .erasePlan i => (v.plans[i]).state.code
  | .saveSetup _ => v.setup.state.code

/-- STORE DONE (R165). -/
def logStore (j : StoreJob) (result : Nat) (s : State) : State :=
  log kindStoreDone j.code j.subject result (s.store.stateOf j) s

/-- The end of the operation in work, verified or not (R165). -/
def endStore (o : StoreOp) (verified : Bool) (s : State) : State :=
  let code := if verified then resDone else resStoreFailed
  let t := raiseIf (!verified) .fault
    (updStore (fun v => { (if verified then v.finish o.job else v.fail o.job) with op := none }) s)
  endLong o.slot { code := code } (logStore o.job code (writeRow .header t))

def storeOperationEnd (verified : Bool) (s : State) : State :=
  match s.store.op with
  | some o =>
    let t := s.reach o.endAt
    storeOnly t (endStore o verified t)
  | none => s

/-- STORE_OPERATION_END (R165). -/
def execStoreOperationEnd (verified : Bool) (s : State) : Host.Outcome State Fault Refusal :=
  .next (storeOperationEnd verified s)

/-- STOP ALL WORK aborts the operation in work (R165); the place keeps its mark, and the order unit writes the slot. -/
def abortStore (o : StoreOp) (s : State) : State :=
  storeOnly s (logStore o.job resAborted (writeRow .header
    (updStore (fun v => { v.onPlace o.job Place.damage Place.damage with op := none }) s)))

end Sys2Proof.Machine
end

