-- ==== Sys2Proof/Machine/Resets.lean ====
section
/-! DEFINITION. The register window's writes (sections 1.1 and 10.5), the two resets, and start-up (R166). -/

namespace Sys2Proof.Machine

/-! ### The two resets -/

/-- A reset cuts the operation in work without an end: its place keeps the mark (R165). -/
def Store.cut (v : Store) : Store := { v with op := none }

/-- A power-on reset: every block at its power-on values; the input pins, the store's places and the commands not yet taken
stand (R5, R16, R19, R160, R161). -/
def powerOn (s : State) : State :=
  { State.reset with pins := s.pins, store := s.store.cut, pending := s.pending }

/-- POWER_ON_RESET. -/
def execPowerOnReset (s : State) : Host.Outcome State Fault Refusal := .next (powerOn s)

/-- The exchange memory at a part reset: the order slots and the unassigned ranges are cleared (R5). -/
def clearedAtPartReset (mem : List Host.Cell) : List Host.Cell :=
  Memory.clear (Memory.clear (Memory.clear (Memory.clear mem 0x0100 0x600) 0x0D70 0x10) 0x1AA0 0x60) 0x6A00 0x600

/-- The journal unit after a part reset at the instant `ms` (R160). -/
def Journal.afterPartReset (v : Journal) (ms : Nat) : Journal :=
  { v with
    lastBad := none, threshold := Config.thresholdReset, ageLimit := Config.ageLimitReset,
    ageTimer := if v.put = v.accepted then none else some (ms + Config.ageLimitReset) }

/-- The attribution unit after a part reset (R119). -/
def Attribution.afterPartReset (v : Attribution) (now : Word) : Attribution :=
  { v with slots := Vector.replicate 8 .unused, totals := Vector.replicate 8 (ZoneTotals.initial now) }

/-- The state after the entries of the part reset are journaled: what a part reset keeps is the setup's lockdown flag
(R19), the clock (R138), the stoppage and shift histories (R119, R138), the journal (R160), the change counts (R6), the
store's places (R161), part time and the pins; all else takes its reset values (R16, R39, R68, R79, R103, R154). -/
def resetBlocks (s : State) : State :=
  { State.reset with
    ms := s.ms, resetKind := .part, pins := s.pins,
    win := { s.win with mem := clearedAtPartReset s.win.mem },
    setup := { Setup.initial with lockdown := s.setup.lockdown },
    attr := s.attr.afterPartReset s.partTime,
    shift := { Shift.initial with clock := s.shift.clock, history := s.shift.history },
    jrn := s.jrn.afterPartReset s.ms, store := s.store.cut, pending := s.pending }

/-- A part reset: the open records and the open shift are cut and journaled, every block takes its reset values, and the
header reads STARTING (R2, R119, R138, R166 step 1). -/
def partReset (s : State) : State := writeRow .header (resetBlocks (cutShift (cutRecords s)))

/-- PART_RESET: a write to PART CONTROL with bit 31 set (R2). -/
def execPartReset (w : RegWrite) (s : State) : Host.Outcome State Fault Refusal :=
  if w.partResetBit then .next (partReset s) else .refused .illFormed

/-! ### The register window -/

/-- A scan begins: the order unit's mark that one is in progress, to be carried out by ORDER_SCAN. -/
def beginScan (s : State) : State := { s with ord := { s.ord with scanning := true } }

/-- The scan timer is started (R8). -/
def startScanTimer (s : State) : State := { s with ord := { s.ord with scanDue := some (s.ms + Config.scanPeriodMs) } }

/-- The intake hold is written (R2, R8, R10). A write that leaves it as it was has no effect. A scan in progress ends when the
hold is turned on, and the scan timer is started again at that end. -/
def setHold (hold : Bool) (s : State) : State :=
  if hold = s.ord.hold then s
  else if hold then
    let t := { s with ord := { s.ord with hold := true, scanning := false, further := false } }
    if s.ord.scanning then startScanTimer t else t
  else
    let t := { s with ord := { s.ord with hold := false } }
    if s.part = .running then beginScan (startScanTimer t) else t

/-- ORDER_HOLD: a write to PART CONTROL with bit 31 clear (R2). -/
def execOrderHold (w : RegWrite) (s : State) : Host.Outcome State Fault Refusal :=
  if w.partResetBit then .refused .illFormed else .next (setHold w.orderHoldBit s)

/-- A request for a scan (R3). -/
def attention (s : State) : State :=
  if s.part = .starting ∨ s.ord.hold = true then s
  else if s.ord.scanning then { s with ord := { s.ord with further := true } }
  else beginScan s

/-- ATTENTION (R3), after the line computer's window writes. -/
def execAttention (_w : RegWrite) (writes : List Host.Cell) (s : State) : Host.Outcome State Fault Refusal :=
  if insideWindow writes then .next (attention (hostWrites writes s)) else .fault .outsideWindow

/-- CAUSE_WRITE (R4, R159). -/
def execCauseWrite (w : RegWrite) (s : State) : Host.Outcome State Fault Refusal := .next (clearCauses w.full s)

/-- MASK_WRITE (R4, R159). -/
def execMaskWrite (w : RegWrite) (s : State) : Host.Outcome State Fault Refusal := .next (setMask w.full s)

/-- REGISTER_WRITE_IGNORED: a write to IDENT or to offsets 0x14 to 0x1F (section 1.1, R1). -/
def execRegisterWriteIgnored (offset : Nat) (_w : RegWrite) (s : State) : Host.Outcome State Fault Refusal :=
  if ignoredOffset offset then .next s else .refused .illFormed

/-- The scan timer expires (R8): a scan begins unless the hold is on or a scan is in progress. -/
def scanTimerExpiry (s : State) : State :=
  match s.ord.scanDue with
  | none => s
  | some t =>
    let u := s.reach t
    let v := { u with ord := { u.ord with scanDue := none } }
    if v.part = .running ∧ v.ord.hold = false then beginScan v else v

/-- SCAN_TIMER_EXPIRY (R8). -/
def execScanTimerExpiry (s : State) : Host.Outcome State Fault Refusal := .next (scanTimerExpiry s)

/-! ### Start-up (R166) -/

/-- What the scan makes of a place (R166, step 2). -/
def Place.scan {α : Type} (p : Place α) : Place α :=
  { p with state :=
      if p.marked then .damaged
      else match p.stored with
        | .erased => .empty
        | .good _ => .valid
        | .bad => .damaged }

/-- Step 2: the scan, and the directory written. -/
def storeScan (s : State) : State :=
  writeRow .header (updStore (fun v => { v with plans := v.plans.map Place.scan, setup := v.setup.scan }) s)

/-- The image that the setup load takes: the contents of a VALID setup place. -/
def State.loadedImage (s : State) : Option SetupImage :=
  match s.store.setup.state, s.store.setup.stored with
  | .valid, .good image => some image
  | _, _ => none

/-- The setup status that the setup place's state gives (R166, step 3). -/
def statusOf : PlaceState → SetupStatus
  | .valid => .loaded
  | .empty => .absent
  | .damaged => .damaged

/-- The setup unit's part of the load (R19). -/
def Setup.load (v : Setup) (status : SetupStatus) : Option SetupImage → Setup
  | some i =>
    { v with drives := i.drives, zones := i.zones, bindings := i.bindings, ladders := i.ladders, texts := i.texts,
             keyed := i.keyed, status := status, startPlace := i.startPlace }
  | none => { v with status := status }

/-- The board composer's part of the load: definitions and entries, each defined board rendered (R154). -/
def loadBoards (image : Option SetupImage) (s : State) : State :=
  match image with
  | some i =>
    let t := { s with brd := { s.brd with boards := Vector.ofFn fun b =>
      { s.brd.boards[b] with definition := (i.boards[b]).definition, entries := (i.boards[b]).entries } } }
    { t with brd := { t.brd with boards := t.brd.boards.map (renderBoard true t t) } }
  | none => s

/-- The drive unit's first reading of the run feedback (R81, R103). -/
def readFeedback (s : State) : State :=
  { s with drv := { s.drv with drives := Vector.ofFn fun d => { s.drv.drives[d] with feedback := s.pins.feedback[d] } } }

/-- Each zone's last update is the instant of start-up (R119). -/
def startTotals (s : State) : State :=
  { s with attr := { s.attr with totals := Vector.replicate 8 (ZoneTotals.initial s.partTime) } }

/-- The rows written at the setup load: every row of the live tables and the open slots, but for the rows of the panels that
become fitted, written by their own change of state (R5, R6, R166). -/
def State.loadRows (s : State) : List Row :=
  [.header] ++ (List.finRange 8).map Row.drive ++ (List.finRange 8).map Row.zone ++ (List.finRange 7).map Row.buffer
  ++ (List.finRange 24).map Row.group
  ++ (((List.finRange 40).filter fun p => s.loop.panels[p].state == .unfitted).map Row.panel)
  ++ (List.finRange 16).map Row.board ++ [.tally, .paceLists] ++ (List.finRange 160).map Row.station
  ++ (List.finRange 8).map Row.openSlot

/-- Step 3: each block takes its part, the rows and the text table are written, SETUP STATUS is journaled. -/
def setupLoad (s : State) : State :=
  let image := s.loadedImage
  let status := statusOf s.store.setup.state
  let t := loadBoards image (readFeedback (startTotals { s with setup := s.setup.load status image }))
  let u := refitPanels t
  let v := each (List.finRange 64) writeText (writeRows u.loadRows u)
  let flags := match s.resetKind with
    | .powerOn => 1
    | .part => 2
  raiseIf (status == .damaged) .fault (log kindSetupStatus flags 0 status.code ((image.map SetupImage.startPlace).getD 0) v)

/-- The zones that step 4 places in service, in ascending number, an order the manual leaves open (DESIGN CHOICE,
notes/assumptions/32.md). -/
def State.autoZones (s : State) : List (Fin 8) :=
  (List.finRange 8).filter fun z =>
    match s.zone z with
    | some f => f.auto && (s.setup.drives[f.drive]).isSome
    | none => false

/-- The boards that step 4 enables, in ascending number, an order the manual leaves open (DESIGN CHOICE,
notes/assumptions/32.md). -/
def enabledIn (image : Option SetupImage) : List (Fin 16) :=
  match image with
  | some i => (List.finRange 16).filter fun b => (i.boards[b]).definition.isSome && (i.boards[b]).enabled
  | none => []

/-- Step 4: zones in service with the reason auto-service, then boards SEARCHING. What the zones' entry changes on a board is
rendered while the board is still DISABLED, and makes nothing stale (R145, R154). -/
def autoService (s : State) : State :=
  let t := each s.autoZones (fun z t => enterService z 5 t) s
  each (enabledIn s.loadedImage) (fun b t => boardOnly t (enterSearching b 9 t)) t

/-- Step 5: the plan of a VALID start-up place becomes PENDING. -/
def startUpPlan (s : State) : State :=
  match index? 16 ((s.loadedImage.map SetupImage.startPlace).getD 0) with
  | some i =>
    match (s.store.plans[i]).state, (s.store.plans[i]).stored with
    | .valid, .good b => (placePlan 2 ⟨b, num i⟩ s).1
    | _, _ => s
  | none => s

/-- Step 6: RUNNING; the first scan begins unless the hold is on, and the scan timer starts (R8). -/
def becomeRunning (s : State) : State :=
  let t := startScanTimer (writeRow .header { s with part := .running })
  if t.ord.hold then t else beginScan t

def startUp (s : State) : State :=
  if s.part = .running then s
  else
    let t := setupLoad (storeScan s)
    becomeRunning (settle t (startUpPlan (autoService t)))

/-- START_UP (R166). -/
def execStartUp (s : State) : Host.Outcome State Fault Refusal := .next (startUp s)

end Sys2Proof.Machine
end

