-- ==== Sys2Proof/Machine/Orders.lean ====
section
/-! DEFINITION. The order unit's scan (R8, R9) over the order slots in the exchange memory, STOP ALL WORK, and the journal
unit's own timers and order. -/

namespace Sys2Proof.Machine

/-! ### STOP ALL WORK (R15) -/

/-- The zone whose drain, and the board whose reset, a slot holds. -/
def State.drainOf (s : State) (k : Fin 24) : Option (Fin 8) :=
  (List.finRange 8).find? fun z => s.setup.drainSlot[z] == some k
def State.resetOf (s : State) (k : Fin 24) : Option (Fin 16) :=
  (List.finRange 16).find? fun b => (s.brd.boards[b]).resetSlot == some k

/-- The owner of a long order aborts it (R15). -/
def abortOwner (k : Fin 24) (s : State) : State :=
  match s.drainOf k, s.resetOf k, s.store.op with
  | some z, _, _ => abortDrain z s
  | none, some b, _ => abortReset b s
  | none, none, some o => if o.slot = k then abortStore o s else s
  | none, none, none => s

def abortWork (w : Work) (s : State) : State := abortLong w (abortOwner w.slot s)

/-- STOP ALL WORK taken from slot `k` (R15). The drives' rows that the aborts changed are rewritten once each (R82). -/
def stopAllWork (k : Fin 24) : Perform := fun s =>
  let t := syncRows s everyDriveRow (each s.ord.inWork abortWork s)
  let u := { t with ord := { t.ord with locked := false } }
  (if s.ord.locked then logReleased k u else u, some (done s.ord.inWork.length))

/-- STOP_ALL_WORK. -/
def execStopAllWork (p : Post) (s : State) : Host.Outcome State Fault Refusal :=
  .next (orderCommand p .stopAllWork (stopAllWork p.slot) s)

/-- UNLOCK_ORDERS (R14). -/
def execUnlockOrders (p : Post) (s : State) : Host.Outcome State Fault Refusal :=
  .next (orderCommand p .unlockOrders (unlockOrders p.slot) s)

/-! ### The journal unit's timers and order (R156, R158) -/

/-- TAKE_COUNT_READ (R156), after the line computer's window writes. -/
def execTakeCountRead (writes : List Host.Cell) (s : State) : Host.Outcome State Fault Refusal :=
  if insideWindow writes then .next (readTake (hostWrites writes s)) else .fault .outsideWindow

/-- The age timer expires at its instant (R158). A timer that a read has since set again, for a later entry, has not run: its
old expiry does not happen. -/
def ageTimerExpiry (s : State) : State :=
  match s.jrn.ageTimer with
  | some t => if t ≤ s.ms then expireAge s else s
  | none => s

/-- AGE_TIMER_EXPIRY (R158). -/
def execAgeTimerExpiry (s : State) : Host.Outcome State Fault Refusal := .next (ageTimerExpiry s)

/-- SET JOURNAL NOTICE (R158). -/
def setJournalNotice (threshold ageLimit : Half) : Perform := fun s =>
  if !within 1 512 threshold.toNat then (s, some (refuse resRange 1))
  else if !within 10 10000 ageLimit.toNat then (s, some (refuse resRange 2))
  else
    let t := writeRow .header { s with jrn := { s.jrn with threshold := threshold.toNat, ageLimit := ageLimit.toNat } }
    let u := raiseNotice (followOldest t)
    ({ s with win := u.win, jrn := u.jrn, irq := u.irq },
      some (done 0 (leBytes 2 s.jrn.threshold ++ leBytes 2 s.jrn.ageLimit)))

/-- SET_JOURNAL_NOTICE. -/
def execSetJournalNotice (p : Post) (threshold ageLimit : Half) (s : State) : Host.Outcome State Fault Refusal :=
  .next (orderCommand p (.setJournalNotice threshold ageLimit) (setJournalNotice threshold ageLimit) s)

/-! ### The take of a slot (R9) -/

/-- What the owner of an order taken from slot `k` does with it (section 1.7). -/
def Order.perform (k : Fin 24) : Order → Perform
  | .unlockOrders => Machine.unlockOrders k
  | .stopAllWork => Machine.stopAllWork k
  | .defineDrive q => guarded (Machine.defineDrive q)
  | .defineZone q => guarded (Machine.defineZone q)
  | .bindStations q => guarded (Machine.bindStations q)
  | .defineGroup q => guarded (Machine.defineGroup q)
  | .defineText q => guarded (Machine.defineText q)
  | .setLoopTiming x => guarded (Machine.setLoopTiming x)
  | .setSetupProtection x => guarded (Machine.setSetupProtection x)
  | .lockSetup => guarded Machine.lockSetup
  | .placeZoneInService z => Machine.placeZoneInService z
  | .takeZoneOutOfService z => Machine.takeZoneOutOfService k z
  | .forceDrain z => Machine.forceDrain z
  | .holdDrive d => Machine.holdDrive d
  | .releaseDrive d => Machine.releaseDrive d
  | .setBufferCount b n => Machine.setBufferCount b n
  | .resetPanelCounters p => Machine.resetPanelCounters p
  | .raiseCall n c => Machine.raiseCall n c
  | .answerCall n c => Machine.answerCall n c
  | .clearCall n c => Machine.clearCall n c
  | .setClock sec day => Machine.setClock sec day
  | .defineShiftPlan b => Machine.defineShiftPlan b
  | .loadShiftPlan p => Machine.loadShiftPlan p
  | .startShiftNow => Machine.startShiftNow
  | .endShift => Machine.endShift
  | .collectPaceNotices => Machine.collectPaceNotices
  | .defineBoard q => guarded (Machine.defineBoard q)
  | .enableBoard b => Machine.enableBoard b
  | .disableBoard b => Machine.disableBoard b
  | .resetBoard b => Machine.resetBoard k b
  | .setLinkTiming x y => guarded (Machine.setLinkTiming x y)
  | .refreshBoard b => Machine.refreshBoard b
  | .defineBoardFields q => guarded (Machine.defineBoardFields q)
  | .savePlan p b => Machine.savePlan k p b
  | .erasePlan p => Machine.erasePlan k p
  | .saveSetup p => guarded (Machine.saveSetup k p)
  | .setJournalNotice t a => Machine.setJournalNotice t a

/-- The fields a take reads from a slot (section 1.3, R9). -/
def State.slotKind (s : State) (k : Fin 24) : Byte := s.readByte (slotBase k + 1)
def State.slotNotify (s : State) (k : Fin 24) : Bool := notifySet (s.readByte (slotBase k + 2))
def State.slotTag (s : State) (k : Fin 24) : Half := halfAt (s.readRun (slotBase k + 4) 2) 0
def State.slotParams (s : State) (k : Fin 24) : List Byte := s.readRun (slotBase k + 16) 48

/-- A slot is answered LOCKED for a violation found at its visit, and becomes the take position (R8, R9, R12). -/
def answerViolation (reason detail : Nat) (k : Fin 24) (s : State) : State :=
  let t := { s with ord := { s.ord with takePos := k } }
  let u := violation reason k (s.slotKind k) (s.slotState k) t
  answerSlot k (s.slotNotify k) (s.slotTag k) (refuse resLocked detail) u

/-- The take of a POSTED slot (R9). -/
def takeSlot (k : Fin 24) (s : State) : State :=
  match parseOrder (s.slotKind k) (s.slotParams k) with
  | none => answerViolation reasonUnknownOrder reasonUnknownOrder k s
  | some o => carryOut k (s.slotNotify k) (s.slotTag k) o (o.perform k) s

/-- The visit of a slot (R8). -/
def visitSlot (k : Fin 24) (s : State) : State :=
  if s.slotInWork k then s
  else
    match (s.slotState k).toNat with
    | 1 => takeSlot k s
    | 0 => s
    | 2 => s
    | 3 => s
    | v => answerViolation reasonBadSlotState v k s

/-- The 24 slots in rotating order from the slot after the take position (R8). -/
def scanOrder (takePos : Fin 24) : List (Fin 24) :=
  (List.finRange 24).filter (fun k => decide (takePos < k)) ++ (List.finRange 24).filter (fun k => decide (k ≤ takePos))

/-- The scan ends: a further scan that was marked begins, and the scan timer starts again (R3, R8). -/
def endScan (s : State) : State :=
  startScanTimer { s with ord := { s.ord with scanning := s.ord.further, further := false } }

/-- A scan that has begun is carried out (R8). -/
def orderScan (s : State) : State :=
  if s.part = .running ∧ s.ord.hold = false ∧ s.ord.scanning = true then
    endScan (each (scanOrder s.ord.takePos) visitSlot s)
  else s

/-- ORDER_SCAN (R8), after the line computer's window writes, with the setup key at a reading. -/
def execOrderScan (key : KeyReading) (writes : List Host.Cell) (s : State) : Host.Outcome State Fault Refusal :=
  if insideWindow writes then .next (orderScan (hostWrites writes { s with pins := { s.pins with key := key } }))
  else .fault .outsideWindow

end Sys2Proof.Machine
end

