-- ==== Sys2Proof/Machine/Clock.lean ====
section
/-! DEFINITION. The passing of time while no command waits: one millisecond, and the timers, arbiters and periodic events
that have then fallen due. The opcode table has no row for the passing of time (DESIGN CHOICE, notes/assumptions/4.md). -/

namespace Sys2Proof.Machine

/-- A list of one event if a condition holds. -/
def eventIf (b : Bool) (i : Instr) : List Instr := if b then [i] else []

/-- An optional instant has come. -/
def State.past (s : State) (t : Option Nat) : Bool :=
  match t with
  | some t => decide (t ≤ s.ms)
  | none => false

/-- The instant at which the shift's next break begins, or the break in course ends (R126). -/
def State.breakStart (s : State) : Option Nat :=
  if s.shift.state = .running then
    (s.breakSpan s.shift.breaksBegun).map fun b => s.instantOfE (600 * b.offset.toNat)
  else none
def State.breakStop (s : State) : Option Nat :=
  if s.shift.state = .onBreak then
    (s.breakSpan (s.shift.breaksBegun - 1)).map fun b => s.instantOfE (600 * (b.offset.toNat + b.length.toNat))
  else none

/-- The instants of the planned end and of the overtime limit (R126). -/
def State.endInstant (s : State) : Option Nat :=
  if s.shift.state = .running then s.shift.current.map fun p => s.instantOfE (600 * p.block.length.toNat) else none
def State.limitInstant (s : State) : Option Nat :=
  if s.shift.state = .overtime then
    s.shift.current.map fun p => s.instantOfE (600 * (p.block.length.toNat + p.block.overtime.toNat))
  else none

/-- The plan count is due to rise (R130). -/
def State.riseDue (s : State) : Bool :=
  s.shiftOpen && decide (s.shift.planCount < s.target) && decide ((s.shift.planCount + 1) * s.takt ≤ s.shiftW)

/-- A call's escalation timer has run (R72). -/
def State.escalationDue (s : State) (n : Fin 160) (k : Kind) : Bool :=
  match s.call n k with
  | some c => !c.answered && !s.atTop c && s.past (c.nextEscalation.map fun t => 100 * t)
  | none => false

/-- A drive's stop response timer has run (R95). -/
def State.supervisionDue (s : State) (d : Fin 8) : Bool :=
  match (s.drive d).supervision with
  | .timing entered limit => decide (100 * (entered + 10 * limit) ≤ s.ms)
  | _ => false

/-- The events of the shift clock and the shift's timers. -/
def shiftEvents (s : State) : List Instr :=
  eventIf (s.shift.clock.isSet && decide (s.shift.clock.nextAdvance ≤ s.ms)) .clockAdvance
  ++ eventIf (s.past s.breakStart) .breakBegin ++ eventIf (s.past s.breakStop) .breakEnd
  ++ eventIf (s.past s.endInstant) .plannedEnd ++ eventIf (s.past s.limitInstant) .overtimeLimit
  ++ eventIf s.riseDue .planRise

/-- The timers of calls and drives. -/
def lineEvents (s : State) : List Instr :=
  ((List.finRange 160).map fun n => (Kind.all.map fun k =>
    eventIf (s.escalationDue n k) (.escalationExpiry n k)).flatten).flatten
  ++ ((List.finRange 8).map fun d => eventIf (s.supervisionDue d) (.supervisionExpiry d)).flatten

/-- The call loop: its timeout, the LOST panels' polls, and the arbiter's choice. -/
def loopEvents (s : State) : List Instr :=
  eventIf (s.past (s.loop.poll.map Poll.waitEnd)) .responseTimeout
  ++ ((List.finRange 40).map fun p => eventIf (s.past (s.loop.panels[p]).dueAt) (.lostPollDue p)).flatten
  ++ eventIf (s.part == .running && s.loop.poll.isNone && (s.lostDue.isSome || s.nextInRotation.isSome)) .pollSend

/-- A display link: the wait in course, or the arbiter's choice. -/
def linkEvents (s : State) (l : Fin 2) : List Instr :=
  match (s.brd.links[l]).frame with
  | some o => eventIf (decide (o.waitEnd ≤ s.ms)) (if o.kind = .reset then .resetWaitExpiry l else .linkWaitExpiry l)
  | none =>
    eventIf (s.part == .running && ((s.unsentReset l).isSome || (s.nextOnLink l).isSome)) (.linkChoose l)

/-- The boards' timers and the two links. -/
def boardEvents (s : State) : List Instr :=
  ((List.finRange 16).map fun b =>
    eventIf (s.past (s.brd.boards[b]).probeAt) (.probeDue b)
    ++ eventIf (s.past (s.brd.boards[b]).refreshAt) (.refreshTimerExpiry b)).flatten
  ++ linkEvents s 0 ++ linkEvents s 1

/-- The once-a-second events (R105, R112, R135, R145), at the whole seconds of part time, a phase the manual leaves open
(DESIGN CHOICE, notes/assumptions/35.md). -/
def secondEvents (s : State) : List Instr :=
  if s.ms % 1000 = 0 then [.totalsSecond, .tallySecond, .renderSecond] else []

/-- The journal unit's timers (R156, R158) and the end of a store operation (R165), whose verification is a free value.
The read timer runs from power-on and through part resets, a phase R156 leaves open (DESIGN CHOICE,
notes/assumptions/35.md). -/
def journalEvents (s : State) : List Instr :=
  eventIf (s.ms % Config.takeReadMs == 0) (.takeCountRead []) ++ eventIf (s.past s.jrn.ageTimer) .ageTimerExpiry
def storeEvents (s : State) : List Instr :=
  eventIf (s.past (s.store.op.map StoreOp.endAt)) (.storeOperationEnd (Config.storeVerifies s.ms))

/-- The order unit's timer and the scan that has begun (R8). -/
def scanEvents (s : State) : List Instr :=
  eventIf (s.past s.ord.scanDue) .scanTimerExpiry
  ++ eventIf (s.part == .running && !s.ord.hold && s.ord.scanning) (.orderScan s.pins.key [])

/-- The events that have fallen due. Their order at one instant is a DESIGN CHOICE. -/
def dueEvents (s : State) : List Instr :=
  eventIf (s.part == .starting) .startUp ++ shiftEvents s ++ lineEvents s ++ loopEvents s ++ boardEvents s
    ++ secondEvents s ++ journalEvents s ++ storeEvents s ++ scanEvents s

/-- One millisecond passes. -/
def tick (s : State) : State :=
  let t := { s with ms := s.ms + 1 }
  { t with pending := dueEvents t }

end Sys2Proof.Machine
end

