-- ==== Sys2Proof/Machine/Dispatch.lean ====
section
/-! DEFINITION. One arm for each command, each a direct call of its meaning. -/

namespace Sys2Proof.Machine

def exec (i : Instr) (s : State) : Host.Outcome State Fault Refusal :=
  match i with
  | .powerOnReset => Sys2Proof.Machine.execPowerOnReset s
  | .partReset w => Sys2Proof.Machine.execPartReset w s
  | .orderHold w => Sys2Proof.Machine.execOrderHold w s
  | .attention w writes => Sys2Proof.Machine.execAttention w writes s
  | .causeWrite w => Sys2Proof.Machine.execCauseWrite w s
  | .maskWrite w => Sys2Proof.Machine.execMaskWrite w s
  | .registerWriteIgnored offset w => Sys2Proof.Machine.execRegisterWriteIgnored offset w s
  | .startUp => Sys2Proof.Machine.execStartUp s
  | .scanTimerExpiry => Sys2Proof.Machine.execScanTimerExpiry s
  | .orderScan key writes => Sys2Proof.Machine.execOrderScan key writes s
  | .unlockOrders p => Sys2Proof.Machine.execUnlockOrders p s
  | .stopAllWork p => Sys2Proof.Machine.execStopAllWork p s
  | .defineDrive p q => Sys2Proof.Machine.execDefineDrive p q s
  | .defineZone p q => Sys2Proof.Machine.execDefineZone p q s
  | .bindStations p q => Sys2Proof.Machine.execBindStations p q s
  | .defineGroup p q => Sys2Proof.Machine.execDefineGroup p q s
  | .defineText p q => Sys2Proof.Machine.execDefineText p q s
  | .setLoopTiming p scale => Sys2Proof.Machine.execSetLoopTiming p scale s
  | .setSetupProtection p mode => Sys2Proof.Machine.execSetSetupProtection p mode s
  | .lockSetup p => Sys2Proof.Machine.execLockSetup p s
  | .placeZoneInService p zone => Sys2Proof.Machine.execPlaceZoneInService p zone s
  | .takeZoneOutOfService p zone => Sys2Proof.Machine.execTakeZoneOutOfService p zone s
  | .forceDrain p zone => Sys2Proof.Machine.execForceDrain p zone s
  | .holdDrive p drive => Sys2Proof.Machine.execHoldDrive p drive s
  | .releaseDrive p drive => Sys2Proof.Machine.execReleaseDrive p drive s
  | .setBufferCount p buffer count => Sys2Proof.Machine.execSetBufferCount p buffer count s
  | .resetPanelCounters p panel => Sys2Proof.Machine.execResetPanelCounters p panel s
  | .raiseCall p station kind => Sys2Proof.Machine.execRaiseCall p station kind s
  | .answerCall p station kind => Sys2Proof.Machine.execAnswerCall p station kind s
  | .clearCall p station kind => Sys2Proof.Machine.execClearCall p station kind s
  | .setClock p second day => Sys2Proof.Machine.execSetClock p second day s
  | .defineShiftPlan p block => Sys2Proof.Machine.execDefineShiftPlan p block s
  | .loadShiftPlan p place => Sys2Proof.Machine.execLoadShiftPlan p place s
  | .startShiftNow p => Sys2Proof.Machine.execStartShiftNow p s
  | .endShift p => Sys2Proof.Machine.execEndShift p s
  | .collectPaceNotices p => Sys2Proof.Machine.execCollectPaceNotices p s
  | .defineBoard p q => Sys2Proof.Machine.execDefineBoard p q s
  | .enableBoard p board => Sys2Proof.Machine.execEnableBoard p board s
  | .disableBoard p board => Sys2Proof.Machine.execDisableBoard p board s
  | .resetBoard p board => Sys2Proof.Machine.execResetBoard p board s
  | .setLinkTiming p scale period => Sys2Proof.Machine.execSetLinkTiming p scale period s
  | .refreshBoard p board => Sys2Proof.Machine.execRefreshBoard p board s
  | .defineBoardFields p q => Sys2Proof.Machine.execDefineBoardFields p q s
  | .savePlan p place block => Sys2Proof.Machine.execSavePlan p place block s
  | .erasePlan p place => Sys2Proof.Machine.execErasePlan p place s
  | .saveSetup p startPlace => Sys2Proof.Machine.execSaveSetup p startPlace s
  | .setJournalNotice p threshold ageLimit => Sys2Proof.Machine.execSetJournalNotice p threshold ageLimit s
  | .storeOperationEnd verified => Sys2Proof.Machine.execStoreOperationEnd verified s
  | .pollSend => Sys2Proof.Machine.execPollSend s
  | .lostPollDue panel => Sys2Proof.Machine.execLostPollDue panel s
  | .panelAnswer frame => Sys2Proof.Machine.execPanelAnswer frame s
  | .responseTimeout => Sys2Proof.Machine.execResponseTimeout s
  | .escalationExpiry station kind => Sys2Proof.Machine.execEscalationExpiry station kind s
  | .advance drive count direction => Sys2Proof.Machine.execAdvance drive count direction s
  | .marker drive => Sys2Proof.Machine.execMarker drive s
  | .runFeedbackChange drive reading => Sys2Proof.Machine.execRunFeedbackChange drive reading s
  | .supervisionExpiry drive => Sys2Proof.Machine.execSupervisionExpiry drive s
  | .exitTransfer zone => Sys2Proof.Machine.execExitTransfer zone s
  | .bufferRelease buffer => Sys2Proof.Machine.execBufferRelease buffer s
  | .totalsSecond => Sys2Proof.Machine.execTotalsSecond s
  | .clockAdvance => Sys2Proof.Machine.execClockAdvance s
  | .breakBegin => Sys2Proof.Machine.execBreakBegin s
  | .breakEnd => Sys2Proof.Machine.execBreakEnd s
  | .plannedEnd => Sys2Proof.Machine.execPlannedEnd s
  | .overtimeLimit => Sys2Proof.Machine.execOvertimeLimit s
  | .planRise => Sys2Proof.Machine.execPlanRise s
  | .linkChoose link => Sys2Proof.Machine.execLinkChoose link s
  | .boardReply link frame => Sys2Proof.Machine.execBoardReply link frame s
  | .linkWaitExpiry link => Sys2Proof.Machine.execLinkWaitExpiry link s
  | .resetWaitExpiry link => Sys2Proof.Machine.execResetWaitExpiry link s
  | .probeDue board => Sys2Proof.Machine.execProbeDue board s
  | .refreshTimerExpiry board => Sys2Proof.Machine.execRefreshTimerExpiry board s
  | .renderSecond => Sys2Proof.Machine.execRenderSecond s
  | .takeCountRead writes => Sys2Proof.Machine.execTakeCountRead writes s
  | .ageTimerExpiry => Sys2Proof.Machine.execAgeTimerExpiry s
  | .tallySecond => Sys2Proof.Machine.execTallySecond s

end Sys2Proof.Machine
end

