-- ==== Sys2Proof/WellFormed.lean ====
section
/-! DEFINITION. Which terms of `Instr` are commands of the table: the checks that the operands' types do not make. -/

namespace Sys2Proof

open Machine

/-- The command belongs to its row: PART RESET has bit 31 of the write set and ORDER HOLD has it clear (R2), an ignored
write goes to an ignored offset, an advance carries 1 to 65535 counts (section 6.1), and window writes stay in the
window. -/
def Instr.wellFormed : Instr → Bool
  | .partReset w => w.partResetBit
  | .orderHold w => !w.partResetBit
  | .attention _ writes => insideWindow writes
  | .registerWriteIgnored offset _ => ignoredOffset offset
  | .orderScan _ writes => insideWindow writes
  | .advance _ count _ => decide (count ≠ 0)
  | .takeCountRead writes => insideWindow writes
  | _ => true

end Sys2Proof
end

