-- ==== Sys2Proof/Safety.lean ====
section
/-! DEFINITION. The terms in which claims about the block are made: what a safe step is, the invariants, when an order is
taken and what its slot then shows, what an appended journal entry is, and the footprint of each command: the blocks and
the parts of the exchange memory that it may change. -/

namespace Sys2Proof.Machine

/-! ### Safe steps and invariants -/

/-- The step goes on: no fault and no refusal. A step of this block stops only on a term that is no command of its row or
on a window write outside the window. -/
def State.safe (s : State) : Prop := ∃ t, step s = .next t

/-- The exchange memory is in its canonical form. -/
def State.canonical (s : State) : Prop := Memory.wf s.win.mem = true

/-- The interrupt line is asserted exactly while a pending cause is also in the mask (R159). -/
def State.lineFollows (s : State) : Prop := s.irq.line = true ↔ ∃ i : Fin 5, s.irq.cause[i] = true ∧ s.irq.mask[i] = true

/-- Each drive's stop request is asserted exactly while its demand set is not empty (R90). -/
def State.stopsFollow (s : State) : Prop := ∀ d : Fin 8, (s.drive d).stopRequest = true ↔ (s.drive d).demand ≠ []

/-- At most 512 entries are unread, and the next sequence number is the put count plus one (R155, R156). -/
def State.journalCounts (s : State) : Prop := s.unread ≤ 512 ∧ s.jrn.sequence = s.jrn.put + 1

/-- No zone stands twice in the two pace notice lists taken together (R133). -/
def State.noticesOnce (s : State) : Prop := (s.shift.behindList ++ s.shift.recovered.map Prod.fst).Nodup

/-- The bit of a cause in CAUSE and MASK (R4). -/
def CauseName.bit (c : CauseName) : Fin 5 :=
  match c with
  | .orderDone => 0
  | .journal => 1
  | .pace => 2
  | .locked => 3
  | .fault => 4

/-- The cause is pending (R4). -/
def State.raised (s : State) (c : CauseName) : Prop := s.irq.cause[c.bit] = true

/-! ### Orders: when they are taken, and what their slots show -/

/-- A scan that reaches the post's slot takes the order and hands it to its owner (R8, R9): the part is RUNNING, the intake
hold off, the unit READY, and the slot holds no long order in work. -/
def State.ready (s : State) (p : Post) : Prop :=
  s.part = .running ∧ s.ord.hold = false ∧ s.ord.locked = false ∧ s.slotInWork p.slot = false

/-- The protection check passes a setup-changing order taken with the post's key reading (R21). -/
def State.unguarded (s : State) (p : Post) : Prop :=
  s.setup.lockdown = false ∧ (s.setup.keyed = true → p.key = .edit)

/-- A slot shows an answer (R7, R17): DONE, the post tag, the result code, detail and data, and the bytes written over the
parameter area by an order whose chapter says so. -/
def State.shows (s : State) (k : Fin 24) (tag : Half) (a : Answer) : Prop :=
  s.readByte (slotBase k) = 3 ∧ s.readByte (slotBase k + 3) = BitVec.ofNat 8 a.code
    ∧ s.readRun (slotBase k + 4) 2 = halfBytes tag ∧ s.readRun (slotBase k + 6) 2 = leBytes 2 a.detail
    ∧ s.readRun (slotBase k + 8) 8 = padTo 8 a.data
    ∧ ∀ ps, a.params = some ps → s.readRun (slotBase k + 16) 48 = padTo 48 ps

/-- An order is answered in its slot (R7, R8): the slot shows the answer and is the take position, and ORDER DONE is
pending if the notify flag was set. -/
def Answered (p : Post) (a : Answer) (t : State) : Prop :=
  t.shows p.slot p.tag a ∧ t.ord.takePos = p.slot ∧ (p.notify ≠ 0 → t.raised .orderDone)

/-- A long order is accepted (R9): its slot reads TAKEN, is in work with the notify flag and the tag read at the take, and
is the take position. -/
def TakenOn (p : Post) (s t : State) : Prop :=
  t.slotState p.slot = 2 ∧ t.ord.takePos = p.slot
    ∧ t.ord.inWork = s.ord.inWork ++ [⟨p.slot, notifySet p.notify, p.tag⟩]

/-- The command answers a next state in which its order is answered with `a` and `effect` holds. -/
def Answers (i : Instr) (p : Post) (s : State) (a : Answer) (effect : State → Prop) : Prop :=
  ∃ t, exec i s = .next t ∧ Answered p a t ∧ effect t

/-- The command answers a next state in which its long order is in work and `effect` holds. -/
def Accepts (i : Instr) (p : Post) (s : State) (effect : State → Prop) : Prop :=
  ∃ t, exec i s = .next t ∧ TakenOn p s t ∧ effect t

/-- The command answers a next state in which `effect` holds. -/
def Completes (i : Instr) (s : State) (effect : State → Prop) : Prop := ∃ t, exec i s = .next t ∧ effect t

/-- The order that a command posts, with its post (the order summary table of section 1.7). -/
def postedOrder : Instr → Option (Post × Order)
  | .unlockOrders p => some (p, .unlockOrders)
  | .stopAllWork p => some (p, .stopAllWork)
  | .defineDrive p q => some (p, .defineDrive q)
  | .defineZone p q => some (p, .defineZone q)
  | .bindStations p q => some (p, .bindStations q)
  | .defineGroup p q => some (p, .defineGroup q)
  | .defineText p q => some (p, .defineText q)
  | .setLoopTiming p x => some (p, .setLoopTiming x)
  | .setSetupProtection p x => some (p, .setSetupProtection x)
  | .lockSetup p => some (p, .lockSetup)
  | .placeZoneInService p x => some (p, .placeZoneInService x)
  | .takeZoneOutOfService p x => some (p, .takeZoneOutOfService x)
  | .forceDrain p x => some (p, .forceDrain x)
  | .holdDrive p x => some (p, .holdDrive x)
  | .releaseDrive p x => some (p, .releaseDrive x)
  | .setBufferCount p x y => some (p, .setBufferCount x y)
  | .resetPanelCounters p x => some (p, .resetPanelCounters x)
  | .raiseCall p x y => some (p, .raiseCall x y)
  | .answerCall p x y => some (p, .answerCall x y)
  | .clearCall p x y => some (p, .clearCall x y)
  | .setClock p x y => some (p, .setClock x y)
  | .defineShiftPlan p b => some (p, .defineShiftPlan b)
  | .loadShiftPlan p x => some (p, .loadShiftPlan x)
  | .startShiftNow p => some (p, .startShiftNow)
  | .endShift p => some (p, .endShift)
  | .collectPaceNotices p => some (p, .collectPaceNotices)
  | .defineBoard p q => some (p, .defineBoard q)
  | .enableBoard p x => some (p, .enableBoard x)
  | .disableBoard p x => some (p, .disableBoard x)
  | .resetBoard p x => some (p, .resetBoard x)
  | .setLinkTiming p x y => some (p, .setLinkTiming x y)
  | .refreshBoard p x => some (p, .refreshBoard x)
  | .defineBoardFields p q => some (p, .defineBoardFields q)
  | .savePlan p x b => some (p, .savePlan x b)
  | .erasePlan p x => some (p, .erasePlan x)
  | .saveSetup p x => some (p, .saveSetup x)
  | .setJournalNotice p x y => some (p, .setJournalNotice x y)
  | _ => none

/-! ### Journal entries -/

/-- The take count field stands as last adopted, the journal has room for `n` entries, and no gap is open: the next `n`
appends are written one after another (R155 to R157). -/
def State.hasRoom (s : State) (n : Nat) : Prop :=
  s.takeField = s.jrn.accepted ∧ s.unread + n ≤ 512 ∧ s.jrn.gap = 0

/-- The entries written between two states, in order (R155): the put count and the sequence number move on by their
number, and each stands in its row of the ring with its sequence number. -/
def Journaled (es : List Entry) (s t : State) : Prop :=
  t.jrn.put = s.jrn.put + BitVec.ofNat 32 es.length ∧ t.jrn.sequence = s.jrn.sequence + BitVec.ofNat 32 es.length
    ∧ ∀ i e, es[i]? = some e →
        t.readRun (journalBase (ringRow (s.jrn.put + BitVec.ofNat 32 i)).val) 16
          = entryBytes (s.jrn.sequence + BitVec.ofNat 32 i) e

/-! ### Shift edges -/

/-- The shift has just started on the plan `q` (R125): the plan is current, the shift RUNNING, the tally, the zone counts,
the downtime totals and every station's calls raised zero, every zone ON PACE, the start stamped. -/
def ShiftStarted (q : Plan) (t : State) : Prop :=
  t.shift.state = .running ∧ t.shift.current = some q ∧ t.shift.pending = none ∧ t.shift.shown = some q
    ∧ t.shift.sinceReset = true ∧ t.shift.elapsed = 0 ∧ t.shift.working = 0 ∧ t.shift.planCount = 0
    ∧ t.shift.actual = 0 ∧ t.shift.pace = none ∧ t.shift.unplanned = 0 ∧ t.shift.callsRaised = 0
    ∧ t.shift.closeReason = none ∧ t.shift.startTenths = t.tenths ∧ t.shift.startPart = t.partTime
    ∧ t.shift.startTime = (if t.shift.clock.isSet then some (t.shift.clock.second, t.shift.clock.day) else none)
    ∧ (∀ z : Fin 8, t.shift.zoneCount[z] = 0 ∧ t.shift.zoneBehind[z] = false)
    ∧ (∀ n : Fin 160, (t.calls.stations[n]).raisedShift = 0)
    ∧ ∀ z : Fin 8, t.attr.totals[z] = ZoneTotals.initial t.partTime

/-- The shift open in `u` has closed for a reason (R128): E, W, the plan count and the actual stand as of the close, every
zone is ON PACE, the NEXT plan is PENDING, and the tally is filed as the newest of at most eight history entries. -/
def ShiftClosed (reason : CloseReason) (u t : State) : Prop :=
  t.shift.state = (if u.shift.next.isSome then .pending else .idle) ∧ t.shift.current = none
    ∧ t.shift.pending = u.shift.next ∧ t.shift.next = none ∧ t.shift.closeReason = some reason
    ∧ t.shift.elapsed = u.shiftE ∧ t.shift.working = u.shiftW
    ∧ t.shift.planCount = min u.target (u.shiftW / u.takt) ∧ t.shift.actual = u.shift.actual
    ∧ (∀ z : Fin 8, t.shift.zoneBehind[z] = false)
    ∧ ∃ h, t.shift.history = (h :: u.shift.history).take 8 ∧ h.reason = reason ∧ h.elapsed = u.shiftE
        ∧ h.working = u.shiftW ∧ h.plan = min u.target (u.shiftW / u.takt) ∧ h.actual = u.shift.actual
        ∧ h.calls = u.shift.callsRaised ∧ h.pace = paceOf u.shift.actual u.shiftW u.takt

/-! ### Footprints -/

/-- The parts of the state that a footprint tells apart. `rendering` is the boards' content and stale sets, `boards` the
rest of the display links; `definitions` is the setup unit but for zone service. The queue of commands is in none: no
command changes it. -/
inductive Block where
  | time | part | key | feedback | orders | definitions | service | calls | alerts | loop | drives | buffers | display
  | attribution | shift | boards | rendering | journal | interrupts | store
  deriving DecidableEq, Repr

/-- A board without its rendered content and its stale set. -/
def Board.plain (b : Board) : Board := { b with content := Vector.replicate 32 Content.empty, stale := noneStale }

/-- Two states agree on a block. -/
def Block.same (s t : State) : Block → Prop
  | .time => t.ms = s.ms
  | .part => t.part = s.part ∧ t.resetKind = s.resetKind
  | .key => t.pins.key = s.pins.key
  | .feedback => t.pins.feedback = s.pins.feedback
  | .orders => t.ord = s.ord
  | .definitions => serviceOf t.setup s.setup = s.setup
  | .service =>
    t.setup.service = s.setup.service ∧ t.setup.drainSlot = s.setup.drainSlot ∧ t.setup.drainCalls = s.setup.drainCalls
  | .calls => t.calls = s.calls
  | .alerts => t.alerts = s.alerts
  | .loop => t.loop = s.loop
  | .drives => t.drv.drives = s.drv.drives
  | .buffers => t.drv.buffers = s.drv.buffers
  | .display => t.drv.display = s.drv.display
  | .attribution => t.attr = s.attr
  | .shift => t.shift = s.shift
  | .boards =>
    t.brd.links = s.brd.links ∧ t.brd.scale = s.brd.scale ∧ t.brd.refresh = s.brd.refresh
      ∧ t.brd.boards.map Board.plain = s.brd.boards.map Board.plain
  | .rendering => ∀ b : Fin 16,
      (t.brd.boards[b]).content = (s.brd.boards[b]).content ∧ (t.brd.boards[b]).stale = (s.brd.boards[b]).stale
  | .journal => t.jrn = s.jrn
  | .interrupts => t.irq = s.irq
  | .store => t.store = s.store

/-- What a command may change: blocks, rows with their change counts, and other ranges of the exchange memory (first
address, length). -/
structure Footprint where
  blocks : List Block
  rows   : List Row := []
  ranges : List (Nat × Nat) := []

/-- The bytes of a row that the part writes; the header is written around the take count (section 1.9). -/
def Row.ranges : Row → List (Nat × Nat)
  | .header => [(0x00, 0x10), (0x14, 0xEC)]
  | r => [(r.base, r.size)]

/-- Every byte that a footprint allows to be stored. -/
def Footprint.stores (f : Footprint) : List (Nat × Nat) := (f.rows.map Row.ranges).flatten ++ f.ranges

/-- The address lies in none of the ranges. -/
def outside (ranges : List (Nat × Nat)) (a : Nat) : Prop := ∀ r ∈ ranges, a < r.1 ∨ r.1 + r.2 ≤ a

/-- Nothing but the footprint has changed: every other block, every other row's change count, and every byte of the
exchange memory outside the bytes it may store. -/
def Footprint.bounds (f : Footprint) (s t : State) : Prop :=
  (∀ b, b ∉ f.blocks → b.same s t) ∧ (∀ r : Row, r ∉ f.rows → t.win.counts[r.index] = s.win.counts[r.index])
    ∧ (∀ a, outside f.stores a → t.readByte a = s.readByte a) ∧ t.pending = s.pending

/-! The tables, as rows of footprints. -/

def zoneRows : List Row := (List.finRange 8).map Row.zone
def driveRows : List Row := (List.finRange 8).map Row.drive
def bufferRows : List Row := (List.finRange 7).map Row.buffer
def groupRows : List Row := (List.finRange 24).map Row.group
def panelRows : List Row := (List.finRange 40).map Row.panel
def boardRows : List Row := (List.finRange 16).map Row.board
def stationRows : List Row := (List.finRange 160).map Row.station
def openRows : List Row := (List.finRange 8).map Row.openSlot
def historyRows : List Row := (List.finRange 64).map Row.history
def shiftHistoryRows : List Row := (List.finRange 8).map Row.shiftHistory

/-- A slot's 64 bytes; the 24 slots; a text entry; the journal (section 1.2). -/
def slotRange (k : Fin 24) : Nat × Nat := (slotBase k, 64)
def slotsRange : Nat × Nat := (0x0100, 0x600)
def textRange (t : Fin 64) : Nat × Nat := (textBase t, 16)
def journalRange : Nat × Nat := (0x7000, 0x2000)

/-- What closes an event: display statuses with their zone rows, rendering with its board rows (R102, R145). -/
def settled (f : Footprint) : Footprint :=
  { f with blocks := [.display, .rendering] ++ f.blocks, rows := zoneRows ++ boardRows ++ f.rows }

/-- What appending to the journal may change besides: the journal unit, JOURNAL, the header and the ring (R155, R158). -/
def journaling (f : Footprint) : Footprint :=
  { f with blocks := [.journal, .interrupts] ++ f.blocks, rows := .header :: f.rows, ranges := journalRange :: f.ranges }

/-- What the take of an order may change besides: its slot, the take position, the key reading, ORDER DONE. -/
def ordered (p : Post) (f : Footprint) : Footprint :=
  settled { f with blocks := [.key, .orders, .interrupts] ++ f.blocks, ranges := slotRange p.slot :: f.ranges }

/-- The row of the object that an operand byte names, if it names one. -/
def rowOf {n : Nat} (row : Fin n → Row) (b : Byte) : List Row := ((index? n b.toNat).map row).toList

/-- The footprint of each command; of the two resets, of start-up and of a scan nothing is claimed here. -/
def footprint : Instr → Option Footprint
  | .powerOnReset => none
  | .partReset _ => none
  | .orderHold _ => some { blocks := [.orders] }
  | .attention _ writes => some { blocks := [.orders], ranges := writes.map fun c => (c.1, 1) }
  | .causeWrite _ => some { blocks := [.interrupts] }
  | .maskWrite _ => some { blocks := [.interrupts] }
  | .registerWriteIgnored _ _ => some { blocks := [] }
  | .startUp => none
  | .scanTimerExpiry => some { blocks := [.time, .orders] }
  | .orderScan _ _ => none
  | .unlockOrders p => some (ordered p (journaling { blocks := [] }))
  | .stopAllWork p => some (ordered p (journaling
      { blocks := [.service, .drives, .attribution, .boards, .store], rows := driveRows ++ openRows, ranges := [slotsRange] }))
  | .defineDrive p q => some (ordered p { blocks := [.definitions, .drives], rows := rowOf Row.drive q.drive })
  | .defineZone p _ => some (ordered p (journaling
      { blocks := [.definitions, .calls, .loop, .drives, .buffers, .attribution, .shift],
        rows := stationRows ++ bufferRows ++ panelRows ++ driveRows ++ openRows }))
  | .bindStations p q => some (ordered p
      { blocks := [.definitions], rows := (stationRun q.first.toNat q.count.toNat).map Row.station })
  | .defineGroup p q => some (ordered p { blocks := [.definitions], rows := rowOf Row.group q.group })
  | .defineText p q => some (ordered p
      { blocks := [.definitions], ranges := ((index? 64 q.entry.toNat).map textRange).toList })
  | .setLoopTiming p _ => some (ordered p { blocks := [.loop] })
  | .setSetupProtection p _ => some (ordered p { blocks := [.definitions] })
  | .lockSetup p => some (ordered p (journaling { blocks := [.definitions] }))
  | .placeZoneInService p _ => some (ordered p (journaling
      { blocks := [.service, .drives, .attribution], rows := driveRows ++ openRows }))
  | .takeZoneOutOfService p _ => some (ordered p (journaling
      { blocks := [.service, .drives, .attribution], rows := driveRows ++ openRows ++ historyRows }))
  | .forceDrain p _ => some (ordered p (journaling
      { blocks := [.service, .calls, .alerts, .drives, .attribution],
        rows := stationRows ++ groupRows ++ driveRows ++ openRows ++ historyRows, ranges := [slotsRange] }))
  | .holdDrive p d => some (ordered p (journaling
      { blocks := [.drives, .attribution], rows := rowOf Row.drive d ++ rowOf Row.openSlot d }))
  | .releaseDrive p d => some (ordered p (journaling
      { blocks := [.drives, .attribution], rows := rowOf Row.drive d ++ rowOf Row.openSlot d }))
  | .setBufferCount p b _ => some (ordered p (journaling
      { blocks := [.buffers, .attribution], rows := rowOf Row.buffer b ++ openRows }))
  | .resetPanelCounters p _ => some (ordered p { blocks := [.loop], rows := panelRows })
  | .raiseCall p n _ => some (ordered p (journaling
      { blocks := [.calls, .alerts, .shift], rows := rowOf Row.station n ++ groupRows ++ driveRows ++ [.tally] }))
  | .answerCall p n _ => some (ordered p (journaling
      { blocks := [.calls, .alerts, .drives, .attribution],
        rows := rowOf Row.station n ++ groupRows ++ driveRows ++ openRows }))
  | .clearCall p n _ => some (ordered p (journaling
      { blocks := [.service, .calls, .alerts, .drives, .attribution],
        rows := rowOf Row.station n ++ groupRows ++ driveRows ++ openRows ++ historyRows, ranges := [slotsRange] }))
  | .setClock p _ _ => some (ordered p (journaling
      { blocks := [.shift, .calls, .attribution], rows := .tally :: stationRows ++ openRows ++ historyRows }))
  | .defineShiftPlan p _ => some (ordered p (journaling { blocks := [.shift], rows := [.tally] }))
  | .loadShiftPlan p _ => some (ordered p (journaling { blocks := [.shift], rows := [.tally] }))
  | .startShiftNow p => some (ordered p (journaling
      { blocks := [.shift, .calls, .attribution], rows := .tally :: stationRows ++ openRows ++ historyRows }))
  | .endShift p => some (ordered p (journaling
      { blocks := [.shift, .attribution],
        rows := [.tally, .paceLists] ++ openRows ++ historyRows ++ shiftHistoryRows }))
  | .collectPaceNotices p => some (ordered p { blocks := [.shift], rows := [.paceLists] })
  | .defineBoard p _ => some (ordered p { blocks := [.boards] })
  | .enableBoard p _ => some (ordered p (journaling { blocks := [.boards] }))
  | .disableBoard p _ => some (ordered p (journaling { blocks := [.boards], ranges := [slotsRange] }))
  | .resetBoard p _ => some (ordered p (journaling { blocks := [.boards] }))
  | .setLinkTiming p _ _ => some (ordered p { blocks := [.boards] })
  | .refreshBoard p _ => some (ordered p { blocks := [] })
  | .defineBoardFields p _ => some (ordered p { blocks := [.boards] })
  | .savePlan p _ _ => some (ordered p { blocks := [.store], rows := [.header] })
  | .erasePlan p _ => some (ordered p { blocks := [.store], rows := [.header] })
  | .saveSetup p _ => some (ordered p { blocks := [.store], rows := [.header] })
  | .setJournalNotice p _ _ => some (ordered p { blocks := [.journal], rows := [.header] })
  | .storeOperationEnd _ => some (journaling { blocks := [.time, .orders, .store], ranges := [slotsRange] })
  | .pollSend => some { blocks := [.loop] }
  | .lostPollDue _ => some { blocks := [.time, .loop] }
  | .panelAnswer _ => some (settled (journaling
      { blocks := [.orders, .service, .calls, .alerts, .loop, .drives, .attribution, .shift],
        rows := panelRows ++ stationRows ++ groupRows ++ driveRows ++ openRows ++ historyRows ++ [.tally],
        ranges := [slotsRange] }))
  | .responseTimeout => some (settled (journaling
      { blocks := [.time, .calls, .loop, .drives, .attribution], rows := panelRows ++ stationRows ++ driveRows ++ openRows }))
  | .escalationExpiry n _ => some (settled (journaling
      { blocks := [.calls, .alerts], rows := .station n :: groupRows }))
  | .advance d _ _ => some (settled (journaling
      { blocks := [.calls, .drives, .attribution], rows := [.drive d, .openSlot d] ++ stationRows }))
  | .marker d => some (settled (journaling
      { blocks := [.calls, .drives, .attribution], rows := [.drive d, .openSlot d] ++ stationRows }))
  | .runFeedbackChange d _ => some (settled (journaling
      { blocks := [.feedback, .drives, .attribution], rows := [.drive d, .openSlot d] ++ historyRows }))
  | .supervisionExpiry d => some (settled (journaling { blocks := [.time, .drives], rows := [.drive d] }))
  | .exitTransfer z => some (settled (journaling
      { blocks := [.shift, .buffers, .attribution],
        rows := [.tally, .paceLists] ++ (if h : z.val < 7 then [.buffer ⟨z.val, h⟩] else []) ++ openRows ++ historyRows
          ++ shiftHistoryRows }))
  | .bufferRelease k => some (settled (journaling
      { blocks := [.buffers, .attribution], rows := .buffer k :: openRows }))
  | .totalsSecond => some (settled { blocks := [.attribution], rows := openRows })
  | .clockAdvance => some (settled (journaling
      { blocks := [.time, .shift, .calls, .attribution], rows := .tally :: stationRows ++ openRows ++ historyRows }))
  | .breakBegin => some (settled (journaling
      { blocks := [.time, .shift, .attribution], rows := .tally :: openRows }))
  | .breakEnd => some (settled (journaling
      { blocks := [.time, .shift, .attribution], rows := .tally :: openRows }))
  | .plannedEnd => some (settled (journaling
      { blocks := [.time, .shift, .attribution],
        rows := [.tally, .paceLists] ++ openRows ++ historyRows ++ shiftHistoryRows }))
  | .overtimeLimit => some (settled (journaling
      { blocks := [.time, .shift, .attribution],
        rows := [.tally, .paceLists] ++ openRows ++ historyRows ++ shiftHistoryRows }))
  | .planRise => some (settled (journaling { blocks := [.time, .shift], rows := [.tally, .paceLists] }))
  | .linkChoose _ => some (journaling { blocks := [.boards, .rendering], rows := boardRows })
  | .boardReply _ _ => some (journaling
      { blocks := [.orders, .boards, .rendering], rows := boardRows, ranges := [slotsRange] })
  | .linkWaitExpiry _ => some (journaling { blocks := [.time, .boards, .rendering], rows := boardRows })
  | .resetWaitExpiry _ => some (journaling
      { blocks := [.time, .orders, .boards, .rendering], rows := boardRows, ranges := [slotsRange] })
  | .probeDue _ => some { blocks := [.time, .boards] }
  | .refreshTimerExpiry b => some { blocks := [.time, .boards, .rendering], rows := [.board b] }
  | .renderSecond => some { blocks := [.rendering], rows := boardRows }
  | .takeCountRead writes => some (journaling { blocks := [], ranges := writes.map fun c => (c.1, 1) })
  | .ageTimerExpiry => some { blocks := [.journal, .interrupts] }
  | .tallySecond => some (settled { blocks := [.shift], rows := [.tally] })

end Sys2Proof.Machine
end

