-- ==== Sys2Proof/Certificates/Slice0/Obligations.lean ====
section
/-! DEFINITION. The statements for the provers: what the manual's rules say each command does, the invariants that every
step keeps, and what each command leaves unchanged. -/

open Sys2Proof Sys2Proof.Machine

/-- A step carries out the command at the front of the queue. For every command c and state s whose queue is c
followed by rest, step answers exactly what exec of c answers on s with the queue rest. -/
def Obligations.StepRunsTheFrontCommand : Prop :=
  ∀ (c : Instr) (rest : List Instr) (s : State), s.pending = c :: rest → step s = exec c { s with pending := rest }

/-- On an empty queue one millisecond passes (the model's choice, log 4). On an empty queue the step answers a next
state that differs only in the millisecond count, raised by one, and in the queue, which receives the events that
have fallen due (the model's choice, log entry 4: the table has no row for the passing of time). The phase of the
periodic events among them is the model's choice too, log entry 35. -/
def Obligations.EmptyQueueLetsTimePass : Prop :=
  ∀ s : State, s.pending = [] →
    ∃ t, step s = .next t ∧ t = { s with ms := s.ms + 1, pending := dueEvents { s with ms := s.ms + 1 } }

/-- What the registers, the memory and the timing settings read right after a power-on reset. In State.reset PART
CONTROL reads zero (STARTING, READY, hold off, no long order in work), CAUSE and MASK read zero, every byte of the
exchange memory reads zero, the take position is slot 24, the loop scale 4, the link scale 5, the refresh period 10
s, the journal notice 1 entry and 500 ms, the next sequence number 1, and every zone is OUT OF SERVICE. That an
unlisted byte reads as a cleared one is log entry 18. -/
def Obligations.ResetStateReadsAsTheManualSays : Prop :=
  let s := State.reset
  s.readRegister 0x04 = 0 ∧ s.readRegister 0x0C = 0 ∧ s.readRegister 0x10 = 0 ∧ (∀ a, s.readByte a = 0)
    ∧ num s.ord.takePos = 24 ∧ s.loop.scale = 4 ∧ s.brd.scale = 5 ∧ s.brd.refresh = 10 ∧ s.jrn.threshold = 1
    ∧ s.jrn.ageLimit = 500 ∧ s.jrn.sequence = 1 ∧ s.irq.line = false
    ∧ ∀ z : Fin 8, s.setup.service[z] = .outOfService

/-- The invariants that every step keeps hold right after a power-on reset. In State.reset the memory is canonical,
the interrupt line follows the causes and the mask, each drive's stop request is asserted exactly when its demand
set is not empty, the journal counts agree, and no zone stands twice in the pace notice lists. -/
def Obligations.InvariantsHoldAtReset : Prop :=
  State.reset.canonical ∧ State.reset.lineFollows ∧ State.reset.stopsFollow ∧ State.reset.journalCounts
    ∧ State.reset.noticesOnce

/-- Every step keeps the exchange memory in its canonical form, and so inside its 0x9000 bytes. From every state
whose memory is canonical (addresses strictly rising, no zero byte listed, every address below 0x9000), whatever
command stands in front, a step that answers a next state answers one whose memory is canonical. -/
def Obligations.EveryStepKeepsTheMemoryCanonical : Prop :=
  ∀ s t : State, s.canonical → step s = .next t → t.canonical

/-- The interrupt line follows its causes, and no zone stands twice in the pace notice lists. From every state in
which the interrupt line is asserted exactly while a pending cause is in the mask, every step that answers a next
state answers one in which it is so again. From every state in which no zone number appears twice in the BEHIND and
RECOVERED lists taken together, every step that answers a next state answers such a state. -/
def Obligations.EveryStepKeepsTheInterruptLineAndNotices : Prop :=
  (∀ s t : State, s.lineFollows → step s = .next t → t.lineFollows)
  ∧ (∀ s t : State, s.noticesOnce → step s = .next t → t.noticesOnce)

/-- A drive's stop request stays asserted exactly when its demand set is not empty. From every state in which each
drive's stop request is asserted exactly when its demand set is non-empty, every step that answers a next state
answers one in which it is so again: crossings, answers, clears, HOLD and RELEASE DRIVE, panel loss and recovery,
zone service changes, definitions and resets. -/
def Obligations.EveryStepKeepsStopRequestsWithDemands : Prop :=
  ∀ s t : State, s.stopsFollow → step s = .next t → t.stopsFollow

/-- The unread count never exceeds 512, and the sequence number keeps one ahead of the put count. From every state
whose unread count is at most 512 and whose next sequence number is the put count plus one, every step that answers
a next state answers such a state, whatever the line computer writes into the take count field. -/
def Obligations.EveryStepKeepsTheJournalCounts : Prop :=
  ∀ s t : State, s.journalCounts → step s = .next t → t.journalCounts

/-- Under lockdown only a power-on reset opens the setup, and only the two resets and start-up change a definition.
While the lockdown flag is set, every command but POWER_ON_RESET keeps it set; and every command but the two resets
and start-up leaves every drive, zone, station, group and text definition, the protection mode, the two scales, the
refresh period and every board's definition and field entries as they are. -/
def Obligations.LockdownHoldsUntilPowerOn : Prop :=
  ∀ (i : Instr) (s t : State), s.setup.lockdown = true → exec i s = .next t → i ≠ .powerOnReset →
    t.setup.lockdown = true
    ∧ (i ≠ .startUp → (∀ w, i ≠ .partReset w) →
        t.setup.drives = s.setup.drives ∧ t.setup.zones = s.setup.zones ∧ t.setup.bindings = s.setup.bindings
        ∧ t.setup.ladders = s.setup.ladders ∧ t.setup.texts = s.setup.texts ∧ t.setup.keyed = s.setup.keyed
        ∧ t.loop.scale = s.loop.scale ∧ t.brd.scale = s.brd.scale ∧ t.brd.refresh = s.brd.refresh
        ∧ ∀ b : Fin 16, (t.brd.boards[b]).definition = (s.brd.boards[b]).definition
            ∧ (t.brd.boards[b]).entries = (s.brd.boards[b]).entries)

/-- A command stops only where its term is no command of its row (the model's choice, log 27). A command whose term
is well formed answers a next state in every state. Of the others: a window write outside 0x0000 to 0x8FFF faults,
and a PART CONTROL write of the other row, a write to an offset that is not ignored and an advance of no counts are
refused by name (the model's choice, log entry 27). -/
def Obligations.CommandsStopOnlyOutsideTheirRow : Prop :=
  (∀ (i : Instr) (s : State), i.wellFormed = true → ∃ t, exec i s = .next t)
  ∧ (∀ (w : RegWrite) (s : State), w.partResetBit = false → exec (.partReset w) s = .refused .illFormed)
  ∧ (∀ (w : RegWrite) (s : State), w.partResetBit = true → exec (.orderHold w) s = .refused .illFormed)
  ∧ (∀ (o : Nat) (w : RegWrite) (s : State), ignoredOffset o = false →
      exec (.registerWriteIgnored o w) s = .refused .illFormed)
  ∧ (∀ (d : Fin 8) (x : Direction) (s : State), exec (.advance d 0 x) s = .refused .illFormed)
  ∧ (∀ (w : RegWrite) (l : List Host.Cell) (s : State), insideWindow l = false →
      exec (.attention w l) s = .fault .outsideWindow)
  ∧ (∀ (k : KeyReading) (l : List Host.Cell) (s : State), insideWindow l = false →
      exec (.orderScan k l) s = .fault .outsideWindow)
  ∧ (∀ (l : List Host.Cell) (s : State), insideWindow l = false → exec (.takeCountRead l) s = .fault .outsideWindow)

/-- IDENT is fixed, writes to it are ignored, and a narrower write acts as a full one. A read of IDENT gives vendor
0x5A31, part 0x24, revision 1 and size 9 in every state, so no reset and no write changes it; a write to IDENT
leaves the state as it is; ATTENTION reads zero; and a narrower write to PART CONTROL, CAUSE or MASK acts as the
full write whose unwritten bytes are zero, while any write to ATTENTION acts as a write to ATTENTION. (R1.) -/
def Obligations.IdentIsFixedAndNarrowWritesAreFull : Prop :=
  (∀ s : State, (s.readRegister 0x00).extractLsb' 0 16 = 0x5A31#16 ∧ (s.readRegister 0x00).extractLsb' 16 8 = 0x24#8
      ∧ (s.readRegister 0x00).extractLsb' 24 4 = 1#4 ∧ (s.readRegister 0x00).extractLsb' 28 4 = 9#4
      ∧ s.readRegister 0x08 = 0)
  ∧ (∀ (o : Nat) (w : RegWrite) (s : State), o < 4 → exec (.registerWriteIgnored o w) s = .next s)
  ∧ (∀ (w : RegWrite) (i : Fin 32), w.full[i] = (w.value[i] && w.enables.getLsbD (i.val / 8)))
  ∧ (∀ (w : RegWrite) (s : State), exec (.partReset w) s = exec (.partReset ⟨w.full, 15⟩) s
      ∧ exec (.orderHold w) s = exec (.orderHold ⟨w.full, 15⟩) s
      ∧ exec (.causeWrite w) s = exec (.causeWrite ⟨w.full, 15⟩) s
      ∧ exec (.maskWrite w) s = exec (.maskWrite ⟨w.full, 15⟩) s)
  ∧ (∀ (v w : RegWrite) (l : List Host.Cell) (s : State), exec (.attention v l) s = exec (.attention w l) s)

/-- CAUSE and MASK: what reads return, what writes do, and that resets empty both. CAUSE and MASK each read as five
bits with bits 31 to 5 zero; CAUSE_WRITE completes, removes exactly the causes whose bit is written as 1 and leaves
the mask; MASK_WRITE completes, replaces the mask by the written set and leaves the causes; neither changes any
block but the interrupts or any byte of memory; and both resets leave both sets empty. (R4.) -/
def Obligations.CauseAndMaskFollowTheirWrites : Prop :=
  (∀ (s : State) (i : Fin 32), (s.readRegister 0x0C)[i] = (if h : i.val < 5 then s.irq.cause[i.val] else false)
      ∧ (s.readRegister 0x10)[i] = (if h : i.val < 5 then s.irq.mask[i.val] else false))
  ∧ (∀ (w : RegWrite) (s : State), Completes (.causeWrite w) s fun t =>
      (∀ i : Fin 5, t.irq.cause[i] = (s.irq.cause[i] && !w.full.getLsbD i.val)) ∧ t.irq.mask = s.irq.mask
      ∧ ({ blocks := [.interrupts] } : Footprint).bounds s t)
  ∧ (∀ (w : RegWrite) (s : State), Completes (.maskWrite w) s fun t =>
      (∀ i : Fin 5, t.irq.mask[i] = w.full.getLsbD i.val) ∧ t.irq.cause = s.irq.cause
      ∧ ({ blocks := [.interrupts] } : Footprint).bounds s t)
  ∧ (∀ s : State, Completes .powerOnReset s fun t => t.irq.cause = 0 ∧ t.irq.mask = 0)
  ∧ (∀ (w : RegWrite) (s : State), w.partResetBit = true →
      Completes (.partReset w) s fun t => t.irq.cause = 0 ∧ t.irq.mask = 0)

/-- ATTENTION: discarded, beginning a scan, or marking one further scan. ATTENTION, after the line computer's window
writes, completes. While STARTING or held it changes nothing more. Otherwise, with no scan in progress a scan
begins; with one in progress one further scan is marked, and a second ATTENTION then changes nothing more; and the
scan that is carried out leaves in progress exactly the further scan that was marked, with no mark. (R3. The model's
choices: the window writes that come with ATTENTION and ORDER_SCAN, log entry 2; that ORDER_SCAN carries a scan out
whole, log entry 13.) -/
def Obligations.AttentionRequestsAScan : Prop :=
  (∀ (w : RegWrite) (l : List Host.Cell) (s : State), insideWindow l = true → Completes (.attention w l) s fun t =>
      (s.part = .starting ∨ s.ord.hold = true → t = hostWrites l s)
      ∧ (s.part = .running → s.ord.hold = false → s.ord.scanning = false →
          t = { hostWrites l s with ord := { s.ord with scanning := true } })
      ∧ (s.part = .running → s.ord.hold = false → s.ord.scanning = true →
          t = { hostWrites l s with ord := { s.ord with further := true } } ∧ exec (.attention w []) t = .next t))
  ∧ (∀ (k : KeyReading) (l : List Host.Cell) (s : State), insideWindow l = true → s.part = .running →
      s.ord.hold = false → s.ord.scanning = true →
      Completes (.orderScan k l) s fun t => t.ord.scanning = s.ord.further ∧ t.ord.further = false)

/-- PART CONTROL's fields, a write of ORDER HOLD, and the offsets that read zero. PART CONTROL shows the part state
in bit 0, the order-unit state in bit 1, the intake hold in bit 2 and (for up to 24) the long orders in work in bits
12 to 8. A write with bit 31 clear completes: one that leaves the hold as it was changes nothing; one that turns it
on ends the scan in progress, clears its further mark and, as at the end of every scan, starts the 50 ms timer; one
that turns it off while RUNNING begins a scan and starts the 50 ms timer. Every offset from 0x14 to 0x1F of the
register window reads as zero in every state, and REGISTER_WRITE_IGNORED at such an offset answers the same state.
-/
def Obligations.PartControlAndUnassignedOffsets : Prop :=
  ((∀ s : State, s.ord.inWork.length ≤ 24 →
      (s.readRegister 0x04).getLsbD 0 = decide (s.part = .running) ∧ (s.readRegister 0x04).getLsbD 1 = s.ord.locked
      ∧ (s.readRegister 0x04).getLsbD 2 = s.ord.hold
      ∧ ((s.readRegister 0x04).extractLsb' 8 5).toNat = s.ord.inWork.length)
  ∧ ∀ (w : RegWrite) (s : State), w.partResetBit = false → Completes (.orderHold w) s fun t =>
      (w.full.getLsbD 0 = s.ord.hold → t = s)
      ∧ (w.full.getLsbD 0 = true → s.ord.hold = false →
          t = { s with ord := { s.ord with
                hold := true, scanning := false, further := false,
                scanDue := if s.ord.scanning then some (s.ms + 50) else s.ord.scanDue } })
      ∧ (w.full.getLsbD 0 = false → s.ord.hold = true → s.part = .starting →
          t = { s with ord := { s.ord with hold := false } })
      ∧ (w.full.getLsbD 0 = false → s.ord.hold = true → s.part = .running →
          t = { s with ord := { s.ord with hold := false, scanning := true, scanDue := some (s.ms + 50) } }))
  ∧ (∀ (o : Nat) (w : RegWrite) (s : State), 0x14 ≤ o → o ≤ 0x1F →
    s.readRegister o = 0 ∧ exec (.registerWriteIgnored o w) s = .next s)

/-- A power-on reset leaves the reset state, but for the pins, the store's places and the waiting commands.
POWER_ON_RESET completes in every state, in the state State.reset with the input pins, the plan store's seventeen
places and the waiting commands of before; a store operation in work is cut and leaves its place as it stands; every
byte of the exchange memory reads zero. The model's choices: what the pins and the store hold at power-on (log entry
8), the queue that stands (log entry 24) and what a cut place holds (log entry 30). -/
def Obligations.PowerOnResetClearsThePart : Prop :=
  ∀ s : State, Completes .powerOnReset s fun t =>
    t = { State.reset with pins := s.pins, store := { s.store with op := none }, pending := s.pending }
    ∧ ∀ a, t.readByte a = 0

/-- What a part reset clears and what it keeps. PART_RESET completes for every write with bit 31 set. PART CONTROL
then reads zero, the order unit, the calls, the alert outputs, the panels, the drives and the boards hold their
reset values, the setup is undefined with the lockdown flag kept, the shift is IDLE with the clock and the shift
history kept, no record is open, the order slots and the unassigned ranges read zero, the take count field stands,
part time goes on, and the store's places stand with no operation in work. With no record and no shift open, the put
count and the stoppage history stand too. The input pins are the model's log entry 8, a cut place log entry 30. -/
def Obligations.PartResetKeepsWhatTheManualKeeps : Prop :=
  ∀ (w : RegWrite) (s : State), w.partResetBit = true → Completes (.partReset w) s fun t =>
    t.readRegister 0x04 = 0 ∧ t.ord = OrderUnit.initial ∧ t.calls = CallTable.initial ∧ t.loop = CallLoop.initial
    ∧ t.drv = DriveUnit.initial ∧ t.brd = Boards.initial ∧ t.alerts = Vector.replicate 8 0
    ∧ t.setup = { Setup.initial with lockdown := s.setup.lockdown }
    ∧ t.shift = { Shift.initial with clock := s.shift.clock, history := s.shift.history }
    ∧ (∀ d : Fin 8, t.attr.slots[d] = .unused) ∧ t.ms = s.ms ∧ t.pins = s.pins
    ∧ t.store = { s.store with op := none } ∧ t.jrn.lastBad = none ∧ t.jrn.threshold = 1 ∧ t.jrn.ageLimit = 500
    ∧ t.irq = ⟨0, 0, false⟩
    ∧ (∀ a, 0x0100 ≤ a ∧ a < 0x0700 ∨ 0x0D70 ≤ a ∧ a < 0x0D80 ∨ 0x1AA0 ≤ a ∧ a < 0x1B00 ∨ 0x6A00 ≤ a ∧ a < 0x7000 →
        t.readByte a = 0)
    ∧ t.takeField = s.takeField
    ∧ (s.openDrives = [] → s.shiftOpen = false → t.jrn.put = s.jrn.put ∧ t.attr.history = s.attr.history
        ∧ ∀ a, 0x7000 ≤ a → t.readByte a = s.readByte a)

/-- Start-up scans the store, loads the setup, serves the auto zones, places the plan and becomes RUNNING. START_UP
completes in every state; while RUNNING it changes nothing. While STARTING it makes the part RUNNING, starts the 50
ms timer and begins a scan unless the hold is on; every place takes the state the scan finds (DAMAGED with the mark
of an operation, else by what is stored); the setup status follows the setup place. With a good unmarked image and
an IDLE shift, the definitions and the protection mode are the image's, each zone with auto-service on a defined
drive is IN SERVICE, and the plan of a VALID start-up place is PENDING. That start-up is one step and START_UP while
RUNNING changes nothing is the model's log entry 22, the mark of a scan begun log entry 13. -/
def Obligations.StartUpLoadsAndRuns : Prop :=
  ∀ s : State, Completes .startUp s fun t =>
    (s.part = .running → t = s)
    ∧ (s.part = .starting →
        t.part = .running ∧ t.ord.scanDue = some (s.ms + 50) ∧ (s.ord.hold = false → t.ord.scanning = true)
        ∧ (∀ i : Fin 16, (t.store.plans[i]).state
            = if (s.store.plans[i]).marked then .damaged
              else match (s.store.plans[i]).stored with
                | .erased => .empty
                | .good _ => .valid
                | .bad => .damaged)
        ∧ (t.setup.status = .loaded ↔ s.store.setup.marked = false ∧ ∃ g, s.store.setup.stored = .good g)
        ∧ (t.setup.status = .absent ↔ s.store.setup.marked = false ∧ s.store.setup.stored = .erased)
        ∧ (t.setup.status = .damaged → t.raised .fault)
        ∧ ∀ g, s.store.setup.marked = false → s.store.setup.stored = .good g →
            t.setup.drives = g.drives ∧ t.setup.zones = g.zones ∧ t.setup.bindings = g.bindings
            ∧ t.setup.ladders = g.ladders ∧ t.setup.texts = g.texts ∧ t.setup.keyed = g.keyed
            ∧ (∀ (z : Fin 8) (f : ZoneDef), g.zones[z] = some f → f.auto = true → (g.drives[f.drive]).isSome →
                t.setup.service[z] = .inService)
            ∧ (∀ b : Fin 16, (t.brd.boards[b]).definition = (g.boards[b]).definition
                ∧ ((g.boards[b]).definition.isSome → (g.boards[b]).enabled = true →
                    (t.brd.boards[b]).state = .searching))
            ∧ ∀ (i : Fin 16) (b : PlanBlock), s.shift.state = .idle → g.startPlace = num i →
                (s.store.plans[i]).marked = false → (s.store.plans[i]).stored = .good b →
                t.shift.state = .pending ∧ t.shift.pending = some ⟨b, num i⟩)

/-- Every order reads back from the kind byte and the parameter bytes it is posted with. For every order with every
value of every parameter, and whatever bytes follow in the parameter area, parseOrder of its code and its parameter
bytes gives that order; and its bytes fit the 48-byte parameter area. -/
def Obligations.OrdersDecodeFromTheBytesTheyPost : Prop :=
  ∀ (o : Order) (rest : List Byte), parseOrder o.code (o.params ++ rest) = some o ∧ o.params.length ≤ 48

/-- An order command is a scan's visit of the slot in which the line computer has posted the order. For every
command that posts an order and every state in which a scan may take from its slot (RUNNING, hold off, no long order
in work there), the command answers the state that a scan's visit of that slot gives on the state with the order's
kind, notify flag, post tag, parameters and POSTED written into the slot. That an order command posts its order and
a scan's visit of that slot takes it is the model's choice, log entry 1. -/
def Obligations.OrderCommandsAreTakesOfPostedSlots : Prop :=
  ∀ (i : Instr) (p : Post) (o : Order) (s : State), postedOrder i = some (p, o) → s.takes p.slot = true →
    exec i s = .next (visitSlot p.slot (postSlot p o s))

/-- While the part is STARTING or the hold is on, an order stays POSTED. While the part is STARTING or the intake
hold is on, every order command completes and leaves the order POSTED in its slot with its kind, its post tag and
its parameters, having changed nothing but that slot and the reading of the setup key. That an order command posts
its own order and sets the key reading, taken or not, is the model's choice, log entry 1. -/
def Obligations.UntakenOrdersStayPosted : Prop :=
  ∀ (i : Instr) (p : Post) (o : Order) (s : State), postedOrder i = some (p, o) → s.part = .starting ∨ s.ord.hold = true →
    Completes i s fun t =>
      t.slotState p.slot = 1 ∧ t.slotTag p.slot = p.tag ∧ t.slotNotify p.slot = notifySet p.notify
      ∧ parseOrder (t.slotKind p.slot) (t.slotParams p.slot) = some o
      ∧ ({ blocks := [.key], ranges := [slotRange p.slot] } : Footprint).bounds s t

/-- A LOCKED unit answers every known order but two with LOCKED and the lock reason. While the unit is LOCKED, the
visit of a POSTED slot whose kind is known and is neither UNLOCK ORDERS nor STOP ALL WORK answers it DONE with
LOCKED and the lock reason code in the detail, makes it the take position, raises ORDER DONE if its notify flag is
set, and changes nothing else: no owner's state, no lock record, no further-violation count. (R13.) -/
def Obligations.LockedUnitAnswersLocked : Prop :=
  ∀ (k : Fin 24) (o : Order) (s : State), s.slotInWork k = false → s.slotState k = 1 →
    parseOrder (s.slotKind k) (s.slotParams k) = some o → s.ord.locked = true → o ≠ .unlockOrders → o ≠ .stopAllWork →
    (visitSlot k s).shows k (s.slotTag k) (refuse 4 s.ord.lock.reason)
    ∧ (visitSlot k s).ord = { s.ord with takePos := k }
    ∧ (s.slotNotify k = true → (visitSlot k s).raised .orderDone)
    ∧ ({ blocks := [.orders, .interrupts], ranges := [slotRange k] } : Footprint).bounds s (visitSlot k s)

/-- An unknown order or a bad slot state locks a READY unit and is answered LOCKED. The visit of a slot that reads
POSTED with an unknown kind, or reads a value above 3, answers it DONE with LOCKED, the detail being 1 or the value
read. A READY unit becomes LOCKED with the reason, slot, kind and value in the lock record and the count 0, and
LOCKED is raised; a LOCKED unit keeps its record and raises the further-violation count by one, up to 65535. -/
def Obligations.ViolationsLockTheUnit : Prop :=
  ∀ (k : Fin 24) (s : State), s.slotInWork k = false →
    s.slotState k = 1 ∧ parseOrder (s.slotKind k) (s.slotParams k) = none ∨ 3 < (s.slotState k).toNat →
    let reason := if s.slotState k = 1 then 1 else 2
    let t := visitSlot k s
    t.shows k (s.slotTag k) (refuse 4 (if s.slotState k = 1 then 1 else (s.slotState k).toNat)) ∧ t.ord.takePos = k
    ∧ (s.ord.locked = false →
        t.ord.locked = true ∧ t.ord.lock = ⟨reason, num k, s.slotKind k, s.slotState k, 0⟩ ∧ t.raised .locked)
    ∧ (s.ord.locked = true →
        t.ord.lock = { s.ord.lock with further := min (s.ord.lock.further + 1) 65535 } ∧ t.jrn = s.jrn)

/-- Lockdown, or KEYED with the key at RUN, refuses every setup-changing order before any other check. Every setup-
changing order that is taken under lockdown, or in KEYED mode with the setup key at RUN, is answered SETUP PROTECTED
with detail 1 under lockdown and 2 otherwise and with the protection mode and the key reading in result data bytes 0
and 1, and nothing but the slot, the take position, the key reading, ORDER DONE and what closes every event changes.
-/
def Obligations.ProtectionRefusesSetupChanges : Prop :=
  ∀ (i : Instr) (p : Post) (o : Order) (s : State), postedOrder i = some (p, o) → o.setupChanging = true → s.ready p →
    ¬ s.unguarded p →
    Answers i p s
      (refuse 10 (if s.setup.lockdown then 1 else 2)
        [if s.setup.keyed then 1 else 0, if p.key = .edit then 1 else 0]) fun t =>
      (ordered p { blocks := [] }).bounds s t

/-- The scan timer begins a scan; a scan visits the 24 slots in rotating order, ends and restarts its timer. With
the scan timer running to the instant d, SCAN_TIMER_EXPIRY answers the state at d or later with the timer stopped
and a scan in progress if the part is RUNNING with the hold off; without a running timer it changes nothing. The
visit of a slot that is in work or reads EMPTY, TAKEN or DONE changes nothing. A scan in progress is carried out
over the state u that the window writes leave: it visits the 24 slots once each, from the slot after the take
position, slot 1 after slot 24, each visit on what the one before leaves, and ends with the further scan begun, its
mark cleared and the timer set to 50 ms on. So with every slot passed over it leaves u, ended; with only the slot at
the take position not passed over, visited last, what the visit of it leaves; with every slot but one reading EMPTY,
TAKEN or DONE, what the visit of that one leaves, wherever it stands; and with every slot but two doing so, what the
visit of the later one in the rotating order leaves of the earlier one's. The model's choices: the window writes
that come with ORDER_SCAN (log entry 2), the time of the expiry (log entry 3), and that ORDER_SCAN carries a scan
out whole (log entry 13). -/
def Obligations.ScansBeginVisitAndEnd : Prop :=

  ((∀ s : State, s.ord.scanDue = none → exec .scanTimerExpiry s = .next s)
    ∧ ∀ (s : State) (d : Nat), s.ord.scanDue = some d →
        exec .scanTimerExpiry s = .next { s with ms := max s.ms d, ord := { s.ord with
          scanDue := none, scanning := s.ord.scanning || (decide (s.part = .running) && !s.ord.hold) } })
  ∧ (∀ (k : Fin 24) (x : State),
      x.slotInWork k = true ∨ x.slotState k = 0 ∨ x.slotState k = 2 ∨ x.slotState k = 3 → visitSlot k x = x)
  ∧ (∀ (key : KeyReading) (l : List Host.Cell) (s : State), insideWindow l = true → s.part = .running →
    s.ord.hold = false → s.ord.scanning = true →
    let u := hostWrites l { s with pins := { s.pins with key := key } }
    let passed := fun k : Fin 24 => u.slotInWork k = true ∨ u.slotState k = 0 ∨ u.slotState k = 2 ∨ u.slotState k = 3
    let idle := fun k : Fin 24 => u.slotState k = 0 ∨ u.slotState k = 2 ∨ u.slotState k = 3
    let after := fun i : Fin 24 => s.ord.takePos + 1 + i
    let ended := fun x : State => { x with ord := { x.ord with
      scanning := x.ord.further, further := false, scanDue := some (x.ms + 50) } }
    exec (.orderScan key l) s = .next (ended ((List.finRange 24).foldl (fun x i => visitSlot (after i) x) u))
    ∧ ((∀ k, passed k) → exec (.orderScan key l) s = .next (ended u))
    ∧ ((∀ k, k ≠ s.ord.takePos → passed k) →
        exec (.orderScan key l) s = .next (ended (visitSlot s.ord.takePos u)))
    ∧ (∀ k, (∀ m, m ≠ k → idle m) → exec (.orderScan key l) s = .next (ended (visitSlot k u)))
    ∧ ∀ i j : Fin 24, i < j → (∀ m, m ≠ after i → m ≠ after j → idle m) →
        exec (.orderScan key l) s = .next (ended (visitSlot (after j) (visitSlot (after i) u))))


/-- UNLOCK ORDERS in READY, in LOCKED, and in LOCKED with long orders in work. UNLOCK ORDERS, taken, completes.
READY: DONE and nothing changes. LOCKED with no long order in work: the unit becomes READY, DONE with the further-
violation count in the detail, and ORDERS LOCKED with flags 0, subject the slot and detail A the lock reason is
appended. LOCKED with long orders in work: BUSY with their count, and the unit stays LOCKED. (R14.) -/
def Obligations.UnlockOrdersReleasesTheUnit : Prop :=
  ∀ (p : Post) (s : State), s.takes p.slot = true →
    (s.ord.locked = false → Answers (.unlockOrders p) p s (done 0 []) fun t =>
        t.ord = { s.ord with takePos := p.slot } ∧ (ordered p { blocks := [] }).bounds s t)
    ∧ (s.ord.locked = true → s.ord.inWork = [] → Answers (.unlockOrders p) p s (done s.ord.lock.further []) fun t =>
        t.ord = { s.ord with takePos := p.slot, locked := false }
        ∧ t.jrn = (log 0x41 0 (num p.slot) s.ord.lock.reason 0 s).jrn
        ∧ (s.hasRoom 1 → Journaled [⟨s.partTime, 0x41, 0, num p.slot, s.ord.lock.reason, 0⟩] s t))
    ∧ (s.ord.locked = true → s.ord.inWork ≠ [] →
        Answers (.unlockOrders p) p s (refuse 3 s.ord.inWork.length []) fun t =>
          t.ord = { s.ord with takePos := p.slot } ∧ t.jrn = s.jrn)

/-- STOP ALL WORK aborts every long order, answers their slots ABORTED and leaves the unit READY. STOP ALL WORK,
taken in READY or LOCKED, completes: it is answered DONE with the number of long orders that were in work, no slot
is in work afterwards and the unit is READY. With each slot in work once, every such slot that read TAKEN shows
ABORTED with its post tag, a zone draining for it is back IN SERVICE, a board resetting for it is in FAULT, and a
store operation's place is DAMAGED with the store READY. -/
def Obligations.StopAllWorkAbortsEveryLongOrder : Prop :=
  ∀ (p : Post) (s : State), s.takes p.slot = true →
    Answers (.stopAllWork p) p s (done s.ord.inWork.length []) fun t =>
      t.ord = { s.ord with takePos := p.slot, locked := false, inWork := [] }
      ∧ ((s.ord.inWork.map Work.slot).Nodup → ∀ w ∈ s.ord.inWork,
          (s.slotState w.slot = 2 → t.shows w.slot w.tag (refuse 9 0 []))
          ∧ (∀ z, s.drainOf w.slot = some z → t.setup.service[z] = .inService ∧ t.setup.drainSlot[z] = none)
          ∧ (∀ b, s.drainOf w.slot = none → s.resetOf w.slot = some b →
              (t.brd.boards[b]).state = .fault ∧ (t.brd.boards[b]).resetSlot = none)
          ∧ (∀ o, s.drainOf w.slot = none → s.resetOf w.slot = none → s.store.op = some o → o.slot = w.slot →
              t.store.op = none ∧ t.store.stateOf o.job = 2))

/-- DEFINE DRIVE, BIND STATIONS, DEFINE GROUP and DEFINE TEXT within their ranges take effect. DEFINE DRIVE, taken
past the protection check with every parameter in range and no zone of the drive in service, completes with DONE:
the drive has the new definition, pitch index, in-pitch count and reverse count 0, and keeps its demand set, its
request and all else; the other drives stand. BIND STATIONS, within its ranges and with no station of its run in a
working zone, completes with DONE: each station of the run takes the group and its name, the others keep theirs.
DEFINE GROUP, past the protection check, with every read entry in range and no open call of the group, completes
with DONE and replaces that group's ladder alone. DEFINE TEXT, past the protection check with all characters from
0x20 to 0x7E, completes with DONE, replaces that entry alone, and writes its 16 bytes in the text table as given. -/
def Obligations.DrivesStationsGroupsAndTextsAreDefined : Prop :=
  ((∀ (p : Post) (q : DriveParams) (s : State) (d : Fin 8), s.ready p → s.unguarded p →
    q.drive.toNat = num d → 64 ≤ q.pitch.toNat → q.pitch.toNat ≤ 60000 → q.notice.toNat < q.pitch.toNat →
    q.tolerance.toNat ≤ q.pitch.toNat / 4 → 1 ≤ q.response.toNat → q.response.toNat ≤ 60 → q.short.toNat ≤ 300 →
    (∀ z : Fin 8, s.zoneDrive z = some d → s.setup.service[z] = .outOfService) →
    Answers (.defineDrive p q) p s (done 0 []) fun t =>
      let f : DriveDef := ⟨q.pitch.toNat, q.notice.toNat, q.tolerance.toNat, q.response.toNat, q.short.toNat⟩
      t.setup = { s.setup with drives := s.setup.drives.set d.val (some f) }
      ∧ t.drive d = { s.drive d with pitch := 0, count := 0, reverse := 0 } ∧ ∀ e, e ≠ d → t.drive e = s.drive e)
  ∧ (∀ (p : Post) (q : BindParams) (s : State), s.ready p → s.unguarded p →
    1 ≤ q.first.toNat → 1 ≤ q.count.toNat → q.count.toNat ≤ 16 → q.first.toNat + q.count.toNat ≤ 161 →
    q.group.toNat ≤ 24 → (q.base = 0 ∨ q.base.toNat + q.count.toNat ≤ 65) →
    (∀ n : Fin 160, q.first.toNat ≤ num n → num n < q.first.toNat + q.count.toNat →
      ∀ z, s.stationZone n = some z → s.setup.service[z] = .outOfService) →
    Answers (.bindStations p q) p s (done 0 []) fun t => ∀ n : Fin 160,
      t.setup.bindings[n] =
        if q.first.toNat ≤ num n ∧ num n < q.first.toNat + q.count.toNat then
          ⟨q.group.toNat, if q.base = 0 then 0 else q.base.toNat + (num n - q.first.toNat)⟩
        else s.setup.bindings[n]))
  ∧ ((∀ (p : Post) (q : GroupParams) (s : State) (g : Fin 24), s.ready p → s.unguarded p →
    q.group.toNat = num g → q.count.toNat ≤ 3 →
    (∀ i : Fin 3, i.val < q.count.toNat → 5 ≤ (groupLevels q)[i].delay.toNat ∧ (groupLevels q)[i].delay.toNat ≤ 3600
      ∧ (groupLevels q)[i].output.toNat ≤ 8 ∧ (groupLevels q)[i].flash.toNat ≤ 1) →
    (∀ c ∈ s.openCalls, c.group ≠ num g) →
    Answers (.defineGroup p q) p s (done 0 []) fun t =>
      t.setup.ladders[g].count = q.count.toNat
      ∧ (∀ i : Fin 3, i.val < q.count.toNat → t.setup.ladders[g].levels[i]
          = ⟨(groupLevels q)[i].delay.toNat, (groupLevels q)[i].output.toNat, (groupLevels q)[i].flash == 1⟩)
      ∧ ∀ h : Fin 24, h ≠ g → t.setup.ladders[h] = s.setup.ladders[h])
  ∧ (∀ (p : Post) (q : TextParams) (s : State) (e : Fin 64), s.ready p → s.unguarded p → q.entry.toNat = num e →
    (∀ i : Fin 16, 0x20 ≤ q.chars[i].toNat ∧ q.chars[i].toNat ≤ 0x7E) →
    Answers (.defineText p q) p s (done 0 []) fun t =>
      t.setup = { s.setup with texts := s.setup.texts.set e.val q.chars }
      ∧ t.readRun (0x6600 + 16 * e.val) 16 = q.chars.toList))

/-- DEFINE ZONE defines or removes a zone with its consequences, and the checks it makes in their order. DEFINE ZONE
that passes its checks on a zone OUT OF SERVICE completes with DONE: the zone has the new values with its stop
policies resolved, no other setup value changes, the neighbouring buffers keep their counts cut to capacity where
they exist before and after and are 0 otherwise, and exactly the panels that serve a defined zone are fitted. With
drive 0, on a zone OUT OF SERVICE whose successor is undefined, it removes the definition and the zone is ON PACE.
Past the protection check, a zone number outside 1 to 8 is refused with RANGE, detail 1. With a drive other than 0
the checks are made in the order of R25: the drive at most 8 (detail 2); the station range from 1 to 160 with at
most 40 stations (3); no station in another defined zone (4, with the lowest such zone in the result data); the
capacity at most 30, and 0 for Z8 (5); the policies, extension, flags and name in range (6); Zk-1 defined (7), its
drive not higher (8), its capacity 0 exactly when the drive is the same (9); Zk+1's drive not lower (10), the new
capacity 0 exactly when the drive is the same (11). The first that fails refuses with RANGE and its detail; with
none failing, a zone not OUT OF SERVICE is refused with STATE and its service state code; a refused order changes no
setup. -/
def Obligations.ZonesAreDefinedAndRemoved : Prop :=
  (∀ (p : Post) (q : ZoneParams) (s : State) (z d : Fin 8), s.ready p → s.unguarded p → q.zone.toNat = num z →
    q.drive.toNat = num d → firstFailure (s.zoneChecks z q) = none → s.setup.service[z] = .outOfService →
    Answers (.defineZone p q) p s (done 0 []) fun t =>
      t.setup = { s.setup with zones := s.setup.zones.set z.val (some
        { drive := d, first := q.first.toNat, last := q.last.toNat, capacity := q.capacity.toNat,
          stopping := #v[q.assist.toNat ≠ 2, q.material.toNat = 1, q.quality.toNat ≠ 2, q.maint.toNat ≠ 2],
          extension := q.extension.toNat, ignoreLoss := q.lossPolicy == 1, auto := q.auto == 1, name := q.name.toNat }) }
      ∧ (∀ k : Fin 7, t.drv.buffers[k].count = if k ∈ buffersAt z then
          (if s.bufferExists k && t.bufferExists k then min (s.bufferCount k) (t.bufferCapacity k) else 0)
          else s.bufferCount k)
      ∧ ∀ b : Fin 40, (t.loop.panels[b]).state = .unfitted ↔ t.fitted b = false)
  ∧ (∀ (p : Post) (q : ZoneParams) (s : State) (z : Fin 8), s.ready p → s.unguarded p → q.zone.toNat = num z →
    q.drive = 0 → (zoneNext z).bind s.zone = none → s.setup.service[z] = .outOfService → (s.zone z).isSome →
    Answers (.defineZone p q) p s (done 0 []) fun t =>
      t.setup = { s.setup with zones := s.setup.zones.set z.val none } ∧ t.shift.zoneBehind[z] = false
      ∧ ∀ b : Fin 40, (t.loop.panels[b]).state = .unfitted ↔ t.fitted b = false)
  ∧ (∀ (p : Post) (q : ZoneParams) (s : State), s.ready p → s.unguarded p →
    (q.zone.toNat < 1 ∨ 8 < q.zone.toNat → Answers (.defineZone p q) p s (refuse 1 1 []) fun t => t.setup = s.setup)
    ∧ ∀ z : Fin 8, q.zone.toNat = num z → q.drive ≠ 0 →
      let first := q.first.toNat
      let last := q.last.toNat
      let drive := q.drive.toNat
      let overlaps := fun y : Fin 8 => y != z && ((s.zone y).any fun f => decide (first ≤ f.last ∧ f.first ≤ last))
      let previous := if h : 0 < z.val then s.zone ⟨z.val - 1, by omega⟩ else none
      let following := if h : z.val < 7 then s.zone ⟨z.val + 1, by omega⟩ else none
      let checks : List (Nat × Bool) :=
        [(2, decide (drive ≤ 8)),
          (3, decide (1 ≤ first ∧ first ≤ 160 ∧ first ≤ last ∧ last ≤ first + 39 ∧ last ≤ 160)),
          (4, (List.finRange 8).all fun y => !overlaps y),
          (5, decide (q.capacity.toNat ≤ 30 ∧ (num z = 8 → q.capacity = 0))),
          (6, decide (q.assist.toNat ≤ 2 ∧ q.material.toNat ≤ 2 ∧ q.quality.toNat ≤ 2 ∧ q.maint.toNat ≤ 2
            ∧ q.extension.toNat ≤ 3 ∧ q.lossPolicy.toNat ≤ 1 ∧ q.auto.toNat ≤ 1 ∧ q.name.toNat ≤ 64)),
          (7, decide (num z = 1) || previous.isSome),
          (8, previous.all fun f => decide (num f.drive ≤ drive)),
          (9, previous.all fun f => decide (drive = num f.drive) == decide (f.capacity = 0)),
          (10, following.all fun f => decide (drive ≤ num f.drive)),
          (11, following.all fun f => decide (drive = num f.drive) == decide (q.capacity = 0))]
      (∀ n, (checks.find? fun c => !c.2).map Prod.fst = some n →
        Answers (.defineZone p q) p s (refuse 1 n (if n = 4 then
          ((List.finRange 8).filter overlaps).head?.toList.map fun y => BitVec.ofNat 8 (num y) else [])) fun t =>
            t.setup = s.setup)
      ∧ ((∀ c ∈ checks, c.2 = true) → firstFailure (s.zoneChecks z q) = none
        ∧ (s.setup.service[z] ≠ .outOfService →
            Answers (.defineZone p q) p s (refuse 2 s.setup.service[z].code []) fun t => t.setup = s.setup)))

/-- SET LOOP TIMING, SET LINK TIMING, SET SETUP PROTECTION and LOCK SETUP. Past the protection check and within
range, SET LOOP TIMING, SET LINK TIMING and SET SETUP PROTECTION complete with DONE, take the new values, leave
waits and timers that run as they are, and carry the values of before in their result data; LOCK SETUP completes
with DONE, sets the lockdown flag and journals SETUP STATUS with subject 0 and detail A 4. -/
def Obligations.TimingAndProtectionOrdersTakeEffect : Prop :=
  (∀ (p : Post) (x : Byte) (s : State), s.ready p → s.unguarded p → 1 ≤ x.toNat → x.toNat ≤ 32 →
    Answers (.setLoopTiming p x) p s (done 0 [BitVec.ofNat 8 s.loop.scale]) fun t =>
      t.loop = { s.loop with scale := x.toNat })
  ∧ (∀ (p : Post) (x y : Byte) (s : State), s.ready p → s.unguarded p → 1 ≤ x.toNat → x.toNat ≤ 32 → 1 ≤ y.toNat →
    y.toNat ≤ 60 →
    Answers (.setLinkTiming p x y) p s (done 0 [BitVec.ofNat 8 s.brd.scale, BitVec.ofNat 8 s.brd.refresh]) fun t =>
      t.brd.scale = x.toNat ∧ t.brd.refresh = y.toNat ∧ t.brd.links = s.brd.links
      ∧ t.brd.boards.map Board.plain = s.brd.boards.map Board.plain)
  ∧ (∀ (p : Post) (x : Byte) (s : State), s.ready p → s.unguarded p → x.toNat ≤ 1 →
    Answers (.setSetupProtection p x) p s (done 0 [if s.setup.keyed then 1 else 0]) fun t =>
      t.setup = { s.setup with keyed := decide (x = 1) })
  ∧ (∀ (p : Post) (s : State), s.ready p → s.unguarded p →
    Answers (.lockSetup p) p s (done 0 []) fun t =>
      t.setup = { s.setup with lockdown := true }
      ∧ (s.hasRoom 1 → Journaled [⟨s.partTime, 0x43, 0, 0, 4, 0⟩] s t))

/-- PLACE ZONE IN SERVICE, TAKE ZONE OUT OF SERVICE and FORCE DRAIN. PLACE ZONE IN SERVICE on a defined zone whose
drive is defined completes: OUT OF SERVICE, it is answered DONE with detail 1, the zone is IN SERVICE, the other
zones stand, and under the HOLD policy each LOST panel that serves it has its PANEL entry in the drive's demand set;
already IN SERVICE, it is answered DONE with detail 0 and no zone's service changes. TAKE ZONE OUT OF SERVICE of a
defined zone IN SERVICE completes. With no open call it is answered DONE with detail 0 and the zone is OUT OF
SERVICE. With open calls the order is accepted: its slot is TAKEN and in work, and the zone is DRAINING with that
slot as its drain slot. In both cases the zone's PANEL entries have left its drive's demand set and every call
stands. FORCE DRAIN of a DRAINING zone whose active-call list is not empty and names open calls by their serials
completes: it is answered DONE with the number of calls in the list, each of them is closed, the list is empty, the
zone is OUT OF SERVICE with no drain slot, and the drain slot, where it is in work and reads TAKEN, shows DONE with
the number of calls open when the drain began and the part time. -/
def Obligations.ZoneServiceOrdersTakeEffect : Prop :=
  ((∀ (p : Post) (b : Byte) (s : State) (z : Fin 8) (f : ZoneDef), s.ready p → b.toNat = num z → s.zone z = some f →
    (s.setup.drives[f.drive]).isSome →
    (s.setup.service[z] = .outOfService → Answers (.placeZoneInService p b) p s (done 1 []) fun t =>
        t.setup.service[z] = .inService ∧ (∀ y : Fin 8, y ≠ z → t.setup.service[y] = s.setup.service[y])
        ∧ ∀ q : Fin 40, f.ignoreLoss = false → (s.loop.panels[q]).state = .lost → s.serves q z = true →
            (t.drive f.drive).demand.contains (.panel q z) = true)
    ∧ (s.setup.service[z] = .inService → Answers (.placeZoneInService p b) p s (done 0 []) fun t => t.setup = s.setup))
  ∧ (∀ (p : Post) (b : Byte) (s : State) (z : Fin 8) (f : ZoneDef), s.ready p → b.toNat = num z → s.zone z = some f →
    s.setup.service[z] = .inService →
    (s.calls.active[z] = [] → Answers (.takeZoneOutOfService p b) p s (done 0 []) fun t =>
        t.setup.service[z] = .outOfService ∧ t.setup.drainSlot[z] = none ∧ t.calls = s.calls
        ∧ (t.drive f.drive).demand = (s.drive f.drive).demand.filter (fun e => !isZoneOf z e)
        ∧ t.ord.inWork = s.ord.inWork)
    ∧ (s.calls.active[z] ≠ [] → Accepts (.takeZoneOutOfService p b) p s fun t =>
        t.setup.service[z] = .draining ∧ t.setup.drainSlot[z] = some p.slot
        ∧ t.setup.drainCalls[z] = s.calls.active[z].length ∧ t.calls = s.calls
        ∧ (t.drive f.drive).demand = (s.drive f.drive).demand.filter (fun e => !isZoneOf z e))))
  ∧ (∀ (p : Post) (b : Byte) (s : State) (z : Fin 8), s.ready p → b.toNat = num z → s.setup.service[z] = .draining →
    s.calls.active[z] ≠ [] → (∀ r ∈ s.calls.active[z], ∃ c, s.callAt r = some c ∧ c.serial = r.serial) →
    Answers (.forceDrain p b) p s (done s.calls.active[z].length []) fun t =>
      (∀ r ∈ s.calls.active[z], t.callAt r = none) ∧ t.calls.active[z] = []
      ∧ t.setup.service[z] = .outOfService ∧ t.setup.drainSlot[z] = none
      ∧ ∀ (k : Fin 24) (w : Work), s.setup.drainSlot[z] = some k →
          (s.ord.inWork.find? fun w => w.slot == k) = some w → s.slotState k = 2 →
          t.shows k w.tag (done s.setup.drainCalls[z] (wordBytes s.partTime)) ∧ t.slotInWork k = false)

/-- HOLD DRIVE adds HOLD and asserts the stop request, RELEASE DRIVE removes it and releases an emptied one. HOLD
DRIVE of a defined drive completes and carries the run feedback and the pitch index. A set that holds HOLD already
gives DONE with detail 1 and no drive changes. Otherwise it gives DONE with detail 0, HOLD joins the set, the stop
request is asserted if the set was empty and stands otherwise, and the other drives stand; with journal room and no
open record an empty set journals STOP REQUESTED with flags 2. RELEASE DRIVE of a drive 1 to 8 completes with the
number of entries left, at most 255, in result data byte 0. Without a HOLD it gives DONE with detail 1 and no drive
changes. With one it gives DONE with detail 0, HOLD alone leaves the set, the stop request is released if the set is
left empty and stands otherwise, and the other drives stand. -/
def Obligations.DrivesAreHeldAndReleased : Prop :=
  (∀ (p : Post) (b : Byte) (s : State) (d : Fin 8), s.ready p → b.toNat = num d → (s.setup.drives[d]).isSome →
    let data := [if (s.drive d).feedback = .stopped then 1 else 0] ++ halfBytes (s.drive d).pitch
    ((s.drive d).demand.contains .hold = true →
      Answers (.holdDrive p b) p s (done 1 data) fun t => t.drv.drives = s.drv.drives)
    ∧ ((s.drive d).demand.contains .hold = false → Answers (.holdDrive p b) p s (done 0 data) fun t =>
        (t.drive d).demand = (s.drive d).demand ++ [.hold]
        ∧ (t.drive d).stopRequest = ((s.drive d).demand.isEmpty || (s.drive d).stopRequest)
        ∧ (t.drive d).pitch = (s.drive d).pitch ∧ (t.drive d).count = (s.drive d).count
        ∧ (∀ e, e ≠ d → t.drive e = s.drive e)
        ∧ (s.hasRoom 1 → s.openRecord d = none → (s.drive d).demand = [] →
            Journaled [⟨s.partTime, 0x10, 2, num d, 0, (s.drive d).pitch.toNat⟩] s t)))
  ∧ (∀ (p : Post) (b : Byte) (s : State) (d : Fin 8), s.ready p → b.toNat = num d →
    let left := (s.drive d).demand.filter fun e => e != .hold
    let data := [BitVec.ofNat 8 (min left.length 255)]
    ((s.drive d).demand.contains .hold = false →
      Answers (.releaseDrive p b) p s (done 1 data) fun t => t.drv.drives = s.drv.drives)
    ∧ ((s.drive d).demand.contains .hold = true → Answers (.releaseDrive p b) p s (done 0 data) fun t =>
        (t.drive d).demand = left ∧ (t.drive d).stopRequest = (!left.isEmpty && (s.drive d).stopRequest)
        ∧ ∀ e, e ≠ d → t.drive e = s.drive e))

/-- SET BUFFER COUNT sets a count; a release lowers it or counts an underrun anomaly. SET BUFFER COUNT of a buffer 1
to 7: one that does not exist is refused with STATE, detail 0; a count above the capacity is refused with RANGE,
detail 2, and the capacity in result data byte 0; any other count is taken, answered DONE with the count of before,
and no anomaly count, no other buffer and no drive changes. BUFFER RELEASE completes in every state; while STARTING
or for a buffer that does not exist it changes nothing. A count above 0 falls by one; at 0 it stays, the underrun
anomaly count rises by one to at most 65535 and, with journal room, BUFFER ANOMALY with flags 2, detail A 0 and the
capacity is appended. The other buffers, every drive and the shift stand. -/
def Obligations.BufferCountsAreSetAndReleased : Prop :=
  (∀ (p : Post) (b x : Byte) (s : State) (k : Fin 7), s.ready p → b.toNat = num k →
    (s.bufferExists k = false →
      Answers (.setBufferCount p b x) p s (refuse 2 0 []) fun t => t.drv.buffers = s.drv.buffers)
    ∧ (s.bufferExists k = true → s.bufferCapacity k < x.toNat →
        Answers (.setBufferCount p b x) p s (refuse 1 2 [BitVec.ofNat 8 (s.bufferCapacity k)]) fun t =>
          t.drv.buffers = s.drv.buffers)
    ∧ (s.bufferExists k = true → x.toNat ≤ s.bufferCapacity k →
        Answers (.setBufferCount p b x) p s (done 0 [BitVec.ofNat 8 (s.bufferCount k)]) fun t =>
          t.drv.buffers = s.drv.buffers.set k.val { s.drv.buffers[k] with count := x.toNat }
          ∧ t.drv.drives = s.drv.drives))
  ∧ (∀ (k : Fin 7) (s : State), Completes (.bufferRelease k) s fun t =>
    (s.part = .starting ∨ s.bufferExists k = false → t = s)
    ∧ (s.part = .running → s.bufferExists k = true →
        let b := s.drv.buffers[k]
        t.drv.buffers = s.drv.buffers.set k.val
          (if 0 < b.count then { b with count := b.count - 1 }
           else { b with underruns := min (b.underruns + 1) 65535 })
        ∧ t.drv.drives = s.drv.drives ∧ t.shift = s.shift
        ∧ (b.count = 0 → s.hasRoom 1 → Journaled [⟨s.partTime, 0x18, 2, num k, 0, s.bufferCapacity k⟩] s t)))

/-- RESET PANEL COUNTERS zeroes the four counters of the panels it names, whatever the protection. RESET PANEL
COUNTERS, taken whatever the protection mode, the key and the lockdown flag, completes: 0 names all 40 panels and 1
to 40 one; each named panel in any state has polls answered, failed polls, address mismatches and events lost 0 and
all else as it was, its row is rewritten, a poll in progress goes on, and DONE carries the number of panels reset. A
value above 40 is refused with RANGE and changes no panel. (R52.) -/
def Obligations.ResetPanelCountersClearsFourCounters : Prop :=
  ∀ (p : Post) (b : Byte) (s : State), s.ready p →
    (40 < b.toNat → Answers (.resetPanelCounters p b) p s (refuse 1 0 []) fun t => t.loop = s.loop)
    ∧ (b.toNat ≤ 40 → Answers (.resetPanelCounters p b) p s (done (if b = 0 then 40 else 1) []) fun t =>
        (∀ q : Fin 40, t.loop.panels[q] = if b = 0 ∨ b.toNat = num q then
            { s.loop.panels[q] with answered := 0, failed := 0, mismatches := 0, eventsLost := 0 }
          else s.loop.panels[q])
        ∧ (∀ q : Fin 40, t.win.counts[(Row.panel q).index] = if b = 0 ∨ b.toNat = num q then
            s.win.counts[(Row.panel q).index] + 2 else s.win.counts[(Row.panel q).index])
        ∧ t.loop.poll = s.loop.poll ∧ t.loop.rotation = s.loop.rotation ∧ t.loop.scale = s.loop.scale)

/-- RAISE CALL opens a call, or repeats and climbs an open one. RAISE CALL of a kind not open at a station of an IN
SERVICE zone completes: it is answered DONE with detail 0, the serial, the stop status and the deadline; the station
has a RAISED call of origin ORDER with the next serial, the present part time, no repeats, level 0, the group's
first escalation time, and, in a zone that stops for the kind on a defined drive, a deadline of one pitch ahead or
two if fewer counts than the minimum notice remain; it stands last in the zone's list, and no other call changes.
RAISE CALL of a kind open at a station of an IN SERVICE zone completes: it is answered DONE with detail 1, the
call's serial, its stop status and its repeat count, raised by one up to 255. A RAISED call below its ladder's level
count climbs one level, its next escalation time counted from now by the next level's delay; an ANSWERED call and a
call at the top keep level and timer. Nothing else of the call and no other call changes. -/
def Obligations.RaiseCallOpensOrRepeats : Prop :=
  (∀ (p : Post) (b x : Byte) (s : State) (n : Fin 160) (k : Kind) (z : Fin 8), s.ready p → b.toNat = num n →
    x.toNat = k.code → s.stationZone n = some z → s.setup.service[z] = .inService → s.call n k = none →
    let ladder := s.ladder s.setup.bindings[n].group
    let stop := match s.zone z with
      | none => StopStatus.none
      | some f => match f.stopping[k.index], s.setup.drives[f.drive] with
        | true, some g =>
          let v := s.drive f.drive
          .armed (if g.notice ≤ g.pitch - v.count then v.pitch + 1 else v.pitch + 2)
        | _, _ => .none
    let c : Call :=
      { answered := false, origin := .order, serial := s.calls.nextSerial, raisedAt := s.partTime, answeredAt := none,
        repeats := 0, group := s.setup.bindings[n].group, level := 0,
        nextEscalation := if 1 ≤ ladder.count then some (s.tenths + 10 * ladder.levels[0].delay) else none, stop := stop }
    Answers (.raiseCall p b x) p s (done 0 (leBytes 4 s.calls.nextSerial ++ [BitVec.ofNat 8 stop.code]
        ++ match stop with
          | .armed D => halfBytes D
          | _ => [0, 0])) fun t =>
      t.call n k = some c ∧ t.calls.nextSerial = s.calls.nextSerial + 1
      ∧ t.calls.active[z] = s.calls.active[z] ++ [⟨n, k, s.calls.nextSerial⟩]
      ∧ (∀ m j, (m, j) ≠ (n, k) → t.call m j = s.call m j)
      ∧ t.shift.callsRaised = (if s.shiftOpen then min (s.shift.callsRaised + 1) 65535 else s.shift.callsRaised))
  ∧ (∀ (p : Post) (b x : Byte) (s : State) (n : Fin 160) (k : Kind) (z : Fin 8) (c : Call), s.ready p → b.toNat = num n →
    x.toNat = k.code → s.stationZone n = some z → s.setup.service[z] = .inService → s.call n k = some c →
    let repeats := min (c.repeats + 1) 255
    let ladder := s.ladder c.group
    Answers (.raiseCall p b x) p s
      (done 1 (leBytes 4 c.serial ++ [BitVec.ofNat 8 c.stop.code, BitVec.ofNat 8 repeats, 0])) fun t =>
      (c.answered = true ∨ ladder.count ≤ c.level → t.call n k = some { c with repeats := repeats })
      ∧ (c.answered = false → c.level < ladder.count → t.call n k = some { c with
          repeats := repeats, level := c.level + 1,
          nextEscalation := (ladder.level? (c.level + 2)).map fun l => s.tenths + 10 * l.delay })
      ∧ (∀ m j, (m, j) ≠ (n, k) → t.call m j = s.call m j) ∧ t.calls.active = s.calls.active
      ∧ t.calls.nextSerial = s.calls.nextSerial ∧ t.shift = s.shift)

/-- ANSWER CALL and CLEAR CALL on no call, a RAISED call and an ANSWERED call. ANSWER CALL of a station and kind
completes. With no such call it is refused with STATE, detail 1, and no call changes. A RAISED call becomes ANSWERED
at the present part time without a timer, its deadline moved as the zone's extension says (an ARMED one to the pitch
after the extension if that lies further ahead, a DUE one armed by an extension above 0, after which it has left the
demand set), and DONE with detail 0 carries the serial and the stop status after it. An ANSWERED call gives DONE
with detail 2 and nothing changes. The other calls stand. CLEAR CALL of a station and kind completes. With no such
call it is refused with STATE, detail 1, and no call changes. An open call of a station in a zone is removed from
its entry, from the zone's list and from its drive's demand set, the other calls stand, and DONE carries 1 for
RAISED or 2 for ANSWERED in the detail, the serial, and the tenths from raise to clear. -/
def Obligations.CallsAreAnsweredAndCleared : Prop :=
  (∀ (p : Post) (b x : Byte) (s : State) (n : Fin 160) (k : Kind), s.ready p → b.toNat = num n → x.toNat = k.code →
    (s.call n k = none → Answers (.answerCall p b x) p s (refuse 2 1 []) fun t => t.calls = s.calls)
    ∧ ∀ (c : Call) (z : Fin 8) (f : ZoneDef), s.call n k = some c → s.stationZone n = some z → s.zone z = some f →
      let v := s.drive f.drive
      let ahead := v.pitch + 1 + BitVec.ofNat 16 f.extension
      let stop := match c.stop with
        | .none => StopStatus.none
        | .armed D => .armed (if (D - v.pitch).toNat < (ahead - v.pitch).toNat then ahead else D)
        | .due at_ => if f.extension = 0 then .due at_ else .armed (v.pitch + BitVec.ofNat 16 f.extension)
      (c.answered = true → Answers (.answerCall p b x) p s
          (done 2 (leBytes 4 c.serial ++ [BitVec.ofNat 8 c.stop.code])) fun t => t.calls = s.calls ∧ t.jrn = s.jrn)
      ∧ (c.answered = false → Answers (.answerCall p b x) p s
          (done 0 (leBytes 4 c.serial ++ [BitVec.ofNat 8 stop.code])) fun t =>
          t.call n k = some { c with
            answered := true, answeredAt := some s.partTime, nextEscalation := none, stop := stop }
          ∧ (∀ m j, (m, j) ≠ (n, k) → t.call m j = s.call m j) ∧ t.calls.active = s.calls.active
          ∧ (∀ at_, c.stop = .due at_ → f.extension ≠ 0 →
              (t.drive f.drive).demand.contains (.call ⟨n, k, c.serial⟩) = false)))
  ∧ (∀ (p : Post) (b x : Byte) (s : State) (n : Fin 160) (k : Kind), s.ready p → b.toNat = num n → x.toNat = k.code →
    (s.call n k = none → Answers (.clearCall p b x) p s (refuse 2 1 []) fun t => t.calls = s.calls)
    ∧ ∀ (c : Call) (z : Fin 8), s.call n k = some c → s.stationZone n = some z →
      Answers (.clearCall p b x) p s (done (if c.answered then 2 else 1)
          (leBytes 4 c.serial ++ leBytes 4 (s.partTime - c.raisedAt).toNat)) fun t =>
        t.call n k = none ∧ (∀ m j, (m, j) ≠ (n, k) → t.call m j = s.call m j)
        ∧ t.calls.active[z] = s.calls.active[z].filter (fun r => r.serial != c.serial)
        ∧ ∀ d, s.zoneDrive z = some d → (t.drive d).demand.contains (.call ⟨n, k, c.serial⟩) = false)

/-- SET CLOCK sets the clock, CLOCK ADVANCE moves it one second on, and either may start the PENDING shift. SET
CLOCK with a second up to 86399 completes: the clock is set to the second and the day, its next advance one second
on, and the result data carry the clock of before. A shift not PENDING stays in its state, with detail 0; one
PENDING on a plan in whose start window the second lies starts, with detail 1, and one whose start window the second
does not lie in stays PENDING, with detail 0. CLOCK ADVANCE of a set clock completes at its instant: the second
rises by one, after 86399 to 0 with the day up by one to at most 65535; a PENDING shift whose start second it
reaches starts. An UNSET clock does not advance. The model's choices: the time of CLOCK ADVANCE's next state (log
entry 3), and that the next advance is counted from the millisecond of the take (log entry 33). -/
def Obligations.ClockIsSetAndAdvances : Prop :=
  (∀ (p : Post) (x : Word) (y : Half) (s : State), s.ready p → x.toNat ≤ 86399 →
    let c := s.shift.clock
    let data := leBytes 4 c.second ++ leBytes 2 c.day ++ [if c.isSet then 1 else 0]
    (s.shift.state ≠ .pending → Answers (.setClock p x y) p s (done 0 data) fun t =>
        t.shift = { s.shift with clock := ⟨true, x.toNat, y.toNat, s.ms + 1000⟩ })
    ∧ (∀ q, s.shift.state = .pending → s.shift.pending = some q →
        (x.toNat + 86400 - q.block.start.toNat) % 86400 < 60 * q.block.length.toNat →
        Answers (.setClock p x y) p s (done 1 data) fun t =>
          t.shift.clock = ⟨true, x.toNat, y.toNat, s.ms + 1000⟩ ∧ ShiftStarted q t)
    ∧ (∀ q, s.shift.state = .pending → s.shift.pending = some q →
        60 * q.block.length.toNat ≤ (x.toNat + 86400 - q.block.start.toNat) % 86400 →
        Answers (.setClock p x y) p s (done 0 data) fun t =>
          t.shift = { s.shift with clock := ⟨true, x.toNat, y.toNat, s.ms + 1000⟩ }))
  ∧ (∀ s : State, s.shift.clock.isSet = false → exec .clockAdvance s = .next s)
  ∧ (∀ s : State, s.shift.clock.isSet = true → Completes .clockAdvance s fun t =>
      let c := s.shift.clock
      let second := if c.second < 86399 then c.second + 1 else 0
      t.shift.clock = ⟨true, second, if c.second < 86399 then c.day else min (c.day + 1) 65535, c.nextAdvance + 1000⟩
      ∧ t.ms = max s.ms c.nextAdvance
      ∧ (s.shift.state ≠ .pending → t.shift.state = s.shift.state)
      ∧ ∀ q, s.shift.state = .pending → s.shift.pending = some q → q.block.start.toNat = second → ShiftStarted q t)

/-- DEFINE SHIFT PLAN and LOAD SHIFT PLAN place a plan as PENDING or NEXT, and the checks of a plan block. DEFINE
SHIFT PLAN of a block within its ranges, and LOAD SHIFT PLAN of a VALID place, complete with DONE: outside a shift
the plan is PENDING, with detail 0, in an open shift it is NEXT, with detail 1; its source is inline or the place;
result data byte 0 says whether a plan was replaced; no other plan and no figure of the tally's counts changes.
DEFINE SHIFT PLAN of a block with a field out of range is refused with RANGE and the detail of the first such field
in the order of R123, and the shift stands: name text 0 to 64, break mode 0 or 1, break count 0 to 6, behind
threshold 1 to 50, start second to 86340 in whole minutes, length 60 to 720, takt 300 to 6000, target 1 to 2000,
overtime limit to 120, recovery delta 1 to the threshold, and each break i up to the count (detail 10 + i) with
length 1 to 60, offset at least 1, its end before the planned end and its offset after the end of the break before
it. A block with none out of range is valid. -/
def Obligations.PlansArePlacedByTheShiftState : Prop :=
  (∀ (p : Post) (s : State) (q : Plan) (i : Instr), s.ready p →
    (i = .defineShiftPlan p q.block ∧ planError q.block = none ∧ q.source = 0
      ∨ ∃ (b : Byte) (k : Fin 16), i = .loadShiftPlan p b ∧ b.toNat = num k ∧ (s.store.plans[k]).state = .valid
          ∧ (s.store.plans[k]).stored = .good q.block ∧ q.source = num k) →
    (s.shiftOpen = false → Answers i p s (done 0 [if s.shift.pending.isSome then 1 else 0]) fun t =>
        t.shift = { s.shift with pending := some q, state := .pending })
    ∧ (s.shiftOpen = true → Answers i p s (done 1 [if s.shift.next.isSome then 1 else 0]) fun t =>
        t.shift.next = some q ∧ t.shift.state = s.shift.state ∧ t.shift.pending = s.shift.pending
        ∧ t.shift.current = s.shift.current ∧ t.shift.actual = s.shift.actual ∧ t.shift.planCount = s.shift.planCount
        ∧ t.shift.zoneCount = s.shift.zoneCount))
  ∧ (∀ (p : Post) (b : PlanBlock) (s : State), s.ready p →
    let fits := fun i : Fin 6 =>
      let x := b.breaks[i]
      decide (1 ≤ x.length.toNat ∧ x.length.toNat ≤ 60 ∧ 1 ≤ x.offset.toNat
          ∧ x.offset.toNat + x.length.toNat < b.length.toNat)
        && if h : 0 < i.val then
            let y := b.breaks[i.val - 1]'(by omega)
            decide (y.offset.toNat + y.length.toNat < x.offset.toNat)
          else true
    let checks : List (Nat × Bool) :=
      [(1, decide (b.name.toNat ≤ 64)), (2, decide (b.mode.toNat ≤ 1)), (3, decide (b.count.toNat ≤ 6)),
        (4, decide (1 ≤ b.behind.toNat ∧ b.behind.toNat ≤ 50)),
        (5, decide (b.start.toNat ≤ 86340 ∧ b.start.toNat % 60 = 0)),
        (6, decide (60 ≤ b.length.toNat ∧ b.length.toNat ≤ 720)), (7, decide (300 ≤ b.takt.toNat ∧ b.takt.toNat ≤ 6000)),
        (8, decide (1 ≤ b.target.toNat ∧ b.target.toNat ≤ 2000)), (9, decide (b.overtime.toNat ≤ 120)),
        (10, decide (1 ≤ b.recovery.toNat ∧ b.recovery.toNat ≤ b.behind.toNat))]
      ++ ((List.finRange 6).filter fun i => decide (i.val < b.count.toNat)).map fun i => (11 + i.val, fits i)
    (∀ n, (checks.find? fun c => !c.2).map Prod.fst = some n →
        Answers (.defineShiftPlan p b) p s (refuse 1 n []) fun t => t.shift = s.shift)
    ∧ ((∀ c ∈ checks, c.2 = true) → planError b = none))

/-- START SHIFT NOW starts a PENDING shift; END SHIFT drops it or closes an open one. START SHIFT NOW in PENDING
completes with DONE whatever the clock: the PENDING plan is current, the shift RUNNING, the tally, the zone counts,
the downtime totals and every station's calls raised zero, every zone ON PACE, and the start stamped. In every other
state it is refused with STATE and the state code, and the shift stands. END SHIFT completes. In IDLE it is refused
with STATE, detail 0. In PENDING the plan is dropped, the shift is IDLE, and DONE carries detail 1. In an open shift
it closes with the reason END SHIFT, filed as the newest history entry, and DONE carries detail 0 with the actual
and the plan count at the close. -/
def Obligations.ShiftsStartAndEndByOrder : Prop :=
  (∀ (p : Post) (s : State), s.ready p →
    (∀ q, s.shift.state = .pending → s.shift.pending = some q →
      Answers (.startShiftNow p) p s (done 0 []) fun t =>
        ShiftStarted q t ∧ t.shift.next = s.shift.next ∧ t.shift.clock = s.shift.clock
        ∧ t.shift.behindList = s.shift.behindList ∧ t.shift.recovered = s.shift.recovered)
    ∧ (s.shift.state ≠ .pending →
        Answers (.startShiftNow p) p s (refuse 2 s.shift.state.code []) fun t => t.shift = s.shift))
  ∧ (∀ (p : Post) (s : State), s.ready p →
    (s.shift.state = .idle → Answers (.endShift p) p s (refuse 2 0 []) fun t => t.shift = s.shift)
    ∧ (s.shift.state = .pending → Answers (.endShift p) p s (done 1 []) fun t =>
        t.shift = { s.shift with pending := none, state := .idle })
    ∧ (s.shiftOpen = true → Answers (.endShift p) p s
        (done 0 (leBytes 2 s.shift.actual ++ leBytes 2 (min s.target (s.shiftW / s.takt)))) fun t =>
        ShiftClosed .endShift s t))

/-- COLLECT PACE NOTICES hands out both lists and empties them. COLLECT PACE NOTICES, taken in any shift state and
whatever the protection, completes with DONE: the detail holds the BEHIND list's length in its low byte and the
RECOVERED list's in its high byte, the parameter area holds the BEHIND zones and then the RECOVERED zones (plus 16
for SHIFT CLOSED) with zeros after them, both lists are empty, nothing else of the shift changes, and the area is
rewritten showing two empty lists; a crossing taken later is then the first entry of its list. (R134.) -/
def Obligations.CollectPaceNoticesEmptiesTheLists : Prop :=
  ∀ (p : Post) (s : State), s.ready p →
    Answers (.collectPaceNotices p) p s
      { code := 0, detail := s.shift.behindList.length + 256 * s.shift.recovered.length,
        params := some (s.shift.behindList.map (fun z => BitVec.ofNat 8 (z.val + 1))
          ++ s.shift.recovered.map fun e => BitVec.ofNat 8 (e.1.val + 1 + if e.2 then 16 else 0)) } fun t =>
      t.shift = { s.shift with behindList := [], recovered := [] }
      ∧ t.win.counts[Row.paceLists.index] = s.win.counts[Row.paceLists.index] + 2
      ∧ (∀ a, 2 ≤ a → a < 32 → t.readByte (0x1A80 + a) = 0)
      ∧ ∀ z : Fin 8, (crossPace true false z t).shift.behindList = [z]
          ∧ ∀ b, (crossPace false b z t).shift.recovered = [(z, b)]

/-- Breaks, the planned end and the overtime limit move the open shift between its states. BREAK BEGIN in RUNNING
with a break ahead completes at the break's offset: the shift is ON BREAK in the next break, W is as it stood, and
under BREAK FIRST every open record is charged to BREAK. BREAK END in ON BREAK completes at the break's end: the
shift is RUNNING, W is as it stood when the break began, and no open record is charged to BREAK. PLANNED END in
RUNNING completes at E = 600 times the length: with the actual at the target or no overtime limit the shift closes
with the reason planned end, otherwise it is in OVERTIME with its plan and counts as they stood. OVERTIME LIMIT in
OVERTIME completes at E = 600 times the length and the limit together and closes the shift with the reason overtime
limit. The time of the next state, and that an expiry moves the clock to its instant, is the model's choice, log
entry 3. -/
def Obligations.BreaksEndsAndLimitsMoveTheShift : Prop :=
  ((∀ (s : State) (b : BreakSpan), s.shift.state = .running → s.breakSpan s.shift.breaksBegun = some b →
    Completes .breakBegin s fun t =>
      let u := s.reach (s.instantOfE (600 * b.offset.toNat))
      t.ms = u.ms ∧ t.shift.state = .onBreak ∧ t.shift.breaksBegun = s.shift.breaksBegun + 1
      ∧ t.shift.elapsed = u.shiftE ∧ t.shift.working = u.shiftW ∧ t.shiftW = u.shiftW
      ∧ (s.breakFirst = true → ∀ d r, t.openRecord d = some r → r.charge = .onBreak))
  ∧ (∀ (s : State) (b : BreakSpan), s.shift.state = .onBreak → s.breakSpan (s.shift.breaksBegun - 1) = some b →
    Completes .breakEnd s fun t =>
      let u := s.reach (s.instantOfE (600 * (b.offset.toNat + b.length.toNat)))
      t.ms = u.ms ∧ t.shift.state = .running ∧ t.shift.elapsed = u.shiftE ∧ t.shift.working = u.shiftW
      ∧ (s.shift.breakFrom ≤ u.shiftE → t.shiftW = s.shift.breakFrom - s.shift.breakTaken)
      ∧ ∀ d r, t.openRecord d = some r → r.charge ≠ .onBreak))
  ∧ ((∀ (s : State) (q : Plan), s.shift.state = .running → s.shift.current = some q →
    Completes .plannedEnd s fun t =>
      let u := s.reach (s.instantOfE (600 * q.block.length.toNat))
      t.ms = u.ms
      ∧ (q.block.target.toNat ≤ s.shift.actual ∨ q.block.overtime = 0 → ShiftClosed .plannedEnd u t)
      ∧ (s.shift.actual < q.block.target.toNat → q.block.overtime ≠ 0 →
          t.shift.state = .overtime ∧ t.shift.current = s.shift.current ∧ t.shift.actual = s.shift.actual
          ∧ t.shift.planCount = s.shift.planCount ∧ t.shift.elapsed = u.shiftE ∧ t.shift.working = u.shiftW))
  ∧ (∀ (s : State) (q : Plan), s.shift.state = .overtime → s.shift.current = some q →
    Completes .overtimeLimit s fun t =>
      let u := s.reach (s.instantOfE (600 * (q.block.length.toNat + q.block.overtime.toNat)))
      t.ms = u.ms ∧ ShiftClosed .overtimeLimit u t))

/-- A rise of the plan count evaluates the zones; every second brings tally and totals up to date. PLAN RISE in
RUNNING or OVERTIME below the target completes when W reaches the next multiple of takt: the plan count rises by
one, and each defined zone ON PACE becomes BEHIND when its behind value is at least the threshold, each BEHIND zone
ON PACE when it is at most the threshold less the recovery delta, and no other; each list keeps its entries of zones
that do not cross, and behind them stand, last, the zones that cross to it, in ascending order; with a crossing the
cause PACE is pending. TALLY SECOND in an open shift completes with E, W and the pace as of the instant, the pace
absent below one takt of W and otherwise rounded half up to at most 1999, and all counts as they stood; with no open
shift it changes nothing. TOTALS SECOND completes: each zone of a drive with an open record in shift gains the
tenths since its last update in the category its charge gives, and in no other, its last update being the present
part time; every other zone stands. The time of the next state, and that an expiry moves the clock to its instant,
is the model's choice, log entry 3. -/
def Obligations.PlanRisesAndSecondsBringUpToDate : Prop :=
  (∀ (s : State) (q : Plan), s.shift.state = .running ∨ s.shift.state = .overtime → s.shift.current = some q →
    s.shift.planCount < q.block.target.toNat →
    Completes .planRise s fun t =>
      t.ms = max s.ms (s.instantOfE ((s.shift.planCount + 1) * q.block.takt.toNat + s.shift.breakTaken))
      ∧ t.shift.planCount = s.shift.planCount + 1 ∧ t.shift.state = s.shift.state ∧ t.shift.actual = s.shift.actual
      ∧ t.shift.zoneCount = s.shift.zoneCount
      ∧ (let fell := (List.finRange 8).filter fun z => !s.shift.zoneBehind[z] && t.shift.zoneBehind[z]
        let rose := (List.finRange 8).filter fun z => s.shift.zoneBehind[z] && !t.shift.zoneBehind[z]
        let stands := fun z => !fell.contains z && !rose.contains z
        t.shift.behindList = s.shift.behindList.filter stands ++ fell
        ∧ t.shift.recovered = s.shift.recovered.filter (fun e => stands e.1) ++ rose.map fun z => (z, false))
      ∧ ∀ z : Fin 8,
          let b : Int := (s.shift.planCount : Int) + 1 - (s.shift.zoneCount[z] : Int)
          let h : Int := q.block.behind.toNat
          let d : Int := q.block.recovery.toNat
          t.shift.zoneBehind[z] = (if (s.zone z).isNone then s.shift.zoneBehind[z]
            else if s.shift.zoneBehind[z] then decide (h - d < b) else decide (h ≤ b))
          ∧ (s.shift.zoneBehind[z] = false → t.shift.zoneBehind[z] = true →
              z ∈ t.shift.behindList ∧ z ∉ t.shift.recovered.map Prod.fst ∧ t.raised .pace)
          ∧ (s.shift.zoneBehind[z] = true → t.shift.zoneBehind[z] = false →
              (z, false) ∈ t.shift.recovered ∧ z ∉ t.shift.behindList ∧ t.raised .pace))
  ∧ ((∀ s : State, Completes .tallySecond s fun t =>
    (s.shiftOpen = false → t = s)
    ∧ (s.shiftOpen = true → t.shift.elapsed = s.shiftE ∧ t.shift.working = s.shiftW
        ∧ t.shift.pace = (if s.shiftW < s.takt ∨ s.shiftW = 0 then none
            else some (min ((s.shift.actual * s.takt * 1000 + s.shiftW / 2) / s.shiftW) 1999))
        ∧ t.shift.actual = s.shift.actual ∧ t.shift.planCount = s.shift.planCount
        ∧ t.shift.zoneCount = s.shift.zoneCount ∧ t.shift.state = s.shift.state))
  ∧ (∀ s : State, Completes .totalsSecond s fun t => ∀ z : Fin 8,
      ((∀ d r, s.zoneDrive z = some d → s.openRecord d = some r → r.outside = true) →
        t.attr.totals[z] = s.attr.totals[z])
      ∧ ∀ d r, s.zoneDrive z = some d → s.openRecord d = some r → r.outside = false →
          (t.attr.totals[z]).last = s.partTime ∧ (t.attr.totals[z]).stops = (s.attr.totals[z]).stops
          ∧ ∀ k : Fin 9, (t.attr.totals[z]).totals[k] = (s.attr.totals[z]).totals[k]
              + if s.chargedIn z = some k then (s.partTime - (s.attr.totals[z]).last).toNat else 0))

/-- An exit transfer counts its zone, the line's actual and its buffer. EXIT TRANSFER completes in every state;
while STARTING or for an undefined zone it changes nothing. In an open shift the zone count rises by one to at most
65535, with the actual if the zone is the last defined one, and a shift in OVERTIME whose actual reaches the target
closes with the reason target reached. With no open shift a transfer of the last defined zone raises the unplanned
count and no count else. An existing buffer after the zone rises by one below its capacity, and at it raises its
overrun anomaly count. -/
def Obligations.ExitTransfersAreCounted : Prop :=
  ∀ (z : Fin 8) (s : State), Completes (.exitTransfer z) s fun t =>
    (s.part = .starting ∨ s.zone z = none → t = s)
    ∧ (s.part = .running → (s.zone z).isSome →
        let last := s.lastZone == some z
        let actual := if last then min (s.shift.actual + 1) 65535 else s.shift.actual
        (s.shiftOpen = true → t.shift.actual = actual
          ∧ (∀ y : Fin 8, t.shift.zoneCount[y] =
              if y = z then min (s.shift.zoneCount[y] + 1) 65535 else s.shift.zoneCount[y])
          ∧ t.shift.unplanned = s.shift.unplanned
          ∧ (s.shift.state = .overtime → s.target ≤ actual → ShiftClosed .targetReached
              { s with shift := { s.shift with actual := actual, zoneCount := t.shift.zoneCount } } t)
          ∧ (s.shift.state ≠ .overtime ∨ actual < s.target → t.shift.state = s.shift.state))
        ∧ (s.shiftOpen = false → t.shift = { s.shift with
            unplanned := if last then min (s.shift.unplanned + 1) 65535 else s.shift.unplanned })
        ∧ ∀ k : Fin 7, t.drv.buffers[k] = (if k.val = z.val ∧ s.bufferExists k = true then
            (if s.bufferCount k < s.bufferCapacity k then
              { s.drv.buffers[k] with count := s.bufferCount k + 1 }
            else { s.drv.buffers[k] with overruns := min (s.drv.buffers[k].overruns + 1) 65535 })
          else s.drv.buffers[k]))

/-- DEFINE BOARD and DEFINE BOARD FIELDS within their ranges take effect. DEFINE BOARD, past the protection check
and within its ranges, of a DISABLED board whose address no other defined board of its link has, completes with
DONE: the board has the new definition, the entries of fields up to the field count are kept and the others dropped,
nothing is stale, and the other boards' definitions stand. DEFINE BOARD FIELDS of a defined board that passes its
checks completes with DONE and replaces exactly the entries it carries. -/
def Obligations.BoardsAndFieldsAreDefined : Prop :=
  (∀ (p : Post) (q : BoardParams) (s : State) (b : Fin 16) (l : Fin 2), s.ready p → s.unguarded p →
    q.board.toNat = num b → q.link.toNat = num l → 1 ≤ q.address.toNat → q.address.toNat ≤ 8 → q.mode.toNat ≤ 1 →
    1 ≤ q.fields.toNat → q.fields.toNat ≤ 32 → (s.brd.boards[b]).state = .disabled →
    (∀ (c : Fin 16) (d : BoardDef), c ≠ b → (s.brd.boards[c]).definition = some d → d.link = l →
      d.address ≠ q.address.toNat) →
    Answers (.defineBoard p q) p s (done 0 []) fun t =>
      (t.brd.boards[b]).definition = some ⟨l, q.address.toNat, decide (q.mode = 1), q.fields.toNat⟩
      ∧ (∀ f : Fin 32, (t.brd.boards[b]).entries[f] =
          if num f ≤ q.fields.toNat then (s.brd.boards[b]).entries[f] else none)
      ∧ (∀ f : Fin 32, (t.brd.boards[b]).stale[f] = false)
      ∧ ∀ c : Fin 16, c ≠ b → (t.brd.boards[c]).definition = (s.brd.boards[c]).definition)
  ∧ (∀ (p : Post) (q : FieldsParams) (s : State) (b : Fin 16) (d : BoardDef), s.ready p → s.unguarded p →
    q.board.toNat = num b → (s.brd.boards[b]).definition = some d → firstFailure (fieldsChecks d.fields q) = none →
    Answers (.defineBoardFields p q) p s (done 0 []) fun t =>
      (∀ (f : Fin 32) (i : Fin 5), i.val < q.count.toNat → num f = q.first.toNat + i.val →
        (t.brd.boards[b]).entries[f] = entryOf q.entries[i])
      ∧ (∀ f : Fin 32, num f < q.first.toNat ∨ q.first.toNat + q.count.toNat ≤ num f →
        (t.brd.boards[b]).entries[f] = (s.brd.boards[b]).entries[f])
      ∧ ∀ c : Fin 16, c ≠ b → (t.brd.boards[c]).entries = (s.brd.boards[c]).entries)

/-- ENABLE, DISABLE, REFRESH and RESET BOARD on a defined board. On a defined board: ENABLE BOARD completes with
DONE, taking a DISABLED board to SEARCHING with its probe due at once and detail 0, and changing no board of another
state with detail 1. DISABLE BOARD completes with DONE, detail 0, taking a board that is not DISABLED to DISABLED
with nothing stale, no timer and no frame outstanding, and, when it was RESETTING for a slot that still reads TAKEN,
that slot shows ABORTED. REFRESH BOARD of a board that is not DISABLED completes with DONE and every field stale.
RESET BOARD of a defined board in SEARCHING, ONLINE or FAULT is accepted: its slot is TAKEN and in work, the board
is RESETTING for that slot with its reset frame to be sent and its resets counter up by one to at most 65535, and no
frame to it is outstanding. Of a RESETTING board it is refused with BUSY and the reset slot in the detail. -/
def Obligations.BoardOrdersTakeEffect : Prop :=
  (∀ (p : Post) (x : Byte) (s : State) (b : Fin 16), s.ready p → x.toNat = num b →
    (s.brd.boards[b]).definition.isSome →
    ((s.brd.boards[b]).state = .disabled → Answers (.enableBoard p x) p s (done 0 []) fun t =>
        (t.brd.boards[b]).state = .searching ∧ (t.brd.boards[b]).probeDue = true)
    ∧ ((s.brd.boards[b]).state ≠ .disabled → Answers (.enableBoard p x) p s (done 1 []) fun t =>
        t.brd.boards.map Board.plain = s.brd.boards.map Board.plain)
    ∧ ((s.brd.boards[b]).state ≠ .disabled → Answers (.disableBoard p x) p s (done 0 []) fun t =>
        (t.brd.boards[b]).state = .disabled ∧ (∀ f : Fin 32, (t.brd.boards[b]).stale[f] = false)
        ∧ (t.brd.boards[b]).refreshAt = none ∧ (t.brd.boards[b]).probeAt = none
        ∧ (t.brd.boards[b]).definition = (s.brd.boards[b]).definition
        ∧ (∀ (l : Fin 2) (o : Outstanding), (t.brd.links[l]).frame = some o → o.board ≠ b)
        ∧ ∀ (k : Fin 24) (w : Work), (s.brd.boards[b]).state = .resetting → (s.brd.boards[b]).resetSlot = some k →
            (s.ord.inWork.find? fun w => w.slot == k) = some w → s.slotState k = 2 →
            t.shows k w.tag (refuse 9 0 []) ∧ t.slotInWork k = false)
    ∧ ((s.brd.boards[b]).state ≠ .disabled → Answers (.refreshBoard p x) p s (done 0 []) fun t =>
        ∀ f : Fin 32, (s.brd.boards[b]).inUse f = true → (t.brd.boards[b]).stale[f] = true))
  ∧ (∀ (p : Post) (x : Byte) (s : State) (b : Fin 16), s.ready p → x.toNat = num b →
    (s.brd.boards[b]).definition.isSome →
    ((s.brd.boards[b]).state ≠ .disabled → (s.brd.boards[b]).state ≠ .resetting →
      Accepts (.resetBoard p x) p s fun t =>
        (t.brd.boards[b]).state = .resetting ∧ (t.brd.boards[b]).resetSlot = some p.slot
        ∧ (t.brd.boards[b]).resetUnsent = true ∧ (t.brd.boards[b]).refreshAt = none
        ∧ (t.brd.boards[b]).resets = min ((s.brd.boards[b]).resets + 1) 65535
        ∧ ∀ (l : Fin 2) (o : Outstanding), (t.brd.links[l]).frame = some o → o.board ≠ b)
    ∧ (∀ k, (s.brd.boards[b]).state = .resetting → (s.brd.boards[b]).resetSlot = some k →
        Answers (.resetBoard p x) p s (refuse 3 (num k) []) fun t =>
          t.brd.boards.map Board.plain = s.brd.boards.map Board.plain))

/-- A free link sends an unsent reset frame first, else the next board with work its frame. LINK CHOOSE while
RUNNING on a link with no frame outstanding completes. An unsent reset of the link is sent, with a wait of 2 s.
Otherwise the next board with work after the rotation position is sent its frame, becomes the rotation position, and
an ANSWERING board's frame waits 10 ms times the link scale in its first attempt, a probe for a board that is not
ONLINE and up to eight stale fields with their content for one that is. Frames sent rises by one to at most 65535.
With a frame outstanding or nothing to send, the link changes nothing. That the link's waits run from the instant of
the choice is the model's choice, log entry 6. -/
def Obligations.LinksChooseAndSend : Prop :=
  ∀ (l : Fin 2) (s : State), Completes (.linkChoose l) s fun t =>
    (s.part = .starting ∨ (s.brd.links[l]).frame.isSome → t = s)
    ∧ (s.part = .running → (s.brd.links[l]).frame = none →
        (∀ b, s.unsentReset l = some b →
          (t.brd.links[l]).frame = some ⟨b, .reset, 1, s.ms + 2000⟩ ∧ (t.brd.boards[b]).resetUnsent = false
          ∧ (t.brd.boards[b]).sent = min ((s.brd.boards[b]).sent + 1) 65535)
        ∧ (∀ b, s.unsentReset l = none → s.nextOnLink l = some b →
            (t.brd.links[l]).rotation = b ∧ (t.brd.boards[b]).sent = min ((s.brd.boards[b]).sent + 1) 65535
            ∧ ∀ d, (s.brd.boards[b]).definition = some d → d.silent = false →
              (t.brd.links[l]).frame = some ⟨b,
                if (s.brd.boards[b]).state = .online then
                  .fields ((((List.finRange 32).filter fun f => (s.brd.boards[b]).stale[f]).take 8).map fun f =>
                    (f, (s.brd.boards[b]).content[f]))
                else .probe, 1, s.ms + 10 * s.brd.scale⟩)
        ∧ (s.unsentReset l = none → s.nextOnLink l = none → t.brd = s.brd))

/-- Replies and ended waits decide the attempts of field frames, probes and reset frames. BOARD REPLY with a frame
outstanding to a defined board completes. A field frame confirmed by address and check value frees the link and
takes off the stale set each field it carried whose content still equals the content sent. A confirmed probe, and a
ready mark to a reset frame, bring the board ONLINE with every field stale, the refresh timer started and the link
free. A wrong check value, or a wrong address except to a reset frame, raises its counter, and the next attempt
follows at once before the third. LINK WAIT EXPIRY of a field frame or a probe completes: the no-answer counter
rises, before the third attempt the next one is sent at once, after it a field frame's board enters FAULT with FAULT
pending and a probe's board stays, either with its next probe due 5 s later. RESET WAIT EXPIRY of a reset frame
completes: an ANSWERING board enters FAULT and its TAKEN slot shows NO ANSWER, a SILENT one is ONLINE and its slot
shows DONE; the link is free. The times of the next states (log entry 3) and the waits counted from the instant of
the attempt (log entry 6) are the model's choices. -/
def Obligations.RepliesAndWaitsEndFrames : Prop :=
  (∀ (l : Fin 2) (s : State) (o : Outstanding) (d : BoardDef), (s.brd.links[l]).frame = some o →
    (s.brd.boards[o.board]).definition = some d →
    let v := s.brd.boards[o.board]
    (∀ carried, o.kind = .fields carried → Completes (.boardReply l (.reply d.address (checkValue carried) false)) s fun t =>
      (t.brd.links[l]).frame = none
      ∧ ∀ f : Fin 32, (t.brd.boards[o.board]).stale[f] =
          (v.stale[f] && !(carried.any fun c => c.1 == f && c.2 == v.content[f])))
    ∧ (o.kind = .probe → Completes (.boardReply l (.reply d.address 0 false)) s fun t =>
        (t.brd.links[l]).frame = none ∧ (t.brd.boards[o.board]).state = .online
        ∧ (t.brd.boards[o.board]).refreshAt = some (s.ms + 1000 * s.brd.refresh)
        ∧ ∀ f : Fin 32, (t.brd.boards[o.board]).stale[f] = decide (num f ≤ d.fields))
    ∧ (o.kind = .reset → Completes (.boardReply l (.reply d.address 0 true)) s fun t =>
        (t.brd.links[l]).frame = none ∧ (t.brd.boards[o.board]).state = .online
        ∧ (t.brd.boards[o.board]).resetSlot = none
        ∧ (t.brd.boards[o.board]).refreshAt = some (s.ms + 1000 * s.brd.refresh)
        ∧ (∀ f : Fin 32, (t.brd.boards[o.board]).stale[f] = decide (num f ≤ d.fields))
        ∧ ∀ (k : Fin 24) (w : Work), v.resetSlot = some k → (s.ord.inWork.find? fun w => w.slot == k) = some w →
            s.slotState k = 2 → t.shows k w.tag (done 0 []))
    ∧ (o.kind ≠ .reset → o.attempt < 3 → ∀ c, c ≠ o.kind.expected →
        Completes (.boardReply l (.reply d.address c false)) s fun t =>
          (t.brd.boards[o.board]).checkBad = min (v.checkBad + 1) 65535
          ∧ (t.brd.links[l]).frame = some ⟨o.board, o.kind, o.attempt + 1, s.ms + 10 * s.brd.scale⟩)
    ∧ (o.kind ≠ .reset → o.attempt < 3 → ∀ a c, a ≠ d.address →
        Completes (.boardReply l (.reply a c false)) s fun t =>
          (t.brd.boards[o.board]).addressBad = min (v.addressBad + 1) 65535
          ∧ (t.brd.links[l]).frame = some ⟨o.board, o.kind, o.attempt + 1, s.ms + 10 * s.brd.scale⟩))
  ∧ (∀ (l : Fin 2) (s : State) (o : Outstanding) (d : BoardDef), (s.brd.links[l]).frame = some o →
    (s.brd.boards[o.board]).definition = some d →
    let v := s.brd.boards[o.board]
    let ms := max s.ms o.waitEnd
    (o.kind ≠ .reset → Completes (.linkWaitExpiry l) s fun t =>
      t.ms = ms ∧ (t.brd.boards[o.board]).noAnswer = min (v.noAnswer + 1) 65535
      ∧ (o.attempt < 3 → (t.brd.links[l]).frame = some ⟨o.board, o.kind, o.attempt + 1, ms + 10 * s.brd.scale⟩
          ∧ (t.brd.boards[o.board]).sent = min (v.sent + 1) 65535)
      ∧ (3 ≤ o.attempt → (t.brd.links[l]).frame = none ∧ (t.brd.boards[o.board]).probeAt = some (ms + 5000)
          ∧ (o.kind = .probe → (t.brd.boards[o.board]).state = v.state)
          ∧ (o.kind ≠ .probe → (t.brd.boards[o.board]).state = .fault ∧ t.raised .fault)))
    ∧ (o.kind = .reset → Completes (.resetWaitExpiry l) s fun t =>
        t.ms = ms ∧ (t.brd.links[l]).frame = none ∧ (t.brd.boards[o.board]).resetSlot = none
        ∧ (t.brd.boards[o.board]).state = (if d.silent then .online else .fault)
        ∧ (d.silent = false → (t.brd.boards[o.board]).noAnswer = min (v.noAnswer + 1) 65535
            ∧ (t.brd.boards[o.board]).probeAt = some (ms + 5000) ∧ t.raised .fault)
        ∧ ∀ (k : Fin 24) (w : Work), v.resetSlot = some k → (s.ord.inWork.find? fun w => w.slot == k) = some w →
            s.slotState k = 2 → t.shows k w.tag (if d.silent then done 0 [] else refuse 11 0 [])))

/-- A probe falls due, a refresh makes every field stale, the second's rendering, and what each source renders.
PROBE DUE with a probe timer running completes with the probe due and the timer stopped. REFRESH TIMER EXPIRY
completes with every field of the board stale and the timer started again for the period in force. RENDER SECOND
completes: every field in use of every defined board has its entry's rendering, blank without an entry, and a field
whose content changed is stale unless its board is DISABLED, in which case nothing of it is. A field's rendering is,
by its source: for a numeric source the value of R142's table, kept within what its digits and sign can show, with
OVER when that changes it; a dash in each position when absent, otherwise its digits right-aligned with at least one
before the point, blanks before them and the minus sign in the position left of the first; the point before the last
decimal places. OLDEST CALL AGE adds the name text of the station that heads the list, ZONE STATUS is the display
status and the zone's name, STATION STRIP one code per station, TEXT the entry; a name that is none, and an entry of
zero bytes, are blanks. FLASH needs the flag, and CALL STOP or the group's flash mark. The time of the next state,
and that an expiry moves the clock to its instant, is the model's choice, log entry 3. -/
def Obligations.BoardTimersAndRendering : Prop :=
  (∀ (b : Fin 16) (s : State) (x : Nat), (s.brd.boards[b]).probeAt = some x → Completes (.probeDue b) s fun t =>
    t.ms = max s.ms x ∧ (t.brd.boards[b]).probeDue = true ∧ (t.brd.boards[b]).probeAt = none)
  ∧ (∀ (b : Fin 16) (s : State) (x : Nat), (s.brd.boards[b]).refreshAt = some x →
    Completes (.refreshTimerExpiry b) s fun t =>
      t.ms = max s.ms x ∧ (t.brd.boards[b]).refreshAt = some (max s.ms x + 1000 * s.brd.refresh)
      ∧ ∀ f : Fin 32, (t.brd.boards[b]).stale[f] = (s.brd.boards[b]).inUse f)
  ∧ (∀ s : State, Completes .renderSecond s fun t => ∀ (b : Fin 16) (f : Fin 32) (d : BoardDef),
      (s.brd.boards[b]).definition = some d → num f ≤ d.fields →
      (t.brd.boards[b]).content[f] = (match (s.brd.boards[b]).entries[f] with
        | some e => s.render e
        | none => Content.empty)
      ∧ (t.brd.boards[b]).stale[f] = ((s.brd.boards[b]).state != .disabled
          && ((s.brd.boards[b]).stale[f] || (t.brd.boards[b]).content[f] != (s.brd.boards[b]).content[f])))
  ∧ (∀ (s : State) (e : FieldEntry),
    let blanks : List Byte := List.replicate 16 32
    let name := fun n : Nat => match index? 64 n with
      | some x => if s.setup.texts[x] = Vector.replicate 16 0 then blanks else s.setup.texts[x].toList
      | none => blanks
    let ofZone := fun (z : Fin 8) (v : Option Int) => if (s.zone z).isSome then v else none
    let since := fun v : Option Int => if s.shift.sinceReset then v else none
    let plan := s.shift.shown.map Plan.block
    let second := s.shift.clock.second
    let value : Option Int := match e.source with
      | .zoneCount z => ofZone z (some (s.shift.zoneCount[z] : Int))
      | .zoneDiff z => ofZone z (since (some ((s.shift.zoneCount[z] : Int) - (s.shift.planCount : Int))))
      | .zoneDowntime z => ofZone z (some ((s.attr.totals[z].totals.toList.sum / 600 : Nat) : Int))
      | .zonePace z => ofZone z (since (s.shift.zonePace[z].map Int.ofNat))
      | .oldestCallAge z => ofZone z ((s.calls.active[z].head?.bind s.callAt).map fun c =>
          (((s.partTime - c.raisedAt).toNat / 10 : Nat) : Int))
      | .lineActual => some (s.shift.actual : Int)
      | .linePlan => since (some (s.shift.planCount : Int))
      | .lineTarget => since (plan.map fun b => (b.target.toNat : Int))
      | .lineDiff => since (some ((s.shift.actual : Int) - (s.shift.planCount : Int)))
      | .linePace => since (s.shift.pace.map Int.ofNat)
      | .shiftRemaining => since (plan.map fun b => max 0 (-(((s.shift.working : Int) - 600 * ((b.length.toNat : Int)
          - (((b.breaks.toList.take b.count.toNat).map fun x => x.length.toNat).sum : Nat))) / 600)))
      | .clock => if s.shift.clock.isSet then some ((second / 3600 * 100 + second % 3600 / 60 : Nat) : Int) else none
      | .groupLevel g => some (s.groupHighest g : Int)
      | .groupWaiting g => some ((s.groupRaised g).length : Int)
      | _ => none
    let top : Int := 10 ^ e.digits - 1
    let bottom : Int := if e.signed then 1 - 10 ^ (e.digits - 1) else 0
    let shown := value.map fun v => min top (max bottom v)
    let position := fun i : Nat => match shown with
      | none => (45 : Byte)
      | some v =>
        let digit := fun j : Nat => j ≤ e.places ∨ 10 ^ j ≤ v.natAbs
        if digit i then BitVec.ofNat 8 (48 + v.natAbs / 10 ^ i % 10) else if v < 0 ∧ digit (i - 1) then 45 else 32
    let row := (List.range e.digits).map fun j => position (e.digits - 1 - j)
    let chars := row.take (e.digits - e.places) ++ (if e.places = 0 then [] else [46]) ++ row.drop (e.digits - e.places)
    let overMark := if value = shown then 0 else 1
    let flash := fun b : Bool => if e.flash = true ∧ b = true then 2 else 0
    let code := fun n : Fin 160 => match s.stationZone n with
      | none => (0 : Byte)
      | some z =>
        if s.setup.service[z] = .outOfService then 0
        else if (s.stationCalls n).any fun c => c.2.stop.code == 2 then 4
        else if (s.stationCalls n).any fun c => !c.2.answered then 3
        else if (s.stationCalls n).any fun c => c.2.answered then 2
        else 1
    s.render e = match e.source with
      | .zoneStatus z => match s.zone z with
        | some f => ⟨flash (s.drv.display[z] == .callStop), BitVec.ofNat 8 s.drv.display[z].code :: name f.name⟩
        | none => ⟨flash (s.drv.display[z] == .callStop), 0 :: blanks⟩
      | .stationStrip n c =>
        ⟨0, ((List.finRange 160).filter fun m => decide (n.val ≤ m.val ∧ m.val < n.val + c)).map code⟩
      | .text x => ⟨0, name (num x)⟩
      | .oldestCallAge z => ⟨overMark, chars ++ (match value, s.calls.active[z].head? with
          | some _, some r => name s.setup.bindings[r.station].name
          | _, _ => blanks)⟩
      | .groupLevel g => ⟨overMark + flash (s.groupFlash g), chars⟩
      | .groupWaiting g => ⟨overMark + flash (s.groupFlash g), chars⟩
      | _ => ⟨overMark, chars⟩)

/-- Store orders are accepted and mark their place; their end leaves it VALID, EMPTY or DAMAGED. With the store
READY, SAVE PLAN and ERASE PLAN of a place whose plan is not in use, and SAVE SETUP past the protection check,
within their ranges, are accepted: the slot is TAKEN and in work, the operation is in work until 120, 60 and 900 ms
from now, its place carries the mark of an operation and keeps its state and contents, every other place stands, and
SAVE SETUP works on a copy of the setup of that instant. STORE OPERATION END of the operation in work completes at
its end: the store is READY; a verified save leaves the place VALID with what was saved, a verified erase EMPTY, an
operation that did not verify DAMAGED with FAULT pending, and in every case without the mark; the places of the
other kind stand. Its slot, in work and reading TAKEN, shows DONE, or STORE FAILED, and is in work no more; with
journal room STORE DONE carries the operation, the place, the result and the place's state. The time of an end (log
entry 3) and what a place that did not verify holds (log entry 30) are the model's choices. -/
def Obligations.StoreOperationsAreAcceptedAndEnd : Prop :=
  (∀ (p : Post) (s : State), s.ready p → s.store.op = none →
    (∀ (b : Byte) (i : Fin 16) (q : PlanBlock), b.toNat = num i → planError q = none → s.inUse (num i) = false →
      Accepts (.savePlan p b q) p s fun t =>
        t.store = { s.store with
          plans := s.store.plans.set i.val { s.store.plans[i] with marked := true },
          op := some ⟨p.slot, .savePlan i q, s.ms + 120⟩ })
    ∧ (∀ (b : Byte) (i : Fin 16), b.toNat = num i → s.inUse (num i) = false →
      Accepts (.erasePlan p b) p s fun t =>
        t.store = { s.store with
          plans := s.store.plans.set i.val { s.store.plans[i] with marked := true },
          op := some ⟨p.slot, .erasePlan i, s.ms + 60⟩ })
    ∧ (∀ b : Byte, s.unguarded p → b.toNat ≤ 16 →
      Accepts (.saveSetup p b) p s fun t =>
        t.store = { s.store with
          setup := { s.store.setup with marked := true },
          op := some ⟨p.slot, .saveSetup (s.image b.toNat), s.ms + 900⟩ }))
  ∧ (∀ (v : Bool) (s : State) (o : StoreOp), s.store.op = some o → Completes (.storeOperationEnd v) s fun t =>
    t.ms = max s.ms o.endAt ∧ t.store.op = none
    ∧ (∀ i b, o.job = .savePlan i b → t.store.setup = s.store.setup
        ∧ t.store.plans = s.store.plans.set i.val (if v then ⟨.valid, .good b, false⟩ else ⟨.damaged, .bad, false⟩))
    ∧ (∀ i, o.job = .erasePlan i → t.store.setup = s.store.setup
        ∧ t.store.plans = s.store.plans.set i.val (if v then ⟨.empty, .erased, false⟩ else ⟨.damaged, .bad, false⟩))
    ∧ (∀ g, o.job = .saveSetup g → t.store.plans = s.store.plans
        ∧ t.store.setup = (if v then ⟨.valid, .good g, false⟩ else ⟨.damaged, .bad, false⟩))
    ∧ (v = false → t.raised .fault)
    ∧ ∀ w, (s.ord.inWork.find? fun w => w.slot == o.slot) = some w → s.slotState o.slot = 2 →
        t.shows o.slot w.tag (if v then done 0 [] else refuse 8 0 []) ∧ t.slotInWork o.slot = false
        ∧ (s.hasRoom 1 → Journaled [⟨t.partTime, 0x40, o.job.code, o.job.subject, if v then 0 else 8,
            t.store.stateOf o.job⟩] s t))

/-- The notice settings, the age timer and the reads of the take count. SET JOURNAL NOTICE within its ranges
completes with DONE and the settings of before in its data; the counts stand; with the threshold now met JOURNAL is
pending; the age timer is stopped with nothing unread, and otherwise runs to the write instant of the oldest unread
entry plus the new limit, or a full limit from now if that has passed. AGE TIMER EXPIRY without a timer, or before
its instant, changes nothing; from its instant on it completes: JOURNAL is pending if the threshold is met or the
oldest unread entry has waited for the limit, else no cause changes, and the timer runs a full limit again while
entries are unread. TAKE COUNT READ, after the line computer's window writes, completes and leaves the take count
field as written. A value not more than 512 behind the put count is adopted; with a gap open and fewer than 512
entries then unread one GAP entry with the gap count is written and the gap and the overflow mark are cleared, and
with no gap open nothing is written. Any other value leaves nothing unread up to the put count; with no gap open a
new bad value is remembered and one TAKE FAULT entry with it is written, the same value again writes nothing. The
model's choices: the window writes that come with the read (log entry 2), that an expiry whose timer has been set
again does nothing (log entry 3), and the entries of the journal unit itself (log entry 14). -/
def Obligations.JournalNoticesAndTakeCounts : Prop :=
  ((∀ (p : Post) (x y : Half) (s : State), s.ready p → 1 ≤ x.toNat → x.toNat ≤ 512 → 10 ≤ y.toNat → y.toNat ≤ 10000 →
    Answers (.setJournalNotice p x y) p s (done 0 (leBytes 2 s.jrn.threshold ++ leBytes 2 s.jrn.ageLimit)) fun t =>
      t.jrn.threshold = x.toNat ∧ t.jrn.ageLimit = y.toNat ∧ t.jrn.put = s.jrn.put ∧ t.jrn.sequence = s.jrn.sequence
      ∧ t.jrn.accepted = s.jrn.accepted ∧ t.jrn.gap = s.jrn.gap ∧ t.jrn.overflow = s.jrn.overflow
      ∧ t.jrn.lastBad = s.jrn.lastBad ∧ t.jrn.writtenAt = s.jrn.writtenAt
      ∧ (x.toNat ≤ s.unread → t.raised .journal)
      ∧ (s.unread = 0 → t.jrn.ageTimer = none)
      ∧ (0 < s.unread →
          let oldest := s.jrn.writtenAt[ringRow s.jrn.accepted] + y.toNat
          t.jrn.ageTimer = (if oldest ≤ s.ms then some (s.ms + y.toNat) else some oldest)
          ∧ (oldest ≤ s.ms → t.raised .journal)))
  ∧ (∀ s : State, s.jrn.ageTimer = none → exec .ageTimerExpiry s = .next s)
  ∧ (∀ (s : State) (x : Nat), s.jrn.ageTimer = some x → s.ms < x → exec .ageTimerExpiry s = .next s)
  ∧ (∀ (s : State) (x : Nat), s.jrn.ageTimer = some x → x ≤ s.ms → Completes .ageTimerExpiry s fun t =>
      let due := s.jrn.threshold ≤ s.unread
        ∨ 0 < s.unread ∧ s.jrn.writtenAt[ringRow s.jrn.accepted] + s.jrn.ageLimit ≤ t.ms
      t.ms = s.ms
      ∧ t.jrn = { s.jrn with ageTimer := if 0 < s.unread then some (t.ms + s.jrn.ageLimit) else none }
      ∧ (due → t.raised .journal) ∧ (¬ due → t.irq = s.irq)))
  ∧ (∀ (l : List Host.Cell) (s : State), insideWindow l = true → Completes (.takeCountRead l) s fun t =>
    let v := (hostWrites l s).takeField
    t.takeField = v
    ∧ ((s.jrn.put - v).toNat ≤ 512 →
        t.jrn.accepted = v ∧ t.jrn.lastBad = none
        ∧ (s.jrn.gap = 0 → t.jrn.put = s.jrn.put ∧ t.jrn.sequence = s.jrn.sequence)
        ∧ (0 < s.jrn.gap → (s.jrn.put - v).toNat < 512 →
            t.jrn.gap = 0 ∧ t.jrn.overflow = false
            ∧ Journaled [⟨s.partTime, 0x45, 0, 0, s.jrn.gap % 65536, s.jrn.gap / 65536 % 65536⟩] s t))
    ∧ (512 < (s.jrn.put - v).toNat → s.jrn.gap = 0 →
        t.jrn.accepted = s.jrn.put ∧ t.jrn.lastBad = some v
        ∧ (s.jrn.lastBad = some v → t.jrn.put = s.jrn.put ∧ t.jrn.sequence = s.jrn.sequence)
        ∧ (s.jrn.lastBad ≠ some v →
            Journaled [⟨s.partTime, 0x44, 0, 0, v.toNat % 65536, v.toNat / 65536 % 65536⟩] s t)))

/-- A free loop polls a due LOST panel first, else the next panel of the rotation. POLL SEND completes; while
STARTING, with a poll in progress, or with nothing to poll it changes nothing. Otherwise the lowest-numbered LOST
panel whose poll is due is polled, the rotation standing, or, with none, the next fitted panel that is not LOST,
which becomes the rotation position: the first attempt is sent with the lamps of that instant and waits 2 ms times
the loop scale. LOST POLL DUE of a LOST panel with its timer running completes with the poll due and the timer
stopped. The time of LOST POLL DUE's next state (log entry 3) and the response timeout counted from the choice (log
entry 6) are the model's choices. -/
def Obligations.PollsAreChosenAndSent : Prop :=
  (∀ s : State, Completes .pollSend s fun t =>
    (s.part = .starting ∨ s.loop.poll.isSome → t = s)
    ∧ (s.part = .running → s.loop.poll = none →
        (∀ q, s.lostDue = some q →
          t.loop.poll = some ⟨q, 1, s.lampsOf q, s.ms + 2 * s.loop.scale, false⟩ ∧ t.loop.rotation = s.loop.rotation
          ∧ t.loop.panels = s.loop.panels.set q.val { s.loop.panels[q] with due := false })
        ∧ (∀ q, s.lostDue = none → s.nextInRotation = some q →
          t.loop.poll = some ⟨q, 1, s.lampsOf q, s.ms + 2 * s.loop.scale, false⟩ ∧ t.loop.rotation = q
          ∧ t.loop.panels = s.loop.panels)
        ∧ (s.lostDue = none → s.nextInRotation = none → t = s)))
  ∧ (∀ (q : Fin 40) (s : State) (x : Nat), (s.loop.panels[q]).state = .lost → (s.loop.panels[q]).dueAt = some x →
      Completes (.lostPollDue q) s fun t =>
        t.ms = max s.ms x
        ∧ t.loop = { s.loop with panels := s.loop.panels.set q.val { s.loop.panels[q] with due := true, dueAt := none } })

/-- An accepted answer ends the poll, judges the panel and takes its events; a foreign address fails the attempt. A
well-formed answer from the polled panel completes the poll: polls answered rises to at most 65535, the failures in
a row are 0, the history takes the success, the lamps are the frame's, the panel is WEAK with two or more failures
in the history and ONLINE otherwise, and a panel that was LOST loses its panel-lost flags and every PANEL demand. An
event numbered L to L minus 7 is not taken again; one ahead of the next number raises events lost by the gap and is
taken, L becoming its number. A well-formed answer with another address counts a mismatch, and before the third
attempt the next one follows at once. That the next attempt's wait runs from the instant of the failure is the
model's choice, log entry 6. -/
def Obligations.PanelAnswersEndPolls : Prop :=
  ∀ (s : State) (q : Poll), s.loop.poll = some q → q.void = false →
    let v := s.loop.panels[q.panel]
    let h := (v.history ++ [false]).drop (v.history.length - 7)
    (∀ l : List PanelEvent, wellFormedAnswer l = true →
      Completes (.panelAnswer (.answer (num q.panel) false l)) s fun t =>
        let w := t.loop.panels[q.panel]
        t.loop.poll = none ∧ w.answered = min (v.answered + 1) 65535 ∧ w.failed = v.failed ∧ w.failures = 0
        ∧ w.history = h ∧ w.lamps = q.lamps ∧ w.state = (if 2 ≤ failuresIn h then .weak else .online)
        ∧ (v.state = .lost →
            (∀ n ∈ stationsOf q.panel, (t.calls.stations[n]).panelLost = false)
            ∧ ∀ (d z : Fin 8), (t.drive d).demand.contains (.panel q.panel z) = false)
        ∧ (l = [] → w.last = v.last ∧ w.base = v.base ∧ w.eventsLost = v.eventsLost ∧ t.calls.active = s.calls.active)
        ∧ ∀ e, l = [e] → v.base = true →
            ((v.last - e.number).toNat < 8 → w.last = v.last ∧ w.eventsLost = v.eventsLost
              ∧ t.calls.active = s.calls.active ∧ t.calls.nextSerial = s.calls.nextSerial)
            ∧ (8 ≤ (v.last - e.number).toNat → w.last = e.number
              ∧ w.eventsLost = if e.number = v.last + 1 then v.eventsLost
                  else min (v.eventsLost + (e.number - v.last - 1).toNat) 65535))
    ∧ (∀ (a : Nat) (x : Bool) (l : List PanelEvent), wellFormedAnswer l = true → a ≠ num q.panel → q.attempt < 3 →
      Completes (.panelAnswer (.answer a x l)) s fun t =>
        (t.loop.panels[q.panel]).mismatches = min (v.mismatches + 1) 65535
        ∧ t.loop.poll = some ⟨q.panel, q.attempt + 1, s.lampsOf q.panel, s.ms + 2 * s.loop.scale, false⟩
        ∧ t.calls = s.calls)

/-- A press taken from an answer opens a call, answers or clears the station's calls, or is counted as ignored. The
next event of a panel, taken from an accepted answer, acts at the station of its channel: with no zone, in a zone
OUT OF SERVICE, on a kind press in a DRAINING zone and on KEY with no open call it raises the station's ignored
count and changes no call. A kind press in an IN SERVICE zone with no such call opens a RAISED call of origin PANEL
with the next serial. KEY in a working zone answers every RAISED call of the station at the present part time
without a timer; with no RAISED call it removes every open one. -/
def Obligations.PressesReachTheCallTable : Prop :=
  ∀ (s : State) (q : Poll) (e : PanelEvent) (c : Fin 4) (i : PressInput), s.loop.poll = some q → q.void = false →
    (s.loop.panels[q.panel]).base = true → e.number = (s.loop.panels[q.panel]).last + 1 → e.channel = c.val →
    e.input = some i → Completes (.panelAnswer (.answer (num q.panel) false [e])) s fun t =>
    let n := stationAt q.panel c
    ((s.stationZone n = none ∨ (∃ z, s.stationZone n = some z ∧ (s.setup.service[z] = .outOfService
          ∨ s.setup.service[z] = .draining ∧ i ≠ .key ∨ i = .key ∧ s.stationCalls n = [])) →
        (t.calls.stations[n]).ignored = min ((s.calls.stations[n]).ignored + 1) 65535
        ∧ (∀ m k, t.call m k = s.call m k) ∧ t.calls.active = s.calls.active)
    ∧ (∀ z k, s.stationZone n = some z → s.setup.service[z] = .inService → i.kind? = some k → s.call n k = none →
        (∃ x, t.call n k = some x ∧ x.answered = false ∧ x.origin = .panel ∧ x.serial = s.calls.nextSerial
          ∧ x.raisedAt = s.partTime ∧ x.repeats = 0 ∧ x.level = 0 ∧ x.group = (s.setup.bindings[n]).group)
        ∧ t.calls.active[z] = s.calls.active[z] ++ [⟨n, k, s.calls.nextSerial⟩]
        ∧ t.calls.nextSerial = s.calls.nextSerial + 1)
    ∧ (∀ z, s.stationZone n = some z → s.works z = true → i = .key → ∀ k x, s.call n k = some x →
        (x.answered = false → ∃ y, t.call n k = some y ∧ y.answered = true ∧ y.answeredAt = some s.partTime
          ∧ y.nextEscalation = none ∧ y.serial = x.serial)
        ∧ ((∀ j y, s.call n j = some y → y.answered = true) → t.call n k = none)))

/-- A response timeout sends the next attempt, or fails the poll; the third failed poll in a row loses the panel.
RESPONSE TIMEOUT of a poll in progress completes at the end of its wait. Before the third attempt the next one is
sent with the lamps of that instant. The third ends the poll: failed polls and the failures in a row rise, the
history takes the failure, and the panel is LOST from three in a row on, SEEKING as before, else WEAK or ONLINE by
its history. A panel that becomes LOST has its poll due 1 s later, FAULT pending, its four stations marked, and its
entry in the demand set of every HOLD zone in service that it serves. A void poll ends with nothing recorded. The
time of the next state (log entry 3), the waits counted from the attempt (log entry 6) and what a void poll does
(log entry 23) are the model's choices. -/
def Obligations.TimeoutsFailAttemptsAndPolls : Prop :=
  ∀ (s : State) (q : Poll), s.loop.poll = some q → Completes .responseTimeout s fun t =>
    let v := s.loop.panels[q.panel]
    let w := t.loop.panels[q.panel]
    let h := (v.history ++ [true]).drop (v.history.length - 7)
    t.ms = max s.ms q.waitEnd
    ∧ (q.attempt < 3 → t.loop.panels = s.loop.panels ∧ t.loop.poll
        = some ⟨q.panel, q.attempt + 1, s.lampsOf q.panel, t.ms + 2 * s.loop.scale, q.void⟩)
    ∧ (3 ≤ q.attempt → q.void = true → t.loop.poll = none ∧ t.loop.panels = s.loop.panels)
    ∧ (3 ≤ q.attempt → q.void = false →
        t.loop.poll = none ∧ w.failed = min (v.failed + 1) 65535 ∧ w.failures = min (v.failures + 1) 65535
        ∧ w.answered = v.answered ∧ w.history = h ∧ w.lamps = q.lamps ∧ w.last = v.last
        ∧ w.state = (if 2 ≤ v.failures then .lost else if v.state = .seeking then .seeking
            else if 2 ≤ failuresIn h then .weak else .online)
        ∧ (2 ≤ v.failures → w.dueAt = some (t.ms + 1000) ∧ w.due = false)
        ∧ (2 ≤ v.failures → v.state ≠ .lost →
            t.raised .fault ∧ (∀ n ∈ stationsOf q.panel, (t.calls.stations[n]).panelLost = true)
            ∧ ∀ (z : Fin 8) (f : ZoneDef), s.zone z = some f → s.setup.service[z] = .inService → f.ignoreLoss = false →
                s.serves q.panel z = true → (t.drive f.drive).demand.contains (.panel q.panel z) = true))

/-- An escalation timer climbs its RAISED call one level, and the alert outputs follow. ESCALATION EXPIRY of a
RAISED call below its ladder's level count with its timer running completes from the timer's instant on, and changes
nothing before it, as where a repeat at the same instant has set the timer again (the model's log entry 3): the call
stands one level higher, its next escalation time counted from that instant by the next level's delay, or absent at
the top; every other call stands; each alert output's number is the number of RAISED calls whose current level names
it; with journal room CALL ESCALATED is appended at the timer's instant with the new level and its output. The
station's row and its group's are each rewritten once, and no other group's. -/
def Obligations.CallsClimbWhenTheirTimersExpire : Prop :=
  ∀ (n : Fin 160) (k : Kind) (s : State) (c : Call) (x : Nat), s.call n k = some c → c.answered = false →
    c.level < (s.ladder c.group).count → c.nextEscalation = some x →
    (s.ms < 100 * x → exec (.escalationExpiry n k) s = .next s)
    ∧ (100 * x ≤ s.ms → Completes (.escalationExpiry n k) s fun t =>
      let l := ((s.ladder c.group).level? (c.level + 1)).getD ⟨0, 0, false⟩
      t.ms = s.ms
      ∧ t.call n k = some { c with
          level := c.level + 1,
          nextEscalation := ((s.ladder c.group).level? (c.level + 2)).map fun m => x + 10 * m.delay }
      ∧ (∀ m j, (m, j) ≠ (n, k) → t.call m j = s.call m j) ∧ t.calls.active = s.calls.active
      ∧ (∀ i : Fin 8, t.alerts[i] = (t.openCalls.filter fun y => t.outputOf y == num i).length)
      ∧ (s.hasRoom 1 → Journaled [⟨BitVec.ofNat 32 x, 0x03, k.code + (if l.flash then 8 else 0), num n, c.serial % 65536,
          c.level + 1 + 256 * l.output⟩] s t)
        ∧ t.win.counts[(Row.station n).index] = s.win.counts[(Row.station n).index] + 2
        ∧ ∀ g : Fin 24, t.win.counts[(Row.group g).index] = if c.group = num g then s.win.counts[(Row.group g).index] + 2
            else s.win.counts[(Row.group g).index])

/-- Advances and markers move the pitch index and the count, and a crossing makes the calls armed for it DUE. An
advance of a defined drive while RUNNING completes; another one is discarded. Forward by k from the count x, the
pitch index rises by the whole pitches in x + k and the count is the rest; every armed call of the drive whose
deadline is one of the pitches reached is DUE at the present part time and in the demand set, a stop request
following on an empty set, and every call that is none of the drive's armed calls, or whose deadline is not among
them, stands as it was. Reverse, the count falls by k, or to 0 with the rest added to the reverse count; the pitch
index, the calls and the journal stand. MARKER of a defined drive while RUNNING completes. With the count at the
pitch length less the tolerance or more, the pitch index rises by one and the count is 0, and the armed calls of the
drive with that pitch as deadline, and no others, are DUE as at a crossing by an advance. Otherwise, with the count
at most the tolerance, the count is 0 and nothing else of the drive changes. Otherwise the marker fault count rises
by one to at most 65535, nothing else of the drive changes, and with journal room MARKER FAULT carries the count and
the pitch index. The other drives stand. On an undefined drive and while STARTING it is discarded. -/
def Obligations.MotionEventsMoveTheDrive : Prop :=
  ((∀ (d : Fin 8) (x : Half) (r : Direction) (s : State), x ≠ 0 → s.part = .starting ∨ s.setup.drives[d] = none →
    exec (.advance d x r) s = .next s)
  ∧ (∀ (d : Fin 8) (x : Half) (s : State) (f : DriveDef), x ≠ 0 → s.part = .running → s.setup.drives[d] = some f →
    (s.drive d).count < f.pitch → Completes (.advance d x .forward) s fun t =>
      let v := s.drive d
      let m := (v.count + x.toNat) / f.pitch
      let hit := fun D : Half => 1 ≤ (D - v.pitch).toNat ∧ (D - v.pitch).toNat ≤ m
      (t.drive d).pitch = v.pitch + BitVec.ofNat 16 m ∧ (t.drive d).count = (v.count + x.toNat) % f.pitch
      ∧ (t.drive d).reverse = v.reverse ∧ (t.drive d).markerFaults = v.markerFaults
      ∧ (∀ r ∈ s.armedCalls d, ∀ c D, s.callAt r = some c → c.stop = .armed D → hit D →
          t.callAt r = some { c with stop := .due s.partTime } ∧ (t.drive d).demand.contains (.call r) = true
          ∧ (v.demand = [] → (t.drive d).stopRequest = true))
      ∧ (∀ n k c, s.call n k = some c →
          (∀ r ∈ s.armedCalls d, (r.station, r.kind) ≠ (n, k)) ∨ (∀ D, c.stop = .armed D → ¬ hit D) → t.call n k = some c)
      ∧ (∀ n k, s.call n k = none → t.call n k = none)
      ∧ ∀ e, e ≠ d → t.drive e = s.drive e)
  ∧ (∀ (d : Fin 8) (x : Half) (s : State) (f : DriveDef), x ≠ 0 → s.part = .running → s.setup.drives[d] = some f →
    Completes (.advance d x .reverse) s fun t =>
      t.drive d = (if (s.drive d).count < x.toNat then
          { s.drive d with count := 0,
                           reverse := min ((s.drive d).reverse + (x.toNat - (s.drive d).count)) 4294967295 }
        else { s.drive d with count := (s.drive d).count - x.toNat })
      ∧ (∀ e, e ≠ d → t.drive e = s.drive e) ∧ t.calls = s.calls ∧ t.jrn = s.jrn))
  ∧ (∀ (d : Fin 8) (s : State), Completes (.marker d) s fun t =>
    (s.part = .starting ∨ s.setup.drives[d] = none → t = s)
    ∧ ∀ f, s.part = .running → s.setup.drives[d] = some f →
      let v := s.drive d
      (f.pitch - f.tolerance ≤ v.count →
          (t.drive d).pitch = v.pitch + 1 ∧ (t.drive d).count = 0 ∧ (t.drive d).reverse = v.reverse
          ∧ (t.drive d).markerFaults = v.markerFaults
          ∧ (∀ r ∈ s.armedCalls d, ∀ c, s.callAt r = some c → c.stop = .armed (v.pitch + 1) →
              t.callAt r = some { c with stop := .due s.partTime } ∧ (t.drive d).demand.contains (.call r) = true
              ∧ (v.demand = [] → (t.drive d).stopRequest = true))
          ∧ (∀ n k c, s.call n k = some c →
              (∀ r ∈ s.armedCalls d, (r.station, r.kind) ≠ (n, k)) ∨ c.stop ≠ .armed (v.pitch + 1) → t.call n k = some c)
          ∧ (∀ n k, s.call n k = none → t.call n k = none))
      ∧ (v.count < f.pitch - f.tolerance → v.count ≤ f.tolerance → t.drive d = { v with count := 0 } ∧ t.calls = s.calls)
      ∧ (v.count < f.pitch - f.tolerance → f.tolerance < v.count →
          t.drive d = { v with markerFaults := min (v.markerFaults + 1) 65535 } ∧ t.calls = s.calls
          ∧ (s.hasRoom 1 → Journaled [⟨s.partTime, 0x17, 0, num d, v.count, v.pitch.toNat⟩] s t))
      ∧ ∀ e, e ≠ d → t.drive e = s.drive e)

/-- A drive that stops opens a stoppage record; one that moves closes it; a stop response that runs out raises
FAULT. RUN FEEDBACK CHANGE completes with the input at its reading; while STARTING, or with the reading already the
drive's, nothing else changes. To STOPPED: the supervision is idle, the overrun watch ends, and with a working zone
of the drive a record opens with the next number, the present part time, the held overrun count and the cause
evaluated. To MOVING: an open record is closed at the present part time, and a drive asked to stop is timed again by
its stop response limit. SUPERVISION EXPIRY completes at the limit: NOT STOPPING, FAULT pending, DRIVE NOT STOPPING
journaled. The time of SUPERVISION EXPIRY's next state is the model's choice, log entry 3. -/
def Obligations.FeedbackOpensAndClosesRecords : Prop :=
  (∀ (d : Fin 8) (x : Feedback) (s : State), Completes (.runFeedbackChange d x) s fun t =>
    let v := s.drive d
    t.pins.feedback[d] = x
    ∧ (s.part = .starting ∨ v.feedback = x →
        t = { s with pins := { s.pins with feedback := s.pins.feedback.set d.val x } })
    ∧ (s.part = .running → v.feedback = .moving → x = .stopped →
        t.drive d = { v with feedback := .stopped, supervision := .idle, watching := false, overrun := 0 }
        ∧ (s.workingZones d ≠ [] → ∃ r, t.openRecord d = some r ∧ r.number = s.attr.lastNumber + 1 ∧ r.drive = d
            ∧ r.start = s.partTime ∧ r.overrun = v.overrun ∧ r.outside = !s.shiftOpen ∧ r.continued = false
            ∧ r.evaluated = s.evaluate d ∧ r.zones = s.workingZones d ∧ r.segments = [⟨r.charge, 0, 0⟩]
            ∧ r.charge = (if s.shift.state = .onBreak then .onBreak else .cause (s.evaluate d)))
        ∧ (s.workingZones d = [] → t.attr = s.attr))
    ∧ (s.part = .running → v.feedback = .stopped → x = .moving →
        (t.drive d).feedback = .moving ∧ (t.drive d).demand = v.demand ∧ (t.drive d).stopRequest = v.stopRequest
        ∧ (t.drive d).watching = (v.watching || !(dueCalls v.demand).isEmpty)
        ∧ (v.stopRequest = false → (t.drive d).supervision = v.supervision)
        ∧ (∀ f, v.stopRequest = true → s.setup.drives[d] = some f →
            (t.drive d).supervision = .timing s.tenths f.response)
        ∧ t.openRecord d = none
        ∧ ∀ r, s.openRecord d = some r → ∃ c, t.attr.slots[d] = .closed c ∧ c.number = r.number
            ∧ c.endAt = some s.partTime ∧ c.duration = some (tenthsBetween r.start s.partTime)))
  ∧ (∀ (d : Fin 8) (s : State) (a b : Nat), (s.drive d).supervision = .timing a b →
    Completes (.supervisionExpiry d) s fun t =>
      t.ms = max s.ms (100 * (a + 10 * b)) ∧ t.drive d = { s.drive d with supervision := .notStopping a }
      ∧ t.raised .fault
      ∧ (s.hasRoom 1 → Journaled [⟨t.partTime, 0x16, 1, num d, b, (s.drive d).pitch.toNat⟩] s t))

/-- What the orders of the order unit and of line setup leave unchanged. Frame: when the command answers a next
state, every block of the state, every row's change count and every byte of the exchange memory outside the
command's footprint (Safety.lean, `footprint`: the blocks, rows and byte ranges named for that command) is as
before, and so is the queue. For UNLOCK ORDERS, STOP ALL WORK and the eight setup orders of codes 0x10 to 0x17. -/
def Obligations.FramesOfOrderUnitAndSetupOrders : Prop :=
  ∀ (i : Instr) (p : Post) (o : Order) (f : Footprint) (s t : State), postedOrder i = some (p, o) → o.code.toNat < 0x20 →
    footprint i = some f → exec i s = .next t → f.bounds s t

/-- What the orders on zones, drives, buffers, panels and calls leave unchanged. Frame: when the command answers a
next state, every block of the state, every row's change count and every byte of the exchange memory outside the
command's footprint (Safety.lean, `footprint`: the blocks, rows and byte ranges named for that command) is as
before, and so is the queue. For the orders of codes 0x20 to 0x32: zone service, drives, buffers, panels and calls.
-/
def Obligations.FramesOfLineAndCallOrders : Prop :=
  ∀ (i : Instr) (p : Post) (o : Order) (f : Footprint) (s t : State), postedOrder i = some (p, o) → 0x20 ≤ o.code.toNat →
    o.code.toNat < 0x40 → footprint i = some f → exec i s = .next t → f.bounds s t

/-- What the orders of the shift, the boards, the plan store and the journal leave unchanged. Frame: when the
command answers a next state, every block of the state, every row's change count and every byte of the exchange
memory outside the command's footprint (Safety.lean, `footprint`: the blocks, rows and byte ranges named for that
command) is as before, and so is the queue. For the orders of codes 0x40 to 0x70: shift, boards, plan store and
journal. -/
def Obligations.FramesOfShiftBoardStoreAndJournalOrders : Prop :=
  ∀ (i : Instr) (p : Post) (o : Order) (f : Footprint) (s t : State), postedOrder i = some (p, o) → 0x40 ≤ o.code.toNat →
    footprint i = some f → exec i s = .next t → f.bounds s t

/-- What register writes, line events, timers and link events leave unchanged. Frame: when the command answers a
next state, every block of the state, every row's change count and every byte of the exchange memory outside the
command's footprint (Safety.lean, `footprint`: the blocks, rows and byte ranges named for that command) is as
before, and so is the queue. For every command that posts no order, but for the two resets, start-up and a scan, of
which no footprint is claimed. -/
def Obligations.FramesOfEvents : Prop :=
  ∀ (i : Instr) (f : Footprint) (s t : State), postedOrder i = none → footprint i = some f → exec i s = .next t → f.bounds s t
end

