-- ==== Sys2Proof/Laws/Memory.lean ====
section
/-! SUPPORT. The laws of the exchange memory: what a read gives after a write or a clear, and that every operation keeps the
canonical form `Memory.wf`. The read laws hold of any list of cells, canonical or not. -/

namespace Sys2Proof.Machine

/-! ### Lookup over the pieces a write is made of -/

theorem lookup_filter_keep (mem : List Host.Cell) (p : Nat → Bool) (x : Nat) (h : p x = true) :
    (mem.filter fun c => p c.1).lookup x = mem.lookup x := by
  induction mem with
  | nil => rfl
  | cons c cs ih =>
    obtain ⟨k, v⟩ := c
    by_cases hk : x = k
    · subst hk; simp [h]
    · by_cases hp : p k = true <;> simp [hp, List.lookup_cons, beq_false_of_ne hk, ih]

theorem lookup_filter_drop (mem : List Host.Cell) (p : Nat → Bool) (x : Nat) (h : p x = false) :
    (mem.filter fun c => p c.1).lookup x = none := by
  rw [List.lookup_eq_none_iff]
  intro c hc
  have hp : p c.1 = true := (List.mem_filter.mp hc).2
  rw [bne_iff_ne]
  rintro rfl
  simp_all

theorem lookup_cells_outside (a x : Nat) (bs : List Byte) (h : x < a ∨ a + bs.length ≤ x) :
    (Memory.cells a bs).lookup x = none := by
  induction bs generalizing a with
  | nil => rfl
  | cons b bs ih =>
    have ih' := ih (a + 1) (by simp only [List.length_cons] at h; omega)
    have hne : x ≠ a := by simp only [List.length_cons] at h; omega
    unfold Memory.cells
    split <;> simp [List.lookup_cons, beq_false_of_ne hne, ih']

theorem lookup_cells_inside (a i : Nat) (bs : List Byte) (h : i < bs.length) :
    ((Memory.cells a bs).lookup (a + i)).getD 0 = byteAt bs i := by
  induction bs generalizing a i with
  | nil => simp at h
  | cons b bs ih =>
    cases i with
    | zero =>
      have hout : (Memory.cells (a + 1) bs).lookup a = none := lookup_cells_outside _ _ _ (.inl (by omega))
      unfold Memory.cells
      split
      · next hb => simp [hout, hb, byteAt]
      · simp [byteAt]
    | succ i =>
      have ih' := ih (a + 1) i (by simpa using h)
      have hne : a + (i + 1) ≠ a := by omega
      have e : a + 1 + i = a + (i + 1) := by omega
      rw [e] at ih'
      unfold Memory.cells
      split
      · simpa [byteAt] using ih'
      · simpa [byteAt, List.lookup_cons, beq_false_of_ne hne] using ih'

/-! ### Reads after writes -/

/-- A write leaves every byte outside its run as it was. -/
theorem Memory.read_write_outside (mem : List Host.Cell) (a x : Nat) (bs : List Byte)
    (h : x < a ∨ a + bs.length ≤ x) : Memory.read (Memory.write mem a bs) x = Memory.read mem x := by
  have hc := lookup_cells_outside a x bs h
  unfold Memory.read Memory.write
  rw [List.append_assoc, List.lookup_append, List.lookup_append, hc, Option.none_or]
  rcases Nat.lt_or_ge x a with hx | hx
  · rw [lookup_filter_keep mem (fun k => decide (k < a)) x (by simpa using hx),
      lookup_filter_drop mem (fun k => decide (a + bs.length ≤ k)) x (by simp; omega), Option.or_none]
  · have hx' : a + bs.length ≤ x := by omega
    rw [lookup_filter_drop mem (fun k => decide (k < a)) x (by simpa using hx),
      lookup_filter_keep mem (fun k => decide (a + bs.length ≤ k)) x (by simpa using hx'), Option.none_or]

/-- A write stores its bytes. -/
theorem Memory.read_write_inside (mem : List Host.Cell) (a i : Nat) (bs : List Byte) (h : i < bs.length) :
    Memory.read (Memory.write mem a bs) (a + i) = byteAt bs i := by
  have hc := lookup_cells_inside a i bs h
  unfold Memory.read Memory.write
  rw [List.append_assoc, List.lookup_append, List.lookup_append,
    lookup_filter_drop mem (fun k => decide (k < a)) (a + i) (by simp),
    lookup_filter_drop mem (fun k => decide (a + bs.length ≤ k)) (a + i) (by simp; omega), Option.none_or,
    Option.or_none]
  exact hc

theorem Memory.read_write (mem : List Host.Cell) (a x : Nat) (bs : List Byte) :
    Memory.read (Memory.write mem a bs) x
      = if a ≤ x ∧ x < a + bs.length then byteAt bs (x - a) else Memory.read mem x := by
  split
  · next h =>
    have := Memory.read_write_inside mem a (x - a) bs (by omega)
    rwa [Nat.add_sub_cancel' h.1] at this
  · exact Memory.read_write_outside mem a x bs (by omega)

/-- A clear zeroes its range and nothing else. -/
theorem Memory.read_clear (mem : List Host.Cell) (a n x : Nat) :
    Memory.read (Memory.clear mem a n) x = if a ≤ x ∧ x < a + n then 0 else Memory.read mem x := by
  unfold Memory.read Memory.clear
  split
  · rw [lookup_filter_drop mem (fun k => decide (k < a) || decide (a + n ≤ k)) x (by simp; omega)]; rfl
  · rw [lookup_filter_keep mem (fun k => decide (k < a) || decide (a + n ≤ k)) x (by simp; omega)]

@[simp] theorem Memory.readRun_length (mem : List Host.Cell) (a n : Nat) : (Memory.readRun mem a n).length = n := by
  simp [Memory.readRun]

/-- A run read where it was written gives the bytes back. -/
theorem Memory.readRun_write_same (mem : List Host.Cell) (a : Nat) (bs : List Byte) :
    Memory.readRun (Memory.write mem a bs) a bs.length = bs := by
  apply List.ext_getElem (by simp)
  intro i h1 h2
  simp only [Memory.readRun, List.getElem_map, List.getElem_range]
  rw [Memory.read_write_inside mem a i bs h2]
  simp [byteAt, h2]

/-- A run read clear of a write gives what it gave before. -/
theorem Memory.readRun_write_outside (mem : List Host.Cell) (a x n : Nat) (bs : List Byte)
    (h : x + n ≤ a ∨ a + bs.length ≤ x) : Memory.readRun (Memory.write mem a bs) x n = Memory.readRun mem x n := by
  simp only [Memory.readRun, List.map_inj_left, List.mem_range]
  intro i hi
  exact Memory.read_write_outside mem a (x + i) bs (by omega)

/-! ### The canonical form -/

theorem Memory.wf_iff (mem : List Host.Cell) :
    Memory.wf mem = true ↔ (mem.Pairwise fun x y => x.1 < y.1) ∧ ∀ c ∈ mem, c.2 ≠ 0 ∧ c.1 < 0x9000 := by
  simp [Memory.wf]

theorem Memory.wf_nil : Memory.wf [] = true := by decide

theorem Memory.wf_filter (mem : List Host.Cell) (p : Host.Cell → Bool) (h : Memory.wf mem = true) :
    Memory.wf (mem.filter p) = true := by
  rw [Memory.wf_iff] at *
  exact ⟨h.1.filter p, fun c hc => h.2 c (List.mem_filter.mp hc).1⟩

theorem Memory.mem_cells (a : Nat) (bs : List Byte) (c : Host.Cell) (h : c ∈ Memory.cells a bs) :
    a ≤ c.1 ∧ c.1 < a + bs.length ∧ c.2 ≠ 0 := by
  induction bs generalizing a with
  | nil => simp [Memory.cells] at h
  | cons b bs ih =>
    unfold Memory.cells at h
    split at h
    · have := ih (a + 1) h; exact ⟨by omega, by simp only [List.length_cons]; omega, this.2.2⟩
    · rcases List.mem_cons.mp h with rfl | h
      · simp only [List.length_cons]; exact ⟨le_refl _, by omega, by assumption⟩
      · have := ih (a + 1) h; exact ⟨by omega, by simp only [List.length_cons]; omega, this.2.2⟩

theorem Memory.cells_pairwise (a : Nat) (bs : List Byte) : (Memory.cells a bs).Pairwise fun x y => x.1 < y.1 := by
  induction bs generalizing a with
  | nil => simp [Memory.cells]
  | cons b bs ih =>
    unfold Memory.cells
    split
    · exact ih (a + 1)
    · refine List.pairwise_cons.mpr ⟨fun c hc => ?_, ih (a + 1)⟩
      have := (Memory.mem_cells (a + 1) bs c hc).1
      simp only; omega

/-- A write inside the window keeps the canonical form. -/
theorem Memory.wf_write (mem : List Host.Cell) (a : Nat) (bs : List Byte) (h : Memory.wf mem = true)
    (ha : a + bs.length ≤ 0x9000) : Memory.wf (Memory.write mem a bs) = true := by
  rw [Memory.wf_iff] at *
  unfold Memory.write
  constructor
  · rw [List.pairwise_append, List.pairwise_append]
    refine ⟨⟨h.1.filter _, Memory.cells_pairwise a bs, ?_⟩, h.1.filter _, ?_⟩
    · intro x hx y hy
      have h1 := (List.mem_filter.mp hx).2
      have h2 := (Memory.mem_cells a bs y hy).1
      simp only [decide_eq_true_eq] at h1
      omega
    · intro x hx y hy
      have h2 := (List.mem_filter.mp hy).2
      simp only [decide_eq_true_eq] at h2
      rcases List.mem_append.mp hx with hx | hx
      · have h1 := (List.mem_filter.mp hx).2
        simp only [decide_eq_true_eq] at h1
        omega
      · have h1 := (Memory.mem_cells a bs x hx).2.1
        omega
  · intro c hc
    rcases List.mem_append.mp hc with hc | hc
    · rcases List.mem_append.mp hc with hc | hc
      · exact h.2 c (List.mem_filter.mp hc).1
      · have := Memory.mem_cells a bs c hc
        exact ⟨this.2.2, by omega⟩
    · exact h.2 c (List.mem_filter.mp hc).1

theorem Memory.wf_clear (mem : List Host.Cell) (a n : Nat) (h : Memory.wf mem = true) :
    Memory.wf (Memory.clear mem a n) = true := Memory.wf_filter mem _ h

/-- Window writes inside the window keep the canonical form. -/
theorem Memory.wf_hostWrites (writes : List Host.Cell) (s : State) (hw : insideWindow writes = true)
    (h : Memory.wf s.win.mem = true) : Memory.wf (hostWrites writes s).win.mem = true := by
  unfold hostWrites
  simp only
  generalize s.win.mem = mem at h
  induction writes generalizing mem with
  | nil => exact h
  | cons c cs ih =>
    simp only [insideWindow, List.all_cons, Bool.and_eq_true, decide_eq_true_eq] at hw
    exact ih hw.2 _ (Memory.wf_write mem c.1 [c.2] h (by simp; omega))

/-- The exchange memory right after reset is canonical: nothing is listed. -/
theorem Memory.wf_reset : Memory.wf State.reset.win.mem = true := by decide

end Sys2Proof.Machine
end

