-- ==== Sys2Proof/Laws/State.lean ====
section
/-! SUPPORT. What each core update leaves of the state, one field a lemma, so that no later proof unfolds a record update.
The updates named `…Only` bound what a whole family of events may change: each takes the state before and the state an
event has led to, and keeps of the latter only the family's own blocks. -/

namespace Sys2Proof.Machine

/-! ### Updates of the exchange memory (section 1.2) -/

@[simp] theorem writeBytes_ms (a : Nat) (bs : List Byte) (s : State) : (writeBytes a bs s).ms = s.ms := rfl
@[simp] theorem writeBytes_part (a : Nat) (bs : List Byte) (s : State) : (writeBytes a bs s).part = s.part := rfl
@[simp] theorem writeBytes_resetKind (a : Nat) (bs : List Byte) (s : State) : (writeBytes a bs s).resetKind = s.resetKind := rfl
@[simp] theorem writeBytes_pins (a : Nat) (bs : List Byte) (s : State) : (writeBytes a bs s).pins = s.pins := rfl
@[simp] theorem writeBytes_ord (a : Nat) (bs : List Byte) (s : State) : (writeBytes a bs s).ord = s.ord := rfl
@[simp] theorem writeBytes_setup (a : Nat) (bs : List Byte) (s : State) : (writeBytes a bs s).setup = s.setup := rfl
@[simp] theorem writeBytes_calls (a : Nat) (bs : List Byte) (s : State) : (writeBytes a bs s).calls = s.calls := rfl
@[simp] theorem writeBytes_alerts (a : Nat) (bs : List Byte) (s : State) : (writeBytes a bs s).alerts = s.alerts := rfl
@[simp] theorem writeBytes_loop (a : Nat) (bs : List Byte) (s : State) : (writeBytes a bs s).loop = s.loop := rfl
@[simp] theorem writeBytes_drv (a : Nat) (bs : List Byte) (s : State) : (writeBytes a bs s).drv = s.drv := rfl
@[simp] theorem writeBytes_attr (a : Nat) (bs : List Byte) (s : State) : (writeBytes a bs s).attr = s.attr := rfl
@[simp] theorem writeBytes_shift (a : Nat) (bs : List Byte) (s : State) : (writeBytes a bs s).shift = s.shift := rfl
@[simp] theorem writeBytes_brd (a : Nat) (bs : List Byte) (s : State) : (writeBytes a bs s).brd = s.brd := rfl
@[simp] theorem writeBytes_jrn (a : Nat) (bs : List Byte) (s : State) : (writeBytes a bs s).jrn = s.jrn := rfl
@[simp] theorem writeBytes_irq (a : Nat) (bs : List Byte) (s : State) : (writeBytes a bs s).irq = s.irq := rfl
@[simp] theorem writeBytes_store (a : Nat) (bs : List Byte) (s : State) : (writeBytes a bs s).store = s.store := rfl
@[simp] theorem writeBytes_pending (a : Nat) (bs : List Byte) (s : State) : (writeBytes a bs s).pending = s.pending := rfl

@[simp] theorem hostWrites_ms (ws : List Host.Cell) (s : State) : (hostWrites ws s).ms = s.ms := rfl
@[simp] theorem hostWrites_part (ws : List Host.Cell) (s : State) : (hostWrites ws s).part = s.part := rfl
@[simp] theorem hostWrites_resetKind (ws : List Host.Cell) (s : State) : (hostWrites ws s).resetKind = s.resetKind := rfl
@[simp] theorem hostWrites_pins (ws : List Host.Cell) (s : State) : (hostWrites ws s).pins = s.pins := rfl
@[simp] theorem hostWrites_ord (ws : List Host.Cell) (s : State) : (hostWrites ws s).ord = s.ord := rfl
@[simp] theorem hostWrites_setup (ws : List Host.Cell) (s : State) : (hostWrites ws s).setup = s.setup := rfl
@[simp] theorem hostWrites_calls (ws : List Host.Cell) (s : State) : (hostWrites ws s).calls = s.calls := rfl
@[simp] theorem hostWrites_alerts (ws : List Host.Cell) (s : State) : (hostWrites ws s).alerts = s.alerts := rfl
@[simp] theorem hostWrites_loop (ws : List Host.Cell) (s : State) : (hostWrites ws s).loop = s.loop := rfl
@[simp] theorem hostWrites_drv (ws : List Host.Cell) (s : State) : (hostWrites ws s).drv = s.drv := rfl
@[simp] theorem hostWrites_attr (ws : List Host.Cell) (s : State) : (hostWrites ws s).attr = s.attr := rfl
@[simp] theorem hostWrites_shift (ws : List Host.Cell) (s : State) : (hostWrites ws s).shift = s.shift := rfl
@[simp] theorem hostWrites_brd (ws : List Host.Cell) (s : State) : (hostWrites ws s).brd = s.brd := rfl
@[simp] theorem hostWrites_jrn (ws : List Host.Cell) (s : State) : (hostWrites ws s).jrn = s.jrn := rfl
@[simp] theorem hostWrites_irq (ws : List Host.Cell) (s : State) : (hostWrites ws s).irq = s.irq := rfl
@[simp] theorem hostWrites_store (ws : List Host.Cell) (s : State) : (hostWrites ws s).store = s.store := rfl
@[simp] theorem hostWrites_pending (ws : List Host.Cell) (s : State) : (hostWrites ws s).pending = s.pending := rfl

@[simp] theorem writeRow_ms (r : Row) (s : State) : (writeRow r s).ms = s.ms := rfl
@[simp] theorem writeRow_part (r : Row) (s : State) : (writeRow r s).part = s.part := rfl
@[simp] theorem writeRow_resetKind (r : Row) (s : State) : (writeRow r s).resetKind = s.resetKind := rfl
@[simp] theorem writeRow_pins (r : Row) (s : State) : (writeRow r s).pins = s.pins := rfl
@[simp] theorem writeRow_ord (r : Row) (s : State) : (writeRow r s).ord = s.ord := rfl
@[simp] theorem writeRow_setup (r : Row) (s : State) : (writeRow r s).setup = s.setup := rfl
@[simp] theorem writeRow_calls (r : Row) (s : State) : (writeRow r s).calls = s.calls := rfl
@[simp] theorem writeRow_alerts (r : Row) (s : State) : (writeRow r s).alerts = s.alerts := rfl
@[simp] theorem writeRow_loop (r : Row) (s : State) : (writeRow r s).loop = s.loop := rfl
@[simp] theorem writeRow_drv (r : Row) (s : State) : (writeRow r s).drv = s.drv := rfl
@[simp] theorem writeRow_attr (r : Row) (s : State) : (writeRow r s).attr = s.attr := rfl
@[simp] theorem writeRow_shift (r : Row) (s : State) : (writeRow r s).shift = s.shift := rfl
@[simp] theorem writeRow_brd (r : Row) (s : State) : (writeRow r s).brd = s.brd := rfl
@[simp] theorem writeRow_jrn (r : Row) (s : State) : (writeRow r s).jrn = s.jrn := rfl
@[simp] theorem writeRow_irq (r : Row) (s : State) : (writeRow r s).irq = s.irq := rfl
@[simp] theorem writeRow_store (r : Row) (s : State) : (writeRow r s).store = s.store := rfl
@[simp] theorem writeRow_pending (r : Row) (s : State) : (writeRow r s).pending = s.pending := rfl

@[simp] theorem syncRow_ms (old : State) (r : Row) (s : State) : (syncRow old r s).ms = s.ms := rfl
@[simp] theorem syncRow_part (old : State) (r : Row) (s : State) : (syncRow old r s).part = s.part := rfl
@[simp] theorem syncRow_resetKind (old : State) (r : Row) (s : State) : (syncRow old r s).resetKind = s.resetKind := rfl
@[simp] theorem syncRow_pins (old : State) (r : Row) (s : State) : (syncRow old r s).pins = s.pins := rfl
@[simp] theorem syncRow_ord (old : State) (r : Row) (s : State) : (syncRow old r s).ord = s.ord := rfl
@[simp] theorem syncRow_setup (old : State) (r : Row) (s : State) : (syncRow old r s).setup = s.setup := rfl
@[simp] theorem syncRow_calls (old : State) (r : Row) (s : State) : (syncRow old r s).calls = s.calls := rfl
@[simp] theorem syncRow_alerts (old : State) (r : Row) (s : State) : (syncRow old r s).alerts = s.alerts := rfl
@[simp] theorem syncRow_loop (old : State) (r : Row) (s : State) : (syncRow old r s).loop = s.loop := rfl
@[simp] theorem syncRow_drv (old : State) (r : Row) (s : State) : (syncRow old r s).drv = s.drv := rfl
@[simp] theorem syncRow_attr (old : State) (r : Row) (s : State) : (syncRow old r s).attr = s.attr := rfl
@[simp] theorem syncRow_shift (old : State) (r : Row) (s : State) : (syncRow old r s).shift = s.shift := rfl
@[simp] theorem syncRow_brd (old : State) (r : Row) (s : State) : (syncRow old r s).brd = s.brd := rfl
@[simp] theorem syncRow_jrn (old : State) (r : Row) (s : State) : (syncRow old r s).jrn = s.jrn := rfl
@[simp] theorem syncRow_irq (old : State) (r : Row) (s : State) : (syncRow old r s).irq = s.irq := rfl
@[simp] theorem syncRow_store (old : State) (r : Row) (s : State) : (syncRow old r s).store = s.store := rfl
@[simp] theorem syncRow_pending (old : State) (r : Row) (s : State) : (syncRow old r s).pending = s.pending := rfl

@[simp] theorem writeRows_ms (rs : List Row) (s : State) : (writeRows rs s).ms = s.ms := rfl
@[simp] theorem writeRows_part (rs : List Row) (s : State) : (writeRows rs s).part = s.part := rfl
@[simp] theorem writeRows_resetKind (rs : List Row) (s : State) : (writeRows rs s).resetKind = s.resetKind := rfl
@[simp] theorem writeRows_pins (rs : List Row) (s : State) : (writeRows rs s).pins = s.pins := rfl
@[simp] theorem writeRows_ord (rs : List Row) (s : State) : (writeRows rs s).ord = s.ord := rfl
@[simp] theorem writeRows_setup (rs : List Row) (s : State) : (writeRows rs s).setup = s.setup := rfl
@[simp] theorem writeRows_calls (rs : List Row) (s : State) : (writeRows rs s).calls = s.calls := rfl
@[simp] theorem writeRows_alerts (rs : List Row) (s : State) : (writeRows rs s).alerts = s.alerts := rfl
@[simp] theorem writeRows_loop (rs : List Row) (s : State) : (writeRows rs s).loop = s.loop := rfl
@[simp] theorem writeRows_drv (rs : List Row) (s : State) : (writeRows rs s).drv = s.drv := rfl
@[simp] theorem writeRows_attr (rs : List Row) (s : State) : (writeRows rs s).attr = s.attr := rfl
@[simp] theorem writeRows_shift (rs : List Row) (s : State) : (writeRows rs s).shift = s.shift := rfl
@[simp] theorem writeRows_brd (rs : List Row) (s : State) : (writeRows rs s).brd = s.brd := rfl
@[simp] theorem writeRows_jrn (rs : List Row) (s : State) : (writeRows rs s).jrn = s.jrn := rfl
@[simp] theorem writeRows_irq (rs : List Row) (s : State) : (writeRows rs s).irq = s.irq := rfl
@[simp] theorem writeRows_store (rs : List Row) (s : State) : (writeRows rs s).store = s.store := rfl
@[simp] theorem writeRows_pending (rs : List Row) (s : State) : (writeRows rs s).pending = s.pending := rfl

@[simp] theorem syncRows_ms (old : State) (rs : List Row) (s : State) : (syncRows old rs s).ms = s.ms := rfl
@[simp] theorem syncRows_part (old : State) (rs : List Row) (s : State) : (syncRows old rs s).part = s.part := rfl
@[simp] theorem syncRows_resetKind (old : State) (rs : List Row) (s : State) : (syncRows old rs s).resetKind = s.resetKind := rfl
@[simp] theorem syncRows_pins (old : State) (rs : List Row) (s : State) : (syncRows old rs s).pins = s.pins := rfl
@[simp] theorem syncRows_ord (old : State) (rs : List Row) (s : State) : (syncRows old rs s).ord = s.ord := rfl
@[simp] theorem syncRows_setup (old : State) (rs : List Row) (s : State) : (syncRows old rs s).setup = s.setup := rfl
@[simp] theorem syncRows_calls (old : State) (rs : List Row) (s : State) : (syncRows old rs s).calls = s.calls := rfl
@[simp] theorem syncRows_alerts (old : State) (rs : List Row) (s : State) : (syncRows old rs s).alerts = s.alerts := rfl
@[simp] theorem syncRows_loop (old : State) (rs : List Row) (s : State) : (syncRows old rs s).loop = s.loop := rfl
@[simp] theorem syncRows_drv (old : State) (rs : List Row) (s : State) : (syncRows old rs s).drv = s.drv := rfl
@[simp] theorem syncRows_attr (old : State) (rs : List Row) (s : State) : (syncRows old rs s).attr = s.attr := rfl
@[simp] theorem syncRows_shift (old : State) (rs : List Row) (s : State) : (syncRows old rs s).shift = s.shift := rfl
@[simp] theorem syncRows_brd (old : State) (rs : List Row) (s : State) : (syncRows old rs s).brd = s.brd := rfl
@[simp] theorem syncRows_jrn (old : State) (rs : List Row) (s : State) : (syncRows old rs s).jrn = s.jrn := rfl
@[simp] theorem syncRows_irq (old : State) (rs : List Row) (s : State) : (syncRows old rs s).irq = s.irq := rfl
@[simp] theorem syncRows_store (old : State) (rs : List Row) (s : State) : (syncRows old rs s).store = s.store := rfl
@[simp] theorem syncRows_pending (old : State) (rs : List Row) (s : State) : (syncRows old rs s).pending = s.pending := rfl

@[simp] theorem writeText_ms (t : Fin 64) (s : State) : (writeText t s).ms = s.ms := rfl
@[simp] theorem writeText_part (t : Fin 64) (s : State) : (writeText t s).part = s.part := rfl
@[simp] theorem writeText_resetKind (t : Fin 64) (s : State) : (writeText t s).resetKind = s.resetKind := rfl
@[simp] theorem writeText_pins (t : Fin 64) (s : State) : (writeText t s).pins = s.pins := rfl
@[simp] theorem writeText_ord (t : Fin 64) (s : State) : (writeText t s).ord = s.ord := rfl
@[simp] theorem writeText_setup (t : Fin 64) (s : State) : (writeText t s).setup = s.setup := rfl
@[simp] theorem writeText_calls (t : Fin 64) (s : State) : (writeText t s).calls = s.calls := rfl
@[simp] theorem writeText_alerts (t : Fin 64) (s : State) : (writeText t s).alerts = s.alerts := rfl
@[simp] theorem writeText_loop (t : Fin 64) (s : State) : (writeText t s).loop = s.loop := rfl
@[simp] theorem writeText_drv (t : Fin 64) (s : State) : (writeText t s).drv = s.drv := rfl
@[simp] theorem writeText_attr (t : Fin 64) (s : State) : (writeText t s).attr = s.attr := rfl
@[simp] theorem writeText_shift (t : Fin 64) (s : State) : (writeText t s).shift = s.shift := rfl
@[simp] theorem writeText_brd (t : Fin 64) (s : State) : (writeText t s).brd = s.brd := rfl
@[simp] theorem writeText_jrn (t : Fin 64) (s : State) : (writeText t s).jrn = s.jrn := rfl
@[simp] theorem writeText_irq (t : Fin 64) (s : State) : (writeText t s).irq = s.irq := rfl
@[simp] theorem writeText_store (t : Fin 64) (s : State) : (writeText t s).store = s.store := rfl
@[simp] theorem writeText_pending (t : Fin 64) (s : State) : (writeText t s).pending = s.pending := rfl

/-! ### Updates of the interrupt causes and the journal (chapter 10) -/

@[simp] theorem raiseCause_ms (c : CauseName) (s : State) : (raiseCause c s).ms = s.ms := rfl
@[simp] theorem raiseCause_part (c : CauseName) (s : State) : (raiseCause c s).part = s.part := rfl
@[simp] theorem raiseCause_resetKind (c : CauseName) (s : State) : (raiseCause c s).resetKind = s.resetKind := rfl
@[simp] theorem raiseCause_pins (c : CauseName) (s : State) : (raiseCause c s).pins = s.pins := rfl
@[simp] theorem raiseCause_win (c : CauseName) (s : State) : (raiseCause c s).win = s.win := rfl
@[simp] theorem raiseCause_ord (c : CauseName) (s : State) : (raiseCause c s).ord = s.ord := rfl
@[simp] theorem raiseCause_setup (c : CauseName) (s : State) : (raiseCause c s).setup = s.setup := rfl
@[simp] theorem raiseCause_calls (c : CauseName) (s : State) : (raiseCause c s).calls = s.calls := rfl
@[simp] theorem raiseCause_alerts (c : CauseName) (s : State) : (raiseCause c s).alerts = s.alerts := rfl
@[simp] theorem raiseCause_loop (c : CauseName) (s : State) : (raiseCause c s).loop = s.loop := rfl
@[simp] theorem raiseCause_drv (c : CauseName) (s : State) : (raiseCause c s).drv = s.drv := rfl
@[simp] theorem raiseCause_attr (c : CauseName) (s : State) : (raiseCause c s).attr = s.attr := rfl
@[simp] theorem raiseCause_shift (c : CauseName) (s : State) : (raiseCause c s).shift = s.shift := rfl
@[simp] theorem raiseCause_brd (c : CauseName) (s : State) : (raiseCause c s).brd = s.brd := rfl
@[simp] theorem raiseCause_jrn (c : CauseName) (s : State) : (raiseCause c s).jrn = s.jrn := rfl
@[simp] theorem raiseCause_store (c : CauseName) (s : State) : (raiseCause c s).store = s.store := rfl
@[simp] theorem raiseCause_pending (c : CauseName) (s : State) : (raiseCause c s).pending = s.pending := rfl

@[simp] theorem raiseIf_ms (b : Bool) (c : CauseName) (s : State) : (raiseIf b c s).ms = s.ms := rfl
@[simp] theorem raiseIf_part (b : Bool) (c : CauseName) (s : State) : (raiseIf b c s).part = s.part := rfl
@[simp] theorem raiseIf_resetKind (b : Bool) (c : CauseName) (s : State) : (raiseIf b c s).resetKind = s.resetKind := rfl
@[simp] theorem raiseIf_pins (b : Bool) (c : CauseName) (s : State) : (raiseIf b c s).pins = s.pins := rfl
@[simp] theorem raiseIf_win (b : Bool) (c : CauseName) (s : State) : (raiseIf b c s).win = s.win := rfl
@[simp] theorem raiseIf_ord (b : Bool) (c : CauseName) (s : State) : (raiseIf b c s).ord = s.ord := rfl
@[simp] theorem raiseIf_setup (b : Bool) (c : CauseName) (s : State) : (raiseIf b c s).setup = s.setup := rfl
@[simp] theorem raiseIf_calls (b : Bool) (c : CauseName) (s : State) : (raiseIf b c s).calls = s.calls := rfl
@[simp] theorem raiseIf_alerts (b : Bool) (c : CauseName) (s : State) : (raiseIf b c s).alerts = s.alerts := rfl
@[simp] theorem raiseIf_loop (b : Bool) (c : CauseName) (s : State) : (raiseIf b c s).loop = s.loop := rfl
@[simp] theorem raiseIf_drv (b : Bool) (c : CauseName) (s : State) : (raiseIf b c s).drv = s.drv := rfl
@[simp] theorem raiseIf_attr (b : Bool) (c : CauseName) (s : State) : (raiseIf b c s).attr = s.attr := rfl
@[simp] theorem raiseIf_shift (b : Bool) (c : CauseName) (s : State) : (raiseIf b c s).shift = s.shift := rfl
@[simp] theorem raiseIf_brd (b : Bool) (c : CauseName) (s : State) : (raiseIf b c s).brd = s.brd := rfl
@[simp] theorem raiseIf_jrn (b : Bool) (c : CauseName) (s : State) : (raiseIf b c s).jrn = s.jrn := rfl
@[simp] theorem raiseIf_store (b : Bool) (c : CauseName) (s : State) : (raiseIf b c s).store = s.store := rfl
@[simp] theorem raiseIf_pending (b : Bool) (c : CauseName) (s : State) : (raiseIf b c s).pending = s.pending := rfl

@[simp] theorem clearCauses_ms (w : Word) (s : State) : (clearCauses w s).ms = s.ms := rfl
@[simp] theorem clearCauses_part (w : Word) (s : State) : (clearCauses w s).part = s.part := rfl
@[simp] theorem clearCauses_resetKind (w : Word) (s : State) : (clearCauses w s).resetKind = s.resetKind := rfl
@[simp] theorem clearCauses_pins (w : Word) (s : State) : (clearCauses w s).pins = s.pins := rfl
@[simp] theorem clearCauses_win (w : Word) (s : State) : (clearCauses w s).win = s.win := rfl
@[simp] theorem clearCauses_ord (w : Word) (s : State) : (clearCauses w s).ord = s.ord := rfl
@[simp] theorem clearCauses_setup (w : Word) (s : State) : (clearCauses w s).setup = s.setup := rfl
@[simp] theorem clearCauses_calls (w : Word) (s : State) : (clearCauses w s).calls = s.calls := rfl
@[simp] theorem clearCauses_alerts (w : Word) (s : State) : (clearCauses w s).alerts = s.alerts := rfl
@[simp] theorem clearCauses_loop (w : Word) (s : State) : (clearCauses w s).loop = s.loop := rfl
@[simp] theorem clearCauses_drv (w : Word) (s : State) : (clearCauses w s).drv = s.drv := rfl
@[simp] theorem clearCauses_attr (w : Word) (s : State) : (clearCauses w s).attr = s.attr := rfl
@[simp] theorem clearCauses_shift (w : Word) (s : State) : (clearCauses w s).shift = s.shift := rfl
@[simp] theorem clearCauses_brd (w : Word) (s : State) : (clearCauses w s).brd = s.brd := rfl
@[simp] theorem clearCauses_jrn (w : Word) (s : State) : (clearCauses w s).jrn = s.jrn := rfl
@[simp] theorem clearCauses_store (w : Word) (s : State) : (clearCauses w s).store = s.store := rfl
@[simp] theorem clearCauses_pending (w : Word) (s : State) : (clearCauses w s).pending = s.pending := rfl

@[simp] theorem setMask_ms (w : Word) (s : State) : (setMask w s).ms = s.ms := rfl
@[simp] theorem setMask_part (w : Word) (s : State) : (setMask w s).part = s.part := rfl
@[simp] theorem setMask_resetKind (w : Word) (s : State) : (setMask w s).resetKind = s.resetKind := rfl
@[simp] theorem setMask_pins (w : Word) (s : State) : (setMask w s).pins = s.pins := rfl
@[simp] theorem setMask_win (w : Word) (s : State) : (setMask w s).win = s.win := rfl
@[simp] theorem setMask_ord (w : Word) (s : State) : (setMask w s).ord = s.ord := rfl
@[simp] theorem setMask_setup (w : Word) (s : State) : (setMask w s).setup = s.setup := rfl
@[simp] theorem setMask_calls (w : Word) (s : State) : (setMask w s).calls = s.calls := rfl
@[simp] theorem setMask_alerts (w : Word) (s : State) : (setMask w s).alerts = s.alerts := rfl
@[simp] theorem setMask_loop (w : Word) (s : State) : (setMask w s).loop = s.loop := rfl
@[simp] theorem setMask_drv (w : Word) (s : State) : (setMask w s).drv = s.drv := rfl
@[simp] theorem setMask_attr (w : Word) (s : State) : (setMask w s).attr = s.attr := rfl
@[simp] theorem setMask_shift (w : Word) (s : State) : (setMask w s).shift = s.shift := rfl
@[simp] theorem setMask_brd (w : Word) (s : State) : (setMask w s).brd = s.brd := rfl
@[simp] theorem setMask_jrn (w : Word) (s : State) : (setMask w s).jrn = s.jrn := rfl
@[simp] theorem setMask_store (w : Word) (s : State) : (setMask w s).store = s.store := rfl
@[simp] theorem setMask_pending (w : Word) (s : State) : (setMask w s).pending = s.pending := rfl

@[simp] theorem journal_ms (e : Entry) (s : State) : (journal e s).ms = s.ms := rfl
@[simp] theorem journal_part (e : Entry) (s : State) : (journal e s).part = s.part := rfl
@[simp] theorem journal_resetKind (e : Entry) (s : State) : (journal e s).resetKind = s.resetKind := rfl
@[simp] theorem journal_pins (e : Entry) (s : State) : (journal e s).pins = s.pins := rfl
@[simp] theorem journal_ord (e : Entry) (s : State) : (journal e s).ord = s.ord := rfl
@[simp] theorem journal_setup (e : Entry) (s : State) : (journal e s).setup = s.setup := rfl
@[simp] theorem journal_calls (e : Entry) (s : State) : (journal e s).calls = s.calls := rfl
@[simp] theorem journal_alerts (e : Entry) (s : State) : (journal e s).alerts = s.alerts := rfl
@[simp] theorem journal_loop (e : Entry) (s : State) : (journal e s).loop = s.loop := rfl
@[simp] theorem journal_drv (e : Entry) (s : State) : (journal e s).drv = s.drv := rfl
@[simp] theorem journal_attr (e : Entry) (s : State) : (journal e s).attr = s.attr := rfl
@[simp] theorem journal_shift (e : Entry) (s : State) : (journal e s).shift = s.shift := rfl
@[simp] theorem journal_brd (e : Entry) (s : State) : (journal e s).brd = s.brd := rfl
@[simp] theorem journal_store (e : Entry) (s : State) : (journal e s).store = s.store := rfl
@[simp] theorem journal_pending (e : Entry) (s : State) : (journal e s).pending = s.pending := rfl

@[simp] theorem log_ms (k f n a b : Nat) (s : State) : (log k f n a b s).ms = s.ms := rfl
@[simp] theorem log_part (k f n a b : Nat) (s : State) : (log k f n a b s).part = s.part := rfl
@[simp] theorem log_resetKind (k f n a b : Nat) (s : State) : (log k f n a b s).resetKind = s.resetKind := rfl
@[simp] theorem log_pins (k f n a b : Nat) (s : State) : (log k f n a b s).pins = s.pins := rfl
@[simp] theorem log_ord (k f n a b : Nat) (s : State) : (log k f n a b s).ord = s.ord := rfl
@[simp] theorem log_setup (k f n a b : Nat) (s : State) : (log k f n a b s).setup = s.setup := rfl
@[simp] theorem log_calls (k f n a b : Nat) (s : State) : (log k f n a b s).calls = s.calls := rfl
@[simp] theorem log_alerts (k f n a b : Nat) (s : State) : (log k f n a b s).alerts = s.alerts := rfl
@[simp] theorem log_loop (k f n a b : Nat) (s : State) : (log k f n a b s).loop = s.loop := rfl
@[simp] theorem log_drv (k f n a b : Nat) (s : State) : (log k f n a b s).drv = s.drv := rfl
@[simp] theorem log_attr (k f n a b : Nat) (s : State) : (log k f n a b s).attr = s.attr := rfl
@[simp] theorem log_shift (k f n a b : Nat) (s : State) : (log k f n a b s).shift = s.shift := rfl
@[simp] theorem log_brd (k f n a b : Nat) (s : State) : (log k f n a b s).brd = s.brd := rfl
@[simp] theorem log_store (k f n a b : Nat) (s : State) : (log k f n a b s).store = s.store := rfl
@[simp] theorem log_pending (k f n a b : Nat) (s : State) : (log k f n a b s).pending = s.pending := rfl

@[simp] theorem logAt_ms (t k f n a b : Nat) (s : State) : (logAt t k f n a b s).ms = s.ms := rfl
@[simp] theorem logAt_part (t k f n a b : Nat) (s : State) : (logAt t k f n a b s).part = s.part := rfl
@[simp] theorem logAt_resetKind (t k f n a b : Nat) (s : State) : (logAt t k f n a b s).resetKind = s.resetKind := rfl
@[simp] theorem logAt_pins (t k f n a b : Nat) (s : State) : (logAt t k f n a b s).pins = s.pins := rfl
@[simp] theorem logAt_ord (t k f n a b : Nat) (s : State) : (logAt t k f n a b s).ord = s.ord := rfl
@[simp] theorem logAt_setup (t k f n a b : Nat) (s : State) : (logAt t k f n a b s).setup = s.setup := rfl
@[simp] theorem logAt_calls (t k f n a b : Nat) (s : State) : (logAt t k f n a b s).calls = s.calls := rfl
@[simp] theorem logAt_alerts (t k f n a b : Nat) (s : State) : (logAt t k f n a b s).alerts = s.alerts := rfl
@[simp] theorem logAt_loop (t k f n a b : Nat) (s : State) : (logAt t k f n a b s).loop = s.loop := rfl
@[simp] theorem logAt_drv (t k f n a b : Nat) (s : State) : (logAt t k f n a b s).drv = s.drv := rfl
@[simp] theorem logAt_attr (t k f n a b : Nat) (s : State) : (logAt t k f n a b s).attr = s.attr := rfl
@[simp] theorem logAt_shift (t k f n a b : Nat) (s : State) : (logAt t k f n a b s).shift = s.shift := rfl
@[simp] theorem logAt_brd (t k f n a b : Nat) (s : State) : (logAt t k f n a b s).brd = s.brd := rfl
@[simp] theorem logAt_store (t k f n a b : Nat) (s : State) : (logAt t k f n a b s).store = s.store := rfl
@[simp] theorem logAt_pending (t k f n a b : Nat) (s : State) : (logAt t k f n a b s).pending = s.pending := rfl

@[simp] theorem readTake_ms (s : State) : (readTake s).ms = s.ms := rfl
@[simp] theorem readTake_part (s : State) : (readTake s).part = s.part := rfl
@[simp] theorem readTake_resetKind (s : State) : (readTake s).resetKind = s.resetKind := rfl
@[simp] theorem readTake_pins (s : State) : (readTake s).pins = s.pins := rfl
@[simp] theorem readTake_ord (s : State) : (readTake s).ord = s.ord := rfl
@[simp] theorem readTake_setup (s : State) : (readTake s).setup = s.setup := rfl
@[simp] theorem readTake_calls (s : State) : (readTake s).calls = s.calls := rfl
@[simp] theorem readTake_alerts (s : State) : (readTake s).alerts = s.alerts := rfl
@[simp] theorem readTake_loop (s : State) : (readTake s).loop = s.loop := rfl
@[simp] theorem readTake_drv (s : State) : (readTake s).drv = s.drv := rfl
@[simp] theorem readTake_attr (s : State) : (readTake s).attr = s.attr := rfl
@[simp] theorem readTake_shift (s : State) : (readTake s).shift = s.shift := rfl
@[simp] theorem readTake_brd (s : State) : (readTake s).brd = s.brd := rfl
@[simp] theorem readTake_store (s : State) : (readTake s).store = s.store := rfl
@[simp] theorem readTake_pending (s : State) : (readTake s).pending = s.pending := rfl

/-! ### Updates of time, and what closes every event -/

@[simp] theorem reach_part (t : Nat) (s : State) : (s.reach t).part = s.part := rfl
@[simp] theorem reach_resetKind (t : Nat) (s : State) : (s.reach t).resetKind = s.resetKind := rfl
@[simp] theorem reach_pins (t : Nat) (s : State) : (s.reach t).pins = s.pins := rfl
@[simp] theorem reach_win (t : Nat) (s : State) : (s.reach t).win = s.win := rfl
@[simp] theorem reach_ord (t : Nat) (s : State) : (s.reach t).ord = s.ord := rfl
@[simp] theorem reach_setup (t : Nat) (s : State) : (s.reach t).setup = s.setup := rfl
@[simp] theorem reach_calls (t : Nat) (s : State) : (s.reach t).calls = s.calls := rfl
@[simp] theorem reach_alerts (t : Nat) (s : State) : (s.reach t).alerts = s.alerts := rfl
@[simp] theorem reach_loop (t : Nat) (s : State) : (s.reach t).loop = s.loop := rfl
@[simp] theorem reach_drv (t : Nat) (s : State) : (s.reach t).drv = s.drv := rfl
@[simp] theorem reach_attr (t : Nat) (s : State) : (s.reach t).attr = s.attr := rfl
@[simp] theorem reach_shift (t : Nat) (s : State) : (s.reach t).shift = s.shift := rfl
@[simp] theorem reach_brd (t : Nat) (s : State) : (s.reach t).brd = s.brd := rfl
@[simp] theorem reach_jrn (t : Nat) (s : State) : (s.reach t).jrn = s.jrn := rfl
@[simp] theorem reach_irq (t : Nat) (s : State) : (s.reach t).irq = s.irq := rfl
@[simp] theorem reach_store (t : Nat) (s : State) : (s.reach t).store = s.store := rfl
@[simp] theorem reach_pending (t : Nat) (s : State) : (s.reach t).pending = s.pending := rfl

@[simp] theorem refreshDisplays_ms (s : State) : (refreshDisplays s).ms = s.ms := by unfold refreshDisplays; rfl
@[simp] theorem refreshDisplays_part (s : State) : (refreshDisplays s).part = s.part := by unfold refreshDisplays; rfl
@[simp] theorem refreshDisplays_resetKind (s : State) : (refreshDisplays s).resetKind = s.resetKind := by unfold refreshDisplays; rfl
@[simp] theorem refreshDisplays_pins (s : State) : (refreshDisplays s).pins = s.pins := by unfold refreshDisplays; rfl
@[simp] theorem refreshDisplays_ord (s : State) : (refreshDisplays s).ord = s.ord := by unfold refreshDisplays; rfl
@[simp] theorem refreshDisplays_setup (s : State) : (refreshDisplays s).setup = s.setup := by unfold refreshDisplays; rfl
@[simp] theorem refreshDisplays_calls (s : State) : (refreshDisplays s).calls = s.calls := by unfold refreshDisplays; rfl
@[simp] theorem refreshDisplays_alerts (s : State) : (refreshDisplays s).alerts = s.alerts := by unfold refreshDisplays; rfl
@[simp] theorem refreshDisplays_loop (s : State) : (refreshDisplays s).loop = s.loop := by unfold refreshDisplays; rfl
@[simp] theorem refreshDisplays_attr (s : State) : (refreshDisplays s).attr = s.attr := by unfold refreshDisplays; rfl
@[simp] theorem refreshDisplays_shift (s : State) : (refreshDisplays s).shift = s.shift := by unfold refreshDisplays; rfl
@[simp] theorem refreshDisplays_brd (s : State) : (refreshDisplays s).brd = s.brd := by unfold refreshDisplays; rfl
@[simp] theorem refreshDisplays_jrn (s : State) : (refreshDisplays s).jrn = s.jrn := by unfold refreshDisplays; rfl
@[simp] theorem refreshDisplays_irq (s : State) : (refreshDisplays s).irq = s.irq := by unfold refreshDisplays; rfl
@[simp] theorem refreshDisplays_store (s : State) : (refreshDisplays s).store = s.store := by unfold refreshDisplays; rfl
@[simp] theorem refreshDisplays_pending (s : State) : (refreshDisplays s).pending = s.pending := by unfold refreshDisplays; rfl
@[simp] theorem refreshDisplays_drv_drives (s : State) : (refreshDisplays s).drv.drives = s.drv.drives := by unfold refreshDisplays; rfl
@[simp] theorem refreshDisplays_drv_buffers (s : State) : (refreshDisplays s).drv.buffers = s.drv.buffers := by unfold refreshDisplays; rfl

@[simp] theorem renderFields_ms (b : Bool) (old : State) (s : State) : (renderFields b old s).ms = s.ms := rfl
@[simp] theorem renderFields_part (b : Bool) (old : State) (s : State) : (renderFields b old s).part = s.part := rfl
@[simp] theorem renderFields_resetKind (b : Bool) (old : State) (s : State) : (renderFields b old s).resetKind = s.resetKind := rfl
@[simp] theorem renderFields_pins (b : Bool) (old : State) (s : State) : (renderFields b old s).pins = s.pins := rfl
@[simp] theorem renderFields_ord (b : Bool) (old : State) (s : State) : (renderFields b old s).ord = s.ord := rfl
@[simp] theorem renderFields_setup (b : Bool) (old : State) (s : State) : (renderFields b old s).setup = s.setup := rfl
@[simp] theorem renderFields_calls (b : Bool) (old : State) (s : State) : (renderFields b old s).calls = s.calls := rfl
@[simp] theorem renderFields_alerts (b : Bool) (old : State) (s : State) : (renderFields b old s).alerts = s.alerts := rfl
@[simp] theorem renderFields_loop (b : Bool) (old : State) (s : State) : (renderFields b old s).loop = s.loop := rfl
@[simp] theorem renderFields_drv (b : Bool) (old : State) (s : State) : (renderFields b old s).drv = s.drv := rfl
@[simp] theorem renderFields_attr (b : Bool) (old : State) (s : State) : (renderFields b old s).attr = s.attr := rfl
@[simp] theorem renderFields_shift (b : Bool) (old : State) (s : State) : (renderFields b old s).shift = s.shift := rfl
@[simp] theorem renderFields_jrn (b : Bool) (old : State) (s : State) : (renderFields b old s).jrn = s.jrn := rfl
@[simp] theorem renderFields_irq (b : Bool) (old : State) (s : State) : (renderFields b old s).irq = s.irq := rfl
@[simp] theorem renderFields_store (b : Bool) (old : State) (s : State) : (renderFields b old s).store = s.store := rfl
@[simp] theorem renderFields_pending (b : Bool) (old : State) (s : State) : (renderFields b old s).pending = s.pending := rfl
@[simp] theorem renderFields_win (b : Bool) (old : State) (s : State) : (renderFields b old s).win = s.win := rfl
@[simp] theorem renderFields_brd_links (b : Bool) (old : State) (s : State) : (renderFields b old s).brd.links = s.brd.links := rfl
@[simp] theorem renderFields_brd_scale (b : Bool) (old : State) (s : State) : (renderFields b old s).brd.scale = s.brd.scale := rfl
@[simp] theorem renderFields_brd_refresh (b : Bool) (old : State) (s : State) : (renderFields b old s).brd.refresh = s.brd.refresh := rfl

@[simp] theorem rewriteBoards_ms (old : State) (s : State) : (rewriteBoards old s).ms = s.ms := rfl
@[simp] theorem rewriteBoards_part (old : State) (s : State) : (rewriteBoards old s).part = s.part := rfl
@[simp] theorem rewriteBoards_resetKind (old : State) (s : State) : (rewriteBoards old s).resetKind = s.resetKind := rfl
@[simp] theorem rewriteBoards_pins (old : State) (s : State) : (rewriteBoards old s).pins = s.pins := rfl
@[simp] theorem rewriteBoards_ord (old : State) (s : State) : (rewriteBoards old s).ord = s.ord := rfl
@[simp] theorem rewriteBoards_setup (old : State) (s : State) : (rewriteBoards old s).setup = s.setup := rfl
@[simp] theorem rewriteBoards_calls (old : State) (s : State) : (rewriteBoards old s).calls = s.calls := rfl
@[simp] theorem rewriteBoards_alerts (old : State) (s : State) : (rewriteBoards old s).alerts = s.alerts := rfl
@[simp] theorem rewriteBoards_loop (old : State) (s : State) : (rewriteBoards old s).loop = s.loop := rfl
@[simp] theorem rewriteBoards_drv (old : State) (s : State) : (rewriteBoards old s).drv = s.drv := rfl
@[simp] theorem rewriteBoards_attr (old : State) (s : State) : (rewriteBoards old s).attr = s.attr := rfl
@[simp] theorem rewriteBoards_shift (old : State) (s : State) : (rewriteBoards old s).shift = s.shift := rfl
@[simp] theorem rewriteBoards_brd (old : State) (s : State) : (rewriteBoards old s).brd = s.brd := rfl
@[simp] theorem rewriteBoards_jrn (old : State) (s : State) : (rewriteBoards old s).jrn = s.jrn := rfl
@[simp] theorem rewriteBoards_irq (old : State) (s : State) : (rewriteBoards old s).irq = s.irq := rfl
@[simp] theorem rewriteBoards_store (old : State) (s : State) : (rewriteBoards old s).store = s.store := rfl
@[simp] theorem rewriteBoards_pending (old : State) (s : State) : (rewriteBoards old s).pending = s.pending := rfl

@[simp] theorem follow_ms (old : State) (s : State) : (follow old s).ms = s.ms := by simp only [follow, renderFields_ms, refreshDisplays_ms]
@[simp] theorem follow_part (old : State) (s : State) : (follow old s).part = s.part := by simp only [follow, renderFields_part, refreshDisplays_part]
@[simp] theorem follow_resetKind (old : State) (s : State) : (follow old s).resetKind = s.resetKind := by simp only [follow, renderFields_resetKind, refreshDisplays_resetKind]
@[simp] theorem follow_pins (old : State) (s : State) : (follow old s).pins = s.pins := by simp only [follow, renderFields_pins, refreshDisplays_pins]
@[simp] theorem follow_ord (old : State) (s : State) : (follow old s).ord = s.ord := by simp only [follow, renderFields_ord, refreshDisplays_ord]
@[simp] theorem follow_setup (old : State) (s : State) : (follow old s).setup = s.setup := by simp only [follow, renderFields_setup, refreshDisplays_setup]
@[simp] theorem follow_calls (old : State) (s : State) : (follow old s).calls = s.calls := by simp only [follow, renderFields_calls, refreshDisplays_calls]
@[simp] theorem follow_alerts (old : State) (s : State) : (follow old s).alerts = s.alerts := by simp only [follow, renderFields_alerts, refreshDisplays_alerts]
@[simp] theorem follow_loop (old : State) (s : State) : (follow old s).loop = s.loop := by simp only [follow, renderFields_loop, refreshDisplays_loop]
@[simp] theorem follow_attr (old : State) (s : State) : (follow old s).attr = s.attr := by simp only [follow, renderFields_attr, refreshDisplays_attr]
@[simp] theorem follow_shift (old : State) (s : State) : (follow old s).shift = s.shift := by simp only [follow, renderFields_shift, refreshDisplays_shift]
@[simp] theorem follow_jrn (old : State) (s : State) : (follow old s).jrn = s.jrn := by simp only [follow, renderFields_jrn, refreshDisplays_jrn]
@[simp] theorem follow_irq (old : State) (s : State) : (follow old s).irq = s.irq := by simp only [follow, renderFields_irq, refreshDisplays_irq]
@[simp] theorem follow_store (old : State) (s : State) : (follow old s).store = s.store := by simp only [follow, renderFields_store, refreshDisplays_store]
@[simp] theorem follow_pending (old : State) (s : State) : (follow old s).pending = s.pending := by simp only [follow, renderFields_pending, refreshDisplays_pending]
@[simp] theorem follow_drv_drives (old : State) (s : State) : (follow old s).drv.drives = s.drv.drives := by simp only [follow, renderFields_drv, refreshDisplays_drv_drives]
@[simp] theorem follow_drv_buffers (old : State) (s : State) : (follow old s).drv.buffers = s.drv.buffers := by simp only [follow, renderFields_drv, refreshDisplays_drv_buffers]
@[simp] theorem follow_brd_links (old : State) (s : State) : (follow old s).brd.links = s.brd.links := by simp only [follow, renderFields_brd_links, refreshDisplays_brd]
@[simp] theorem follow_brd_scale (old : State) (s : State) : (follow old s).brd.scale = s.brd.scale := by simp only [follow, renderFields_brd_scale, refreshDisplays_brd]
@[simp] theorem follow_brd_refresh (old : State) (s : State) : (follow old s).brd.refresh = s.brd.refresh := by simp only [follow, renderFields_brd_refresh, refreshDisplays_brd]

@[simp] theorem settle_ms (old : State) (s : State) : (settle old s).ms = s.ms := by simp only [settle, rewriteBoards_ms, follow_ms]
@[simp] theorem settle_part (old : State) (s : State) : (settle old s).part = s.part := by simp only [settle, rewriteBoards_part, follow_part]
@[simp] theorem settle_resetKind (old : State) (s : State) : (settle old s).resetKind = s.resetKind := by simp only [settle, rewriteBoards_resetKind, follow_resetKind]
@[simp] theorem settle_pins (old : State) (s : State) : (settle old s).pins = s.pins := by simp only [settle, rewriteBoards_pins, follow_pins]
@[simp] theorem settle_ord (old : State) (s : State) : (settle old s).ord = s.ord := by simp only [settle, rewriteBoards_ord, follow_ord]
@[simp] theorem settle_setup (old : State) (s : State) : (settle old s).setup = s.setup := by simp only [settle, rewriteBoards_setup, follow_setup]
@[simp] theorem settle_calls (old : State) (s : State) : (settle old s).calls = s.calls := by simp only [settle, rewriteBoards_calls, follow_calls]
@[simp] theorem settle_alerts (old : State) (s : State) : (settle old s).alerts = s.alerts := by simp only [settle, rewriteBoards_alerts, follow_alerts]
@[simp] theorem settle_loop (old : State) (s : State) : (settle old s).loop = s.loop := by simp only [settle, rewriteBoards_loop, follow_loop]
@[simp] theorem settle_attr (old : State) (s : State) : (settle old s).attr = s.attr := by simp only [settle, rewriteBoards_attr, follow_attr]
@[simp] theorem settle_shift (old : State) (s : State) : (settle old s).shift = s.shift := by simp only [settle, rewriteBoards_shift, follow_shift]
@[simp] theorem settle_jrn (old : State) (s : State) : (settle old s).jrn = s.jrn := by simp only [settle, rewriteBoards_jrn, follow_jrn]
@[simp] theorem settle_irq (old : State) (s : State) : (settle old s).irq = s.irq := by simp only [settle, rewriteBoards_irq, follow_irq]
@[simp] theorem settle_store (old : State) (s : State) : (settle old s).store = s.store := by simp only [settle, rewriteBoards_store, follow_store]
@[simp] theorem settle_pending (old : State) (s : State) : (settle old s).pending = s.pending := by simp only [settle, rewriteBoards_pending, follow_pending]
@[simp] theorem settle_drv_drives (old : State) (s : State) : (settle old s).drv.drives = s.drv.drives := by simp only [settle, rewriteBoards_drv, follow_drv_drives]
@[simp] theorem settle_drv_buffers (old : State) (s : State) : (settle old s).drv.buffers = s.drv.buffers := by simp only [settle, rewriteBoards_drv, follow_drv_buffers]
@[simp] theorem settle_brd_links (old : State) (s : State) : (settle old s).brd.links = s.brd.links := by simp only [settle, rewriteBoards_brd, follow_brd_links]
@[simp] theorem settle_brd_scale (old : State) (s : State) : (settle old s).brd.scale = s.brd.scale := by simp only [settle, rewriteBoards_brd, follow_brd_scale]
@[simp] theorem settle_brd_refresh (old : State) (s : State) : (settle old s).brd.refresh = s.brd.refresh := by simp only [settle, rewriteBoards_brd, follow_brd_refresh]

@[simp] theorem followed_ms (s t : State) : (followed s t).ms = s.ms := rfl
@[simp] theorem followed_part (s t : State) : (followed s t).part = s.part := rfl
@[simp] theorem followed_resetKind (s t : State) : (followed s t).resetKind = s.resetKind := rfl
@[simp] theorem followed_pins (s t : State) : (followed s t).pins = s.pins := rfl
@[simp] theorem followed_win (s t : State) : (followed s t).win = s.win := rfl
@[simp] theorem followed_ord (s t : State) : (followed s t).ord = s.ord := rfl
@[simp] theorem followed_setup (s t : State) : (followed s t).setup = s.setup := rfl
@[simp] theorem followed_calls (s t : State) : (followed s t).calls = s.calls := rfl
@[simp] theorem followed_alerts (s t : State) : (followed s t).alerts = s.alerts := rfl
@[simp] theorem followed_loop (s t : State) : (followed s t).loop = s.loop := rfl
@[simp] theorem followed_attr (s t : State) : (followed s t).attr = s.attr := rfl
@[simp] theorem followed_shift (s t : State) : (followed s t).shift = s.shift := rfl
@[simp] theorem followed_jrn (s t : State) : (followed s t).jrn = s.jrn := rfl
@[simp] theorem followed_irq (s t : State) : (followed s t).irq = s.irq := rfl
@[simp] theorem followed_store (s t : State) : (followed s t).store = s.store := rfl
@[simp] theorem followed_pending (s t : State) : (followed s t).pending = s.pending := rfl
@[simp] theorem followed_drv_drives (s t : State) : (followed s t).drv.drives = s.drv.drives := rfl
@[simp] theorem followed_drv_buffers (s t : State) : (followed s t).drv.buffers = s.drv.buffers := rfl
@[simp] theorem followed_drv_display (s t : State) : (followed s t).drv.display = t.drv.display := rfl
@[simp] theorem followed_brd_links (s t : State) : (followed s t).brd.links = s.brd.links := rfl
@[simp] theorem followed_brd_scale (s t : State) : (followed s t).brd.scale = s.brd.scale := rfl
@[simp] theorem followed_brd_refresh (s t : State) : (followed s t).brd.refresh = s.brd.refresh := rfl

@[simp] theorem renderAll_ms (s : State) : (renderAll s).ms = s.ms := rfl
@[simp] theorem renderAll_part (s : State) : (renderAll s).part = s.part := rfl
@[simp] theorem renderAll_resetKind (s : State) : (renderAll s).resetKind = s.resetKind := rfl
@[simp] theorem renderAll_pins (s : State) : (renderAll s).pins = s.pins := rfl
@[simp] theorem renderAll_ord (s : State) : (renderAll s).ord = s.ord := rfl
@[simp] theorem renderAll_setup (s : State) : (renderAll s).setup = s.setup := rfl
@[simp] theorem renderAll_calls (s : State) : (renderAll s).calls = s.calls := rfl
@[simp] theorem renderAll_alerts (s : State) : (renderAll s).alerts = s.alerts := rfl
@[simp] theorem renderAll_loop (s : State) : (renderAll s).loop = s.loop := rfl
@[simp] theorem renderAll_drv (s : State) : (renderAll s).drv = s.drv := rfl
@[simp] theorem renderAll_attr (s : State) : (renderAll s).attr = s.attr := rfl
@[simp] theorem renderAll_shift (s : State) : (renderAll s).shift = s.shift := rfl
@[simp] theorem renderAll_jrn (s : State) : (renderAll s).jrn = s.jrn := rfl
@[simp] theorem renderAll_irq (s : State) : (renderAll s).irq = s.irq := rfl
@[simp] theorem renderAll_store (s : State) : (renderAll s).store = s.store := rfl
@[simp] theorem renderAll_pending (s : State) : (renderAll s).pending = s.pending := rfl

/-! ### Updates of the order unit (chapter 1) -/

@[simp] theorem answerSlot_ms (k : Fin 24) (n : Bool) (g : Half) (x : Answer) (s : State) : (answerSlot k n g x s).ms = s.ms := rfl
@[simp] theorem answerSlot_part (k : Fin 24) (n : Bool) (g : Half) (x : Answer) (s : State) : (answerSlot k n g x s).part = s.part := rfl
@[simp] theorem answerSlot_resetKind (k : Fin 24) (n : Bool) (g : Half) (x : Answer) (s : State) : (answerSlot k n g x s).resetKind = s.resetKind := rfl
@[simp] theorem answerSlot_pins (k : Fin 24) (n : Bool) (g : Half) (x : Answer) (s : State) : (answerSlot k n g x s).pins = s.pins := rfl
@[simp] theorem answerSlot_ord (k : Fin 24) (n : Bool) (g : Half) (x : Answer) (s : State) : (answerSlot k n g x s).ord = s.ord := rfl
@[simp] theorem answerSlot_setup (k : Fin 24) (n : Bool) (g : Half) (x : Answer) (s : State) : (answerSlot k n g x s).setup = s.setup := rfl
@[simp] theorem answerSlot_calls (k : Fin 24) (n : Bool) (g : Half) (x : Answer) (s : State) : (answerSlot k n g x s).calls = s.calls := rfl
@[simp] theorem answerSlot_alerts (k : Fin 24) (n : Bool) (g : Half) (x : Answer) (s : State) : (answerSlot k n g x s).alerts = s.alerts := rfl
@[simp] theorem answerSlot_loop (k : Fin 24) (n : Bool) (g : Half) (x : Answer) (s : State) : (answerSlot k n g x s).loop = s.loop := rfl
@[simp] theorem answerSlot_drv (k : Fin 24) (n : Bool) (g : Half) (x : Answer) (s : State) : (answerSlot k n g x s).drv = s.drv := rfl
@[simp] theorem answerSlot_attr (k : Fin 24) (n : Bool) (g : Half) (x : Answer) (s : State) : (answerSlot k n g x s).attr = s.attr := rfl
@[simp] theorem answerSlot_shift (k : Fin 24) (n : Bool) (g : Half) (x : Answer) (s : State) : (answerSlot k n g x s).shift = s.shift := rfl
@[simp] theorem answerSlot_brd (k : Fin 24) (n : Bool) (g : Half) (x : Answer) (s : State) : (answerSlot k n g x s).brd = s.brd := rfl
@[simp] theorem answerSlot_jrn (k : Fin 24) (n : Bool) (g : Half) (x : Answer) (s : State) : (answerSlot k n g x s).jrn = s.jrn := rfl
@[simp] theorem answerSlot_store (k : Fin 24) (n : Bool) (g : Half) (x : Answer) (s : State) : (answerSlot k n g x s).store = s.store := rfl
@[simp] theorem answerSlot_pending (k : Fin 24) (n : Bool) (g : Half) (x : Answer) (s : State) : (answerSlot k n g x s).pending = s.pending := rfl

@[simp] theorem acceptSlot_ms (k : Fin 24) (n : Bool) (g : Half) (s : State) : (acceptSlot k n g s).ms = s.ms := rfl
@[simp] theorem acceptSlot_part (k : Fin 24) (n : Bool) (g : Half) (s : State) : (acceptSlot k n g s).part = s.part := rfl
@[simp] theorem acceptSlot_resetKind (k : Fin 24) (n : Bool) (g : Half) (s : State) : (acceptSlot k n g s).resetKind = s.resetKind := rfl
@[simp] theorem acceptSlot_pins (k : Fin 24) (n : Bool) (g : Half) (s : State) : (acceptSlot k n g s).pins = s.pins := rfl
@[simp] theorem acceptSlot_setup (k : Fin 24) (n : Bool) (g : Half) (s : State) : (acceptSlot k n g s).setup = s.setup := rfl
@[simp] theorem acceptSlot_calls (k : Fin 24) (n : Bool) (g : Half) (s : State) : (acceptSlot k n g s).calls = s.calls := rfl
@[simp] theorem acceptSlot_alerts (k : Fin 24) (n : Bool) (g : Half) (s : State) : (acceptSlot k n g s).alerts = s.alerts := rfl
@[simp] theorem acceptSlot_loop (k : Fin 24) (n : Bool) (g : Half) (s : State) : (acceptSlot k n g s).loop = s.loop := rfl
@[simp] theorem acceptSlot_drv (k : Fin 24) (n : Bool) (g : Half) (s : State) : (acceptSlot k n g s).drv = s.drv := rfl
@[simp] theorem acceptSlot_attr (k : Fin 24) (n : Bool) (g : Half) (s : State) : (acceptSlot k n g s).attr = s.attr := rfl
@[simp] theorem acceptSlot_shift (k : Fin 24) (n : Bool) (g : Half) (s : State) : (acceptSlot k n g s).shift = s.shift := rfl
@[simp] theorem acceptSlot_brd (k : Fin 24) (n : Bool) (g : Half) (s : State) : (acceptSlot k n g s).brd = s.brd := rfl
@[simp] theorem acceptSlot_jrn (k : Fin 24) (n : Bool) (g : Half) (s : State) : (acceptSlot k n g s).jrn = s.jrn := rfl
@[simp] theorem acceptSlot_irq (k : Fin 24) (n : Bool) (g : Half) (s : State) : (acceptSlot k n g s).irq = s.irq := rfl
@[simp] theorem acceptSlot_store (k : Fin 24) (n : Bool) (g : Half) (s : State) : (acceptSlot k n g s).store = s.store := rfl
@[simp] theorem acceptSlot_pending (k : Fin 24) (n : Bool) (g : Half) (s : State) : (acceptSlot k n g s).pending = s.pending := rfl

@[simp] theorem postSlot_ms (p : Post) (o : Order) (s : State) : (postSlot p o s).ms = s.ms := rfl
@[simp] theorem postSlot_part (p : Post) (o : Order) (s : State) : (postSlot p o s).part = s.part := rfl
@[simp] theorem postSlot_resetKind (p : Post) (o : Order) (s : State) : (postSlot p o s).resetKind = s.resetKind := rfl
@[simp] theorem postSlot_ord (p : Post) (o : Order) (s : State) : (postSlot p o s).ord = s.ord := rfl
@[simp] theorem postSlot_setup (p : Post) (o : Order) (s : State) : (postSlot p o s).setup = s.setup := rfl
@[simp] theorem postSlot_calls (p : Post) (o : Order) (s : State) : (postSlot p o s).calls = s.calls := rfl
@[simp] theorem postSlot_alerts (p : Post) (o : Order) (s : State) : (postSlot p o s).alerts = s.alerts := rfl
@[simp] theorem postSlot_loop (p : Post) (o : Order) (s : State) : (postSlot p o s).loop = s.loop := rfl
@[simp] theorem postSlot_drv (p : Post) (o : Order) (s : State) : (postSlot p o s).drv = s.drv := rfl
@[simp] theorem postSlot_attr (p : Post) (o : Order) (s : State) : (postSlot p o s).attr = s.attr := rfl
@[simp] theorem postSlot_shift (p : Post) (o : Order) (s : State) : (postSlot p o s).shift = s.shift := rfl
@[simp] theorem postSlot_brd (p : Post) (o : Order) (s : State) : (postSlot p o s).brd = s.brd := rfl
@[simp] theorem postSlot_jrn (p : Post) (o : Order) (s : State) : (postSlot p o s).jrn = s.jrn := rfl
@[simp] theorem postSlot_irq (p : Post) (o : Order) (s : State) : (postSlot p o s).irq = s.irq := rfl
@[simp] theorem postSlot_store (p : Post) (o : Order) (s : State) : (postSlot p o s).store = s.store := rfl
@[simp] theorem postSlot_pending (p : Post) (o : Order) (s : State) : (postSlot p o s).pending = s.pending := rfl

@[simp] theorem dropWork_ms (k : Fin 24) (s : State) : (dropWork k s).ms = s.ms := rfl
@[simp] theorem dropWork_part (k : Fin 24) (s : State) : (dropWork k s).part = s.part := rfl
@[simp] theorem dropWork_resetKind (k : Fin 24) (s : State) : (dropWork k s).resetKind = s.resetKind := rfl
@[simp] theorem dropWork_pins (k : Fin 24) (s : State) : (dropWork k s).pins = s.pins := rfl
@[simp] theorem dropWork_win (k : Fin 24) (s : State) : (dropWork k s).win = s.win := rfl
@[simp] theorem dropWork_setup (k : Fin 24) (s : State) : (dropWork k s).setup = s.setup := rfl
@[simp] theorem dropWork_calls (k : Fin 24) (s : State) : (dropWork k s).calls = s.calls := rfl
@[simp] theorem dropWork_alerts (k : Fin 24) (s : State) : (dropWork k s).alerts = s.alerts := rfl
@[simp] theorem dropWork_loop (k : Fin 24) (s : State) : (dropWork k s).loop = s.loop := rfl
@[simp] theorem dropWork_drv (k : Fin 24) (s : State) : (dropWork k s).drv = s.drv := rfl
@[simp] theorem dropWork_attr (k : Fin 24) (s : State) : (dropWork k s).attr = s.attr := rfl
@[simp] theorem dropWork_shift (k : Fin 24) (s : State) : (dropWork k s).shift = s.shift := rfl
@[simp] theorem dropWork_brd (k : Fin 24) (s : State) : (dropWork k s).brd = s.brd := rfl
@[simp] theorem dropWork_jrn (k : Fin 24) (s : State) : (dropWork k s).jrn = s.jrn := rfl
@[simp] theorem dropWork_irq (k : Fin 24) (s : State) : (dropWork k s).irq = s.irq := rfl
@[simp] theorem dropWork_store (k : Fin 24) (s : State) : (dropWork k s).store = s.store := rfl
@[simp] theorem dropWork_pending (k : Fin 24) (s : State) : (dropWork k s).pending = s.pending := rfl

@[simp] theorem beginScan_ms (s : State) : (beginScan s).ms = s.ms := rfl
@[simp] theorem beginScan_part (s : State) : (beginScan s).part = s.part := rfl
@[simp] theorem beginScan_resetKind (s : State) : (beginScan s).resetKind = s.resetKind := rfl
@[simp] theorem beginScan_pins (s : State) : (beginScan s).pins = s.pins := rfl
@[simp] theorem beginScan_win (s : State) : (beginScan s).win = s.win := rfl
@[simp] theorem beginScan_setup (s : State) : (beginScan s).setup = s.setup := rfl
@[simp] theorem beginScan_calls (s : State) : (beginScan s).calls = s.calls := rfl
@[simp] theorem beginScan_alerts (s : State) : (beginScan s).alerts = s.alerts := rfl
@[simp] theorem beginScan_loop (s : State) : (beginScan s).loop = s.loop := rfl
@[simp] theorem beginScan_drv (s : State) : (beginScan s).drv = s.drv := rfl
@[simp] theorem beginScan_attr (s : State) : (beginScan s).attr = s.attr := rfl
@[simp] theorem beginScan_shift (s : State) : (beginScan s).shift = s.shift := rfl
@[simp] theorem beginScan_brd (s : State) : (beginScan s).brd = s.brd := rfl
@[simp] theorem beginScan_jrn (s : State) : (beginScan s).jrn = s.jrn := rfl
@[simp] theorem beginScan_irq (s : State) : (beginScan s).irq = s.irq := rfl
@[simp] theorem beginScan_store (s : State) : (beginScan s).store = s.store := rfl
@[simp] theorem beginScan_pending (s : State) : (beginScan s).pending = s.pending := rfl

@[simp] theorem startScanTimer_ms (s : State) : (startScanTimer s).ms = s.ms := rfl
@[simp] theorem startScanTimer_part (s : State) : (startScanTimer s).part = s.part := rfl
@[simp] theorem startScanTimer_resetKind (s : State) : (startScanTimer s).resetKind = s.resetKind := rfl
@[simp] theorem startScanTimer_pins (s : State) : (startScanTimer s).pins = s.pins := rfl
@[simp] theorem startScanTimer_win (s : State) : (startScanTimer s).win = s.win := rfl
@[simp] theorem startScanTimer_setup (s : State) : (startScanTimer s).setup = s.setup := rfl
@[simp] theorem startScanTimer_calls (s : State) : (startScanTimer s).calls = s.calls := rfl
@[simp] theorem startScanTimer_alerts (s : State) : (startScanTimer s).alerts = s.alerts := rfl
@[simp] theorem startScanTimer_loop (s : State) : (startScanTimer s).loop = s.loop := rfl
@[simp] theorem startScanTimer_drv (s : State) : (startScanTimer s).drv = s.drv := rfl
@[simp] theorem startScanTimer_attr (s : State) : (startScanTimer s).attr = s.attr := rfl
@[simp] theorem startScanTimer_shift (s : State) : (startScanTimer s).shift = s.shift := rfl
@[simp] theorem startScanTimer_brd (s : State) : (startScanTimer s).brd = s.brd := rfl
@[simp] theorem startScanTimer_jrn (s : State) : (startScanTimer s).jrn = s.jrn := rfl
@[simp] theorem startScanTimer_irq (s : State) : (startScanTimer s).irq = s.irq := rfl
@[simp] theorem startScanTimer_store (s : State) : (startScanTimer s).store = s.store := rfl
@[simp] theorem startScanTimer_pending (s : State) : (startScanTimer s).pending = s.pending := rfl

/-! ### Updates of one block's own state -/

@[simp] theorem setCall_ms (n : Fin 160) (k : Kind) (c : Option Call) (s : State) : (setCall n k c s).ms = s.ms := rfl
@[simp] theorem setCall_part (n : Fin 160) (k : Kind) (c : Option Call) (s : State) : (setCall n k c s).part = s.part := rfl
@[simp] theorem setCall_resetKind (n : Fin 160) (k : Kind) (c : Option Call) (s : State) : (setCall n k c s).resetKind = s.resetKind := rfl
@[simp] theorem setCall_pins (n : Fin 160) (k : Kind) (c : Option Call) (s : State) : (setCall n k c s).pins = s.pins := rfl
@[simp] theorem setCall_win (n : Fin 160) (k : Kind) (c : Option Call) (s : State) : (setCall n k c s).win = s.win := rfl
@[simp] theorem setCall_ord (n : Fin 160) (k : Kind) (c : Option Call) (s : State) : (setCall n k c s).ord = s.ord := rfl
@[simp] theorem setCall_setup (n : Fin 160) (k : Kind) (c : Option Call) (s : State) : (setCall n k c s).setup = s.setup := rfl
@[simp] theorem setCall_alerts (n : Fin 160) (k : Kind) (c : Option Call) (s : State) : (setCall n k c s).alerts = s.alerts := rfl
@[simp] theorem setCall_loop (n : Fin 160) (k : Kind) (c : Option Call) (s : State) : (setCall n k c s).loop = s.loop := rfl
@[simp] theorem setCall_drv (n : Fin 160) (k : Kind) (c : Option Call) (s : State) : (setCall n k c s).drv = s.drv := rfl
@[simp] theorem setCall_attr (n : Fin 160) (k : Kind) (c : Option Call) (s : State) : (setCall n k c s).attr = s.attr := rfl
@[simp] theorem setCall_shift (n : Fin 160) (k : Kind) (c : Option Call) (s : State) : (setCall n k c s).shift = s.shift := rfl
@[simp] theorem setCall_brd (n : Fin 160) (k : Kind) (c : Option Call) (s : State) : (setCall n k c s).brd = s.brd := rfl
@[simp] theorem setCall_jrn (n : Fin 160) (k : Kind) (c : Option Call) (s : State) : (setCall n k c s).jrn = s.jrn := rfl
@[simp] theorem setCall_irq (n : Fin 160) (k : Kind) (c : Option Call) (s : State) : (setCall n k c s).irq = s.irq := rfl
@[simp] theorem setCall_store (n : Fin 160) (k : Kind) (c : Option Call) (s : State) : (setCall n k c s).store = s.store := rfl
@[simp] theorem setCall_pending (n : Fin 160) (k : Kind) (c : Option Call) (s : State) : (setCall n k c s).pending = s.pending := rfl

@[simp] theorem updCall_ms (n : Fin 160) (k : Kind) (f : Call → Call) (s : State) : (updCall n k f s).ms = s.ms := rfl
@[simp] theorem updCall_part (n : Fin 160) (k : Kind) (f : Call → Call) (s : State) : (updCall n k f s).part = s.part := rfl
@[simp] theorem updCall_resetKind (n : Fin 160) (k : Kind) (f : Call → Call) (s : State) : (updCall n k f s).resetKind = s.resetKind := rfl
@[simp] theorem updCall_pins (n : Fin 160) (k : Kind) (f : Call → Call) (s : State) : (updCall n k f s).pins = s.pins := rfl
@[simp] theorem updCall_win (n : Fin 160) (k : Kind) (f : Call → Call) (s : State) : (updCall n k f s).win = s.win := rfl
@[simp] theorem updCall_ord (n : Fin 160) (k : Kind) (f : Call → Call) (s : State) : (updCall n k f s).ord = s.ord := rfl
@[simp] theorem updCall_setup (n : Fin 160) (k : Kind) (f : Call → Call) (s : State) : (updCall n k f s).setup = s.setup := rfl
@[simp] theorem updCall_alerts (n : Fin 160) (k : Kind) (f : Call → Call) (s : State) : (updCall n k f s).alerts = s.alerts := rfl
@[simp] theorem updCall_loop (n : Fin 160) (k : Kind) (f : Call → Call) (s : State) : (updCall n k f s).loop = s.loop := rfl
@[simp] theorem updCall_drv (n : Fin 160) (k : Kind) (f : Call → Call) (s : State) : (updCall n k f s).drv = s.drv := rfl
@[simp] theorem updCall_attr (n : Fin 160) (k : Kind) (f : Call → Call) (s : State) : (updCall n k f s).attr = s.attr := rfl
@[simp] theorem updCall_shift (n : Fin 160) (k : Kind) (f : Call → Call) (s : State) : (updCall n k f s).shift = s.shift := rfl
@[simp] theorem updCall_brd (n : Fin 160) (k : Kind) (f : Call → Call) (s : State) : (updCall n k f s).brd = s.brd := rfl
@[simp] theorem updCall_jrn (n : Fin 160) (k : Kind) (f : Call → Call) (s : State) : (updCall n k f s).jrn = s.jrn := rfl
@[simp] theorem updCall_irq (n : Fin 160) (k : Kind) (f : Call → Call) (s : State) : (updCall n k f s).irq = s.irq := rfl
@[simp] theorem updCall_store (n : Fin 160) (k : Kind) (f : Call → Call) (s : State) : (updCall n k f s).store = s.store := rfl
@[simp] theorem updCall_pending (n : Fin 160) (k : Kind) (f : Call → Call) (s : State) : (updCall n k f s).pending = s.pending := rfl

@[simp] theorem updStation_ms (n : Fin 160) (f : Station → Station) (s : State) : (updStation n f s).ms = s.ms := rfl
@[simp] theorem updStation_part (n : Fin 160) (f : Station → Station) (s : State) : (updStation n f s).part = s.part := rfl
@[simp] theorem updStation_resetKind (n : Fin 160) (f : Station → Station) (s : State) : (updStation n f s).resetKind = s.resetKind := rfl
@[simp] theorem updStation_pins (n : Fin 160) (f : Station → Station) (s : State) : (updStation n f s).pins = s.pins := rfl
@[simp] theorem updStation_win (n : Fin 160) (f : Station → Station) (s : State) : (updStation n f s).win = s.win := rfl
@[simp] theorem updStation_ord (n : Fin 160) (f : Station → Station) (s : State) : (updStation n f s).ord = s.ord := rfl
@[simp] theorem updStation_setup (n : Fin 160) (f : Station → Station) (s : State) : (updStation n f s).setup = s.setup := rfl
@[simp] theorem updStation_alerts (n : Fin 160) (f : Station → Station) (s : State) : (updStation n f s).alerts = s.alerts := rfl
@[simp] theorem updStation_loop (n : Fin 160) (f : Station → Station) (s : State) : (updStation n f s).loop = s.loop := rfl
@[simp] theorem updStation_drv (n : Fin 160) (f : Station → Station) (s : State) : (updStation n f s).drv = s.drv := rfl
@[simp] theorem updStation_attr (n : Fin 160) (f : Station → Station) (s : State) : (updStation n f s).attr = s.attr := rfl
@[simp] theorem updStation_shift (n : Fin 160) (f : Station → Station) (s : State) : (updStation n f s).shift = s.shift := rfl
@[simp] theorem updStation_brd (n : Fin 160) (f : Station → Station) (s : State) : (updStation n f s).brd = s.brd := rfl
@[simp] theorem updStation_jrn (n : Fin 160) (f : Station → Station) (s : State) : (updStation n f s).jrn = s.jrn := rfl
@[simp] theorem updStation_irq (n : Fin 160) (f : Station → Station) (s : State) : (updStation n f s).irq = s.irq := rfl
@[simp] theorem updStation_store (n : Fin 160) (f : Station → Station) (s : State) : (updStation n f s).store = s.store := rfl
@[simp] theorem updStation_pending (n : Fin 160) (f : Station → Station) (s : State) : (updStation n f s).pending = s.pending := rfl

@[simp] theorem reevaluateAlerts_ms (s : State) : (reevaluateAlerts s).ms = s.ms := rfl
@[simp] theorem reevaluateAlerts_part (s : State) : (reevaluateAlerts s).part = s.part := rfl
@[simp] theorem reevaluateAlerts_resetKind (s : State) : (reevaluateAlerts s).resetKind = s.resetKind := rfl
@[simp] theorem reevaluateAlerts_pins (s : State) : (reevaluateAlerts s).pins = s.pins := rfl
@[simp] theorem reevaluateAlerts_win (s : State) : (reevaluateAlerts s).win = s.win := rfl
@[simp] theorem reevaluateAlerts_ord (s : State) : (reevaluateAlerts s).ord = s.ord := rfl
@[simp] theorem reevaluateAlerts_setup (s : State) : (reevaluateAlerts s).setup = s.setup := rfl
@[simp] theorem reevaluateAlerts_calls (s : State) : (reevaluateAlerts s).calls = s.calls := rfl
@[simp] theorem reevaluateAlerts_loop (s : State) : (reevaluateAlerts s).loop = s.loop := rfl
@[simp] theorem reevaluateAlerts_drv (s : State) : (reevaluateAlerts s).drv = s.drv := rfl
@[simp] theorem reevaluateAlerts_attr (s : State) : (reevaluateAlerts s).attr = s.attr := rfl
@[simp] theorem reevaluateAlerts_shift (s : State) : (reevaluateAlerts s).shift = s.shift := rfl
@[simp] theorem reevaluateAlerts_brd (s : State) : (reevaluateAlerts s).brd = s.brd := rfl
@[simp] theorem reevaluateAlerts_jrn (s : State) : (reevaluateAlerts s).jrn = s.jrn := rfl
@[simp] theorem reevaluateAlerts_irq (s : State) : (reevaluateAlerts s).irq = s.irq := rfl
@[simp] theorem reevaluateAlerts_store (s : State) : (reevaluateAlerts s).store = s.store := rfl
@[simp] theorem reevaluateAlerts_pending (s : State) : (reevaluateAlerts s).pending = s.pending := rfl

@[simp] theorem updDrive_ms (d : Fin 8) (f : Drive → Drive) (s : State) : (updDrive d f s).ms = s.ms := rfl
@[simp] theorem updDrive_part (d : Fin 8) (f : Drive → Drive) (s : State) : (updDrive d f s).part = s.part := rfl
@[simp] theorem updDrive_resetKind (d : Fin 8) (f : Drive → Drive) (s : State) : (updDrive d f s).resetKind = s.resetKind := rfl
@[simp] theorem updDrive_pins (d : Fin 8) (f : Drive → Drive) (s : State) : (updDrive d f s).pins = s.pins := rfl
@[simp] theorem updDrive_win (d : Fin 8) (f : Drive → Drive) (s : State) : (updDrive d f s).win = s.win := rfl
@[simp] theorem updDrive_ord (d : Fin 8) (f : Drive → Drive) (s : State) : (updDrive d f s).ord = s.ord := rfl
@[simp] theorem updDrive_setup (d : Fin 8) (f : Drive → Drive) (s : State) : (updDrive d f s).setup = s.setup := rfl
@[simp] theorem updDrive_calls (d : Fin 8) (f : Drive → Drive) (s : State) : (updDrive d f s).calls = s.calls := rfl
@[simp] theorem updDrive_alerts (d : Fin 8) (f : Drive → Drive) (s : State) : (updDrive d f s).alerts = s.alerts := rfl
@[simp] theorem updDrive_loop (d : Fin 8) (f : Drive → Drive) (s : State) : (updDrive d f s).loop = s.loop := rfl
@[simp] theorem updDrive_attr (d : Fin 8) (f : Drive → Drive) (s : State) : (updDrive d f s).attr = s.attr := rfl
@[simp] theorem updDrive_shift (d : Fin 8) (f : Drive → Drive) (s : State) : (updDrive d f s).shift = s.shift := rfl
@[simp] theorem updDrive_brd (d : Fin 8) (f : Drive → Drive) (s : State) : (updDrive d f s).brd = s.brd := rfl
@[simp] theorem updDrive_jrn (d : Fin 8) (f : Drive → Drive) (s : State) : (updDrive d f s).jrn = s.jrn := rfl
@[simp] theorem updDrive_irq (d : Fin 8) (f : Drive → Drive) (s : State) : (updDrive d f s).irq = s.irq := rfl
@[simp] theorem updDrive_store (d : Fin 8) (f : Drive → Drive) (s : State) : (updDrive d f s).store = s.store := rfl
@[simp] theorem updDrive_pending (d : Fin 8) (f : Drive → Drive) (s : State) : (updDrive d f s).pending = s.pending := rfl

@[simp] theorem updBuffer_ms (k : Fin 7) (f : Buffer → Buffer) (s : State) : (updBuffer k f s).ms = s.ms := rfl
@[simp] theorem updBuffer_part (k : Fin 7) (f : Buffer → Buffer) (s : State) : (updBuffer k f s).part = s.part := rfl
@[simp] theorem updBuffer_resetKind (k : Fin 7) (f : Buffer → Buffer) (s : State) : (updBuffer k f s).resetKind = s.resetKind := rfl
@[simp] theorem updBuffer_pins (k : Fin 7) (f : Buffer → Buffer) (s : State) : (updBuffer k f s).pins = s.pins := rfl
@[simp] theorem updBuffer_win (k : Fin 7) (f : Buffer → Buffer) (s : State) : (updBuffer k f s).win = s.win := rfl
@[simp] theorem updBuffer_ord (k : Fin 7) (f : Buffer → Buffer) (s : State) : (updBuffer k f s).ord = s.ord := rfl
@[simp] theorem updBuffer_setup (k : Fin 7) (f : Buffer → Buffer) (s : State) : (updBuffer k f s).setup = s.setup := rfl
@[simp] theorem updBuffer_calls (k : Fin 7) (f : Buffer → Buffer) (s : State) : (updBuffer k f s).calls = s.calls := rfl
@[simp] theorem updBuffer_alerts (k : Fin 7) (f : Buffer → Buffer) (s : State) : (updBuffer k f s).alerts = s.alerts := rfl
@[simp] theorem updBuffer_loop (k : Fin 7) (f : Buffer → Buffer) (s : State) : (updBuffer k f s).loop = s.loop := rfl
@[simp] theorem updBuffer_attr (k : Fin 7) (f : Buffer → Buffer) (s : State) : (updBuffer k f s).attr = s.attr := rfl
@[simp] theorem updBuffer_shift (k : Fin 7) (f : Buffer → Buffer) (s : State) : (updBuffer k f s).shift = s.shift := rfl
@[simp] theorem updBuffer_brd (k : Fin 7) (f : Buffer → Buffer) (s : State) : (updBuffer k f s).brd = s.brd := rfl
@[simp] theorem updBuffer_jrn (k : Fin 7) (f : Buffer → Buffer) (s : State) : (updBuffer k f s).jrn = s.jrn := rfl
@[simp] theorem updBuffer_irq (k : Fin 7) (f : Buffer → Buffer) (s : State) : (updBuffer k f s).irq = s.irq := rfl
@[simp] theorem updBuffer_store (k : Fin 7) (f : Buffer → Buffer) (s : State) : (updBuffer k f s).store = s.store := rfl
@[simp] theorem updBuffer_pending (k : Fin 7) (f : Buffer → Buffer) (s : State) : (updBuffer k f s).pending = s.pending := rfl

@[simp] theorem setFeedbackPin_ms (d : Fin 8) (f : Feedback) (s : State) : (setFeedbackPin d f s).ms = s.ms := rfl
@[simp] theorem setFeedbackPin_part (d : Fin 8) (f : Feedback) (s : State) : (setFeedbackPin d f s).part = s.part := rfl
@[simp] theorem setFeedbackPin_resetKind (d : Fin 8) (f : Feedback) (s : State) : (setFeedbackPin d f s).resetKind = s.resetKind := rfl
@[simp] theorem setFeedbackPin_win (d : Fin 8) (f : Feedback) (s : State) : (setFeedbackPin d f s).win = s.win := rfl
@[simp] theorem setFeedbackPin_ord (d : Fin 8) (f : Feedback) (s : State) : (setFeedbackPin d f s).ord = s.ord := rfl
@[simp] theorem setFeedbackPin_setup (d : Fin 8) (f : Feedback) (s : State) : (setFeedbackPin d f s).setup = s.setup := rfl
@[simp] theorem setFeedbackPin_calls (d : Fin 8) (f : Feedback) (s : State) : (setFeedbackPin d f s).calls = s.calls := rfl
@[simp] theorem setFeedbackPin_alerts (d : Fin 8) (f : Feedback) (s : State) : (setFeedbackPin d f s).alerts = s.alerts := rfl
@[simp] theorem setFeedbackPin_loop (d : Fin 8) (f : Feedback) (s : State) : (setFeedbackPin d f s).loop = s.loop := rfl
@[simp] theorem setFeedbackPin_drv (d : Fin 8) (f : Feedback) (s : State) : (setFeedbackPin d f s).drv = s.drv := rfl
@[simp] theorem setFeedbackPin_attr (d : Fin 8) (f : Feedback) (s : State) : (setFeedbackPin d f s).attr = s.attr := rfl
@[simp] theorem setFeedbackPin_shift (d : Fin 8) (f : Feedback) (s : State) : (setFeedbackPin d f s).shift = s.shift := rfl
@[simp] theorem setFeedbackPin_brd (d : Fin 8) (f : Feedback) (s : State) : (setFeedbackPin d f s).brd = s.brd := rfl
@[simp] theorem setFeedbackPin_jrn (d : Fin 8) (f : Feedback) (s : State) : (setFeedbackPin d f s).jrn = s.jrn := rfl
@[simp] theorem setFeedbackPin_irq (d : Fin 8) (f : Feedback) (s : State) : (setFeedbackPin d f s).irq = s.irq := rfl
@[simp] theorem setFeedbackPin_store (d : Fin 8) (f : Feedback) (s : State) : (setFeedbackPin d f s).store = s.store := rfl
@[simp] theorem setFeedbackPin_pending (d : Fin 8) (f : Feedback) (s : State) : (setFeedbackPin d f s).pending = s.pending := rfl

@[simp] theorem setSlot_ms (d : Fin 8) (o : OpenSlot) (s : State) : (setSlot d o s).ms = s.ms := rfl
@[simp] theorem setSlot_part (d : Fin 8) (o : OpenSlot) (s : State) : (setSlot d o s).part = s.part := rfl
@[simp] theorem setSlot_resetKind (d : Fin 8) (o : OpenSlot) (s : State) : (setSlot d o s).resetKind = s.resetKind := rfl
@[simp] theorem setSlot_pins (d : Fin 8) (o : OpenSlot) (s : State) : (setSlot d o s).pins = s.pins := rfl
@[simp] theorem setSlot_win (d : Fin 8) (o : OpenSlot) (s : State) : (setSlot d o s).win = s.win := rfl
@[simp] theorem setSlot_ord (d : Fin 8) (o : OpenSlot) (s : State) : (setSlot d o s).ord = s.ord := rfl
@[simp] theorem setSlot_setup (d : Fin 8) (o : OpenSlot) (s : State) : (setSlot d o s).setup = s.setup := rfl
@[simp] theorem setSlot_calls (d : Fin 8) (o : OpenSlot) (s : State) : (setSlot d o s).calls = s.calls := rfl
@[simp] theorem setSlot_alerts (d : Fin 8) (o : OpenSlot) (s : State) : (setSlot d o s).alerts = s.alerts := rfl
@[simp] theorem setSlot_loop (d : Fin 8) (o : OpenSlot) (s : State) : (setSlot d o s).loop = s.loop := rfl
@[simp] theorem setSlot_drv (d : Fin 8) (o : OpenSlot) (s : State) : (setSlot d o s).drv = s.drv := rfl
@[simp] theorem setSlot_shift (d : Fin 8) (o : OpenSlot) (s : State) : (setSlot d o s).shift = s.shift := rfl
@[simp] theorem setSlot_brd (d : Fin 8) (o : OpenSlot) (s : State) : (setSlot d o s).brd = s.brd := rfl
@[simp] theorem setSlot_jrn (d : Fin 8) (o : OpenSlot) (s : State) : (setSlot d o s).jrn = s.jrn := rfl
@[simp] theorem setSlot_irq (d : Fin 8) (o : OpenSlot) (s : State) : (setSlot d o s).irq = s.irq := rfl
@[simp] theorem setSlot_store (d : Fin 8) (o : OpenSlot) (s : State) : (setSlot d o s).store = s.store := rfl
@[simp] theorem setSlot_pending (d : Fin 8) (o : OpenSlot) (s : State) : (setSlot d o s).pending = s.pending := rfl

@[simp] theorem accrue_ms (z : Fin 8) (s : State) : (accrue z s).ms = s.ms := rfl
@[simp] theorem accrue_part (z : Fin 8) (s : State) : (accrue z s).part = s.part := rfl
@[simp] theorem accrue_resetKind (z : Fin 8) (s : State) : (accrue z s).resetKind = s.resetKind := rfl
@[simp] theorem accrue_pins (z : Fin 8) (s : State) : (accrue z s).pins = s.pins := rfl
@[simp] theorem accrue_win (z : Fin 8) (s : State) : (accrue z s).win = s.win := rfl
@[simp] theorem accrue_ord (z : Fin 8) (s : State) : (accrue z s).ord = s.ord := rfl
@[simp] theorem accrue_setup (z : Fin 8) (s : State) : (accrue z s).setup = s.setup := rfl
@[simp] theorem accrue_calls (z : Fin 8) (s : State) : (accrue z s).calls = s.calls := rfl
@[simp] theorem accrue_alerts (z : Fin 8) (s : State) : (accrue z s).alerts = s.alerts := rfl
@[simp] theorem accrue_loop (z : Fin 8) (s : State) : (accrue z s).loop = s.loop := rfl
@[simp] theorem accrue_drv (z : Fin 8) (s : State) : (accrue z s).drv = s.drv := rfl
@[simp] theorem accrue_shift (z : Fin 8) (s : State) : (accrue z s).shift = s.shift := rfl
@[simp] theorem accrue_brd (z : Fin 8) (s : State) : (accrue z s).brd = s.brd := rfl
@[simp] theorem accrue_jrn (z : Fin 8) (s : State) : (accrue z s).jrn = s.jrn := rfl
@[simp] theorem accrue_irq (z : Fin 8) (s : State) : (accrue z s).irq = s.irq := rfl
@[simp] theorem accrue_store (z : Fin 8) (s : State) : (accrue z s).store = s.store := rfl
@[simp] theorem accrue_pending (z : Fin 8) (s : State) : (accrue z s).pending = s.pending := rfl

@[simp] theorem updShift_ms (f : Shift → Shift) (s : State) : (updShift f s).ms = s.ms := rfl
@[simp] theorem updShift_part (f : Shift → Shift) (s : State) : (updShift f s).part = s.part := rfl
@[simp] theorem updShift_resetKind (f : Shift → Shift) (s : State) : (updShift f s).resetKind = s.resetKind := rfl
@[simp] theorem updShift_pins (f : Shift → Shift) (s : State) : (updShift f s).pins = s.pins := rfl
@[simp] theorem updShift_win (f : Shift → Shift) (s : State) : (updShift f s).win = s.win := rfl
@[simp] theorem updShift_ord (f : Shift → Shift) (s : State) : (updShift f s).ord = s.ord := rfl
@[simp] theorem updShift_setup (f : Shift → Shift) (s : State) : (updShift f s).setup = s.setup := rfl
@[simp] theorem updShift_calls (f : Shift → Shift) (s : State) : (updShift f s).calls = s.calls := rfl
@[simp] theorem updShift_alerts (f : Shift → Shift) (s : State) : (updShift f s).alerts = s.alerts := rfl
@[simp] theorem updShift_loop (f : Shift → Shift) (s : State) : (updShift f s).loop = s.loop := rfl
@[simp] theorem updShift_drv (f : Shift → Shift) (s : State) : (updShift f s).drv = s.drv := rfl
@[simp] theorem updShift_attr (f : Shift → Shift) (s : State) : (updShift f s).attr = s.attr := rfl
@[simp] theorem updShift_brd (f : Shift → Shift) (s : State) : (updShift f s).brd = s.brd := rfl
@[simp] theorem updShift_jrn (f : Shift → Shift) (s : State) : (updShift f s).jrn = s.jrn := rfl
@[simp] theorem updShift_irq (f : Shift → Shift) (s : State) : (updShift f s).irq = s.irq := rfl
@[simp] theorem updShift_store (f : Shift → Shift) (s : State) : (updShift f s).store = s.store := rfl
@[simp] theorem updShift_pending (f : Shift → Shift) (s : State) : (updShift f s).pending = s.pending := rfl

@[simp] theorem updSetup_ms (f : Setup → Setup) (s : State) : (updSetup f s).ms = s.ms := rfl
@[simp] theorem updSetup_part (f : Setup → Setup) (s : State) : (updSetup f s).part = s.part := rfl
@[simp] theorem updSetup_resetKind (f : Setup → Setup) (s : State) : (updSetup f s).resetKind = s.resetKind := rfl
@[simp] theorem updSetup_pins (f : Setup → Setup) (s : State) : (updSetup f s).pins = s.pins := rfl
@[simp] theorem updSetup_win (f : Setup → Setup) (s : State) : (updSetup f s).win = s.win := rfl
@[simp] theorem updSetup_ord (f : Setup → Setup) (s : State) : (updSetup f s).ord = s.ord := rfl
@[simp] theorem updSetup_calls (f : Setup → Setup) (s : State) : (updSetup f s).calls = s.calls := rfl
@[simp] theorem updSetup_alerts (f : Setup → Setup) (s : State) : (updSetup f s).alerts = s.alerts := rfl
@[simp] theorem updSetup_loop (f : Setup → Setup) (s : State) : (updSetup f s).loop = s.loop := rfl
@[simp] theorem updSetup_drv (f : Setup → Setup) (s : State) : (updSetup f s).drv = s.drv := rfl
@[simp] theorem updSetup_attr (f : Setup → Setup) (s : State) : (updSetup f s).attr = s.attr := rfl
@[simp] theorem updSetup_shift (f : Setup → Setup) (s : State) : (updSetup f s).shift = s.shift := rfl
@[simp] theorem updSetup_brd (f : Setup → Setup) (s : State) : (updSetup f s).brd = s.brd := rfl
@[simp] theorem updSetup_jrn (f : Setup → Setup) (s : State) : (updSetup f s).jrn = s.jrn := rfl
@[simp] theorem updSetup_irq (f : Setup → Setup) (s : State) : (updSetup f s).irq = s.irq := rfl
@[simp] theorem updSetup_store (f : Setup → Setup) (s : State) : (updSetup f s).store = s.store := rfl
@[simp] theorem updSetup_pending (f : Setup → Setup) (s : State) : (updSetup f s).pending = s.pending := rfl

@[simp] theorem updPanel_ms (p : Fin 40) (f : Panel → Panel) (s : State) : (updPanel p f s).ms = s.ms := rfl
@[simp] theorem updPanel_part (p : Fin 40) (f : Panel → Panel) (s : State) : (updPanel p f s).part = s.part := rfl
@[simp] theorem updPanel_resetKind (p : Fin 40) (f : Panel → Panel) (s : State) : (updPanel p f s).resetKind = s.resetKind := rfl
@[simp] theorem updPanel_pins (p : Fin 40) (f : Panel → Panel) (s : State) : (updPanel p f s).pins = s.pins := rfl
@[simp] theorem updPanel_win (p : Fin 40) (f : Panel → Panel) (s : State) : (updPanel p f s).win = s.win := rfl
@[simp] theorem updPanel_ord (p : Fin 40) (f : Panel → Panel) (s : State) : (updPanel p f s).ord = s.ord := rfl
@[simp] theorem updPanel_setup (p : Fin 40) (f : Panel → Panel) (s : State) : (updPanel p f s).setup = s.setup := rfl
@[simp] theorem updPanel_calls (p : Fin 40) (f : Panel → Panel) (s : State) : (updPanel p f s).calls = s.calls := rfl
@[simp] theorem updPanel_alerts (p : Fin 40) (f : Panel → Panel) (s : State) : (updPanel p f s).alerts = s.alerts := rfl
@[simp] theorem updPanel_drv (p : Fin 40) (f : Panel → Panel) (s : State) : (updPanel p f s).drv = s.drv := rfl
@[simp] theorem updPanel_attr (p : Fin 40) (f : Panel → Panel) (s : State) : (updPanel p f s).attr = s.attr := rfl
@[simp] theorem updPanel_shift (p : Fin 40) (f : Panel → Panel) (s : State) : (updPanel p f s).shift = s.shift := rfl
@[simp] theorem updPanel_brd (p : Fin 40) (f : Panel → Panel) (s : State) : (updPanel p f s).brd = s.brd := rfl
@[simp] theorem updPanel_jrn (p : Fin 40) (f : Panel → Panel) (s : State) : (updPanel p f s).jrn = s.jrn := rfl
@[simp] theorem updPanel_irq (p : Fin 40) (f : Panel → Panel) (s : State) : (updPanel p f s).irq = s.irq := rfl
@[simp] theorem updPanel_store (p : Fin 40) (f : Panel → Panel) (s : State) : (updPanel p f s).store = s.store := rfl
@[simp] theorem updPanel_pending (p : Fin 40) (f : Panel → Panel) (s : State) : (updPanel p f s).pending = s.pending := rfl

@[simp] theorem setPoll_ms (q : Option Poll) (s : State) : (setPoll q s).ms = s.ms := rfl
@[simp] theorem setPoll_part (q : Option Poll) (s : State) : (setPoll q s).part = s.part := rfl
@[simp] theorem setPoll_resetKind (q : Option Poll) (s : State) : (setPoll q s).resetKind = s.resetKind := rfl
@[simp] theorem setPoll_pins (q : Option Poll) (s : State) : (setPoll q s).pins = s.pins := rfl
@[simp] theorem setPoll_win (q : Option Poll) (s : State) : (setPoll q s).win = s.win := rfl
@[simp] theorem setPoll_ord (q : Option Poll) (s : State) : (setPoll q s).ord = s.ord := rfl
@[simp] theorem setPoll_setup (q : Option Poll) (s : State) : (setPoll q s).setup = s.setup := rfl
@[simp] theorem setPoll_calls (q : Option Poll) (s : State) : (setPoll q s).calls = s.calls := rfl
@[simp] theorem setPoll_alerts (q : Option Poll) (s : State) : (setPoll q s).alerts = s.alerts := rfl
@[simp] theorem setPoll_drv (q : Option Poll) (s : State) : (setPoll q s).drv = s.drv := rfl
@[simp] theorem setPoll_attr (q : Option Poll) (s : State) : (setPoll q s).attr = s.attr := rfl
@[simp] theorem setPoll_shift (q : Option Poll) (s : State) : (setPoll q s).shift = s.shift := rfl
@[simp] theorem setPoll_brd (q : Option Poll) (s : State) : (setPoll q s).brd = s.brd := rfl
@[simp] theorem setPoll_jrn (q : Option Poll) (s : State) : (setPoll q s).jrn = s.jrn := rfl
@[simp] theorem setPoll_irq (q : Option Poll) (s : State) : (setPoll q s).irq = s.irq := rfl
@[simp] theorem setPoll_store (q : Option Poll) (s : State) : (setPoll q s).store = s.store := rfl
@[simp] theorem setPoll_pending (q : Option Poll) (s : State) : (setPoll q s).pending = s.pending := rfl

@[simp] theorem updBoard_ms (b : Fin 16) (f : Board → Board) (s : State) : (updBoard b f s).ms = s.ms := rfl
@[simp] theorem updBoard_part (b : Fin 16) (f : Board → Board) (s : State) : (updBoard b f s).part = s.part := rfl
@[simp] theorem updBoard_resetKind (b : Fin 16) (f : Board → Board) (s : State) : (updBoard b f s).resetKind = s.resetKind := rfl
@[simp] theorem updBoard_pins (b : Fin 16) (f : Board → Board) (s : State) : (updBoard b f s).pins = s.pins := rfl
@[simp] theorem updBoard_win (b : Fin 16) (f : Board → Board) (s : State) : (updBoard b f s).win = s.win := rfl
@[simp] theorem updBoard_ord (b : Fin 16) (f : Board → Board) (s : State) : (updBoard b f s).ord = s.ord := rfl
@[simp] theorem updBoard_setup (b : Fin 16) (f : Board → Board) (s : State) : (updBoard b f s).setup = s.setup := rfl
@[simp] theorem updBoard_calls (b : Fin 16) (f : Board → Board) (s : State) : (updBoard b f s).calls = s.calls := rfl
@[simp] theorem updBoard_alerts (b : Fin 16) (f : Board → Board) (s : State) : (updBoard b f s).alerts = s.alerts := rfl
@[simp] theorem updBoard_loop (b : Fin 16) (f : Board → Board) (s : State) : (updBoard b f s).loop = s.loop := rfl
@[simp] theorem updBoard_drv (b : Fin 16) (f : Board → Board) (s : State) : (updBoard b f s).drv = s.drv := rfl
@[simp] theorem updBoard_attr (b : Fin 16) (f : Board → Board) (s : State) : (updBoard b f s).attr = s.attr := rfl
@[simp] theorem updBoard_shift (b : Fin 16) (f : Board → Board) (s : State) : (updBoard b f s).shift = s.shift := rfl
@[simp] theorem updBoard_jrn (b : Fin 16) (f : Board → Board) (s : State) : (updBoard b f s).jrn = s.jrn := rfl
@[simp] theorem updBoard_irq (b : Fin 16) (f : Board → Board) (s : State) : (updBoard b f s).irq = s.irq := rfl
@[simp] theorem updBoard_store (b : Fin 16) (f : Board → Board) (s : State) : (updBoard b f s).store = s.store := rfl
@[simp] theorem updBoard_pending (b : Fin 16) (f : Board → Board) (s : State) : (updBoard b f s).pending = s.pending := rfl

@[simp] theorem updLink_ms (l : Fin 2) (f : Link → Link) (s : State) : (updLink l f s).ms = s.ms := rfl
@[simp] theorem updLink_part (l : Fin 2) (f : Link → Link) (s : State) : (updLink l f s).part = s.part := rfl
@[simp] theorem updLink_resetKind (l : Fin 2) (f : Link → Link) (s : State) : (updLink l f s).resetKind = s.resetKind := rfl
@[simp] theorem updLink_pins (l : Fin 2) (f : Link → Link) (s : State) : (updLink l f s).pins = s.pins := rfl
@[simp] theorem updLink_win (l : Fin 2) (f : Link → Link) (s : State) : (updLink l f s).win = s.win := rfl
@[simp] theorem updLink_ord (l : Fin 2) (f : Link → Link) (s : State) : (updLink l f s).ord = s.ord := rfl
@[simp] theorem updLink_setup (l : Fin 2) (f : Link → Link) (s : State) : (updLink l f s).setup = s.setup := rfl
@[simp] theorem updLink_calls (l : Fin 2) (f : Link → Link) (s : State) : (updLink l f s).calls = s.calls := rfl
@[simp] theorem updLink_alerts (l : Fin 2) (f : Link → Link) (s : State) : (updLink l f s).alerts = s.alerts := rfl
@[simp] theorem updLink_loop (l : Fin 2) (f : Link → Link) (s : State) : (updLink l f s).loop = s.loop := rfl
@[simp] theorem updLink_drv (l : Fin 2) (f : Link → Link) (s : State) : (updLink l f s).drv = s.drv := rfl
@[simp] theorem updLink_attr (l : Fin 2) (f : Link → Link) (s : State) : (updLink l f s).attr = s.attr := rfl
@[simp] theorem updLink_shift (l : Fin 2) (f : Link → Link) (s : State) : (updLink l f s).shift = s.shift := rfl
@[simp] theorem updLink_jrn (l : Fin 2) (f : Link → Link) (s : State) : (updLink l f s).jrn = s.jrn := rfl
@[simp] theorem updLink_irq (l : Fin 2) (f : Link → Link) (s : State) : (updLink l f s).irq = s.irq := rfl
@[simp] theorem updLink_store (l : Fin 2) (f : Link → Link) (s : State) : (updLink l f s).store = s.store := rfl
@[simp] theorem updLink_pending (l : Fin 2) (f : Link → Link) (s : State) : (updLink l f s).pending = s.pending := rfl

@[simp] theorem updStore_ms (f : Store → Store) (s : State) : (updStore f s).ms = s.ms := rfl
@[simp] theorem updStore_part (f : Store → Store) (s : State) : (updStore f s).part = s.part := rfl
@[simp] theorem updStore_resetKind (f : Store → Store) (s : State) : (updStore f s).resetKind = s.resetKind := rfl
@[simp] theorem updStore_pins (f : Store → Store) (s : State) : (updStore f s).pins = s.pins := rfl
@[simp] theorem updStore_win (f : Store → Store) (s : State) : (updStore f s).win = s.win := rfl
@[simp] theorem updStore_ord (f : Store → Store) (s : State) : (updStore f s).ord = s.ord := rfl
@[simp] theorem updStore_setup (f : Store → Store) (s : State) : (updStore f s).setup = s.setup := rfl
@[simp] theorem updStore_calls (f : Store → Store) (s : State) : (updStore f s).calls = s.calls := rfl
@[simp] theorem updStore_alerts (f : Store → Store) (s : State) : (updStore f s).alerts = s.alerts := rfl
@[simp] theorem updStore_loop (f : Store → Store) (s : State) : (updStore f s).loop = s.loop := rfl
@[simp] theorem updStore_drv (f : Store → Store) (s : State) : (updStore f s).drv = s.drv := rfl
@[simp] theorem updStore_attr (f : Store → Store) (s : State) : (updStore f s).attr = s.attr := rfl
@[simp] theorem updStore_shift (f : Store → Store) (s : State) : (updStore f s).shift = s.shift := rfl
@[simp] theorem updStore_brd (f : Store → Store) (s : State) : (updStore f s).brd = s.brd := rfl
@[simp] theorem updStore_jrn (f : Store → Store) (s : State) : (updStore f s).jrn = s.jrn := rfl
@[simp] theorem updStore_irq (f : Store → Store) (s : State) : (updStore f s).irq = s.irq := rfl
@[simp] theorem updStore_pending (f : Store → Store) (s : State) : (updStore f s).pending = s.pending := rfl

/-! ### Updates of the attribution unit's reports -/

@[simp] theorem bringZones_ms (zs : List (Fin 8)) (s : State) : (bringZones zs s).ms = s.ms := rfl
@[simp] theorem bringZones_part (zs : List (Fin 8)) (s : State) : (bringZones zs s).part = s.part := rfl
@[simp] theorem bringZones_resetKind (zs : List (Fin 8)) (s : State) : (bringZones zs s).resetKind = s.resetKind := rfl
@[simp] theorem bringZones_pins (zs : List (Fin 8)) (s : State) : (bringZones zs s).pins = s.pins := rfl
@[simp] theorem bringZones_ord (zs : List (Fin 8)) (s : State) : (bringZones zs s).ord = s.ord := rfl
@[simp] theorem bringZones_setup (zs : List (Fin 8)) (s : State) : (bringZones zs s).setup = s.setup := rfl
@[simp] theorem bringZones_calls (zs : List (Fin 8)) (s : State) : (bringZones zs s).calls = s.calls := rfl
@[simp] theorem bringZones_alerts (zs : List (Fin 8)) (s : State) : (bringZones zs s).alerts = s.alerts := rfl
@[simp] theorem bringZones_loop (zs : List (Fin 8)) (s : State) : (bringZones zs s).loop = s.loop := rfl
@[simp] theorem bringZones_drv (zs : List (Fin 8)) (s : State) : (bringZones zs s).drv = s.drv := rfl
@[simp] theorem bringZones_shift (zs : List (Fin 8)) (s : State) : (bringZones zs s).shift = s.shift := rfl
@[simp] theorem bringZones_brd (zs : List (Fin 8)) (s : State) : (bringZones zs s).brd = s.brd := rfl
@[simp] theorem bringZones_jrn (zs : List (Fin 8)) (s : State) : (bringZones zs s).jrn = s.jrn := rfl
@[simp] theorem bringZones_irq (zs : List (Fin 8)) (s : State) : (bringZones zs s).irq = s.irq := rfl
@[simp] theorem bringZones_store (zs : List (Fin 8)) (s : State) : (bringZones zs s).store = s.store := rfl
@[simp] theorem bringZones_pending (zs : List (Fin 8)) (s : State) : (bringZones zs s).pending = s.pending := rfl

@[simp] theorem attributionOnly_ms (s t : State) : (attributionOnly s t).ms = s.ms := rfl
@[simp] theorem attributionOnly_part (s t : State) : (attributionOnly s t).part = s.part := rfl
@[simp] theorem attributionOnly_resetKind (s t : State) : (attributionOnly s t).resetKind = s.resetKind := rfl
@[simp] theorem attributionOnly_pins (s t : State) : (attributionOnly s t).pins = s.pins := rfl
@[simp] theorem attributionOnly_ord (s t : State) : (attributionOnly s t).ord = s.ord := rfl
@[simp] theorem attributionOnly_setup (s t : State) : (attributionOnly s t).setup = s.setup := rfl
@[simp] theorem attributionOnly_calls (s t : State) : (attributionOnly s t).calls = s.calls := rfl
@[simp] theorem attributionOnly_alerts (s t : State) : (attributionOnly s t).alerts = s.alerts := rfl
@[simp] theorem attributionOnly_loop (s t : State) : (attributionOnly s t).loop = s.loop := rfl
@[simp] theorem attributionOnly_drv_drives (s t : State) : (attributionOnly s t).drv.drives = s.drv.drives := rfl
@[simp] theorem attributionOnly_drv_buffers (s t : State) : (attributionOnly s t).drv.buffers = s.drv.buffers := rfl
@[simp] theorem attributionOnly_drv_display (s t : State) : (attributionOnly s t).drv.display = t.drv.display := rfl
@[simp] theorem attributionOnly_shift (s t : State) : (attributionOnly s t).shift = s.shift := rfl
@[simp] theorem attributionOnly_brd_links (s t : State) : (attributionOnly s t).brd.links = s.brd.links := rfl
@[simp] theorem attributionOnly_brd_scale (s t : State) : (attributionOnly s t).brd.scale = s.brd.scale := rfl
@[simp] theorem attributionOnly_brd_refresh (s t : State) : (attributionOnly s t).brd.refresh = s.brd.refresh := rfl
@[simp] theorem attributionOnly_brd_boards (s t : State) : (attributionOnly s t).brd.boards = (followed s t).brd.boards := rfl
@[simp] theorem attributionOnly_store (s t : State) : (attributionOnly s t).store = s.store := rfl
@[simp] theorem attributionOnly_pending (s t : State) : (attributionOnly s t).pending = s.pending := rfl
@[simp] theorem attributionOnly_attr (s t : State) : (attributionOnly s t).attr = t.attr := rfl
@[simp] theorem attributionOnly_win (s t : State) : (attributionOnly s t).win = t.win := rfl
@[simp] theorem attributionOnly_jrn (s t : State) : (attributionOnly s t).jrn = t.jrn := rfl
@[simp] theorem attributionOnly_irq (s t : State) : (attributionOnly s t).irq = t.irq := rfl

@[simp] theorem reevaluate_ms (d : Fin 8) (s : State) : (reevaluate d s).ms = s.ms := rfl
@[simp] theorem reevaluate_part (d : Fin 8) (s : State) : (reevaluate d s).part = s.part := rfl
@[simp] theorem reevaluate_resetKind (d : Fin 8) (s : State) : (reevaluate d s).resetKind = s.resetKind := rfl
@[simp] theorem reevaluate_pins (d : Fin 8) (s : State) : (reevaluate d s).pins = s.pins := rfl
@[simp] theorem reevaluate_ord (d : Fin 8) (s : State) : (reevaluate d s).ord = s.ord := rfl
@[simp] theorem reevaluate_setup (d : Fin 8) (s : State) : (reevaluate d s).setup = s.setup := rfl
@[simp] theorem reevaluate_calls (d : Fin 8) (s : State) : (reevaluate d s).calls = s.calls := rfl
@[simp] theorem reevaluate_alerts (d : Fin 8) (s : State) : (reevaluate d s).alerts = s.alerts := rfl
@[simp] theorem reevaluate_loop (d : Fin 8) (s : State) : (reevaluate d s).loop = s.loop := rfl
@[simp] theorem reevaluate_drv_drives (d : Fin 8) (s : State) : (reevaluate d s).drv.drives = s.drv.drives := rfl
@[simp] theorem reevaluate_drv_buffers (d : Fin 8) (s : State) : (reevaluate d s).drv.buffers = s.drv.buffers := rfl
@[simp] theorem reevaluate_shift (d : Fin 8) (s : State) : (reevaluate d s).shift = s.shift := rfl
@[simp] theorem reevaluate_brd_links (d : Fin 8) (s : State) : (reevaluate d s).brd.links = s.brd.links := rfl
@[simp] theorem reevaluate_brd_scale (d : Fin 8) (s : State) : (reevaluate d s).brd.scale = s.brd.scale := rfl
@[simp] theorem reevaluate_brd_refresh (d : Fin 8) (s : State) : (reevaluate d s).brd.refresh = s.brd.refresh := rfl
@[simp] theorem reevaluate_store (d : Fin 8) (s : State) : (reevaluate d s).store = s.store := rfl
@[simp] theorem reevaluate_pending (d : Fin 8) (s : State) : (reevaluate d s).pending = s.pending := rfl

@[simp] theorem closeRecord_ms (c : Closing) (d : Fin 8) (s : State) : (closeRecord c d s).ms = s.ms := rfl
@[simp] theorem closeRecord_part (c : Closing) (d : Fin 8) (s : State) : (closeRecord c d s).part = s.part := rfl
@[simp] theorem closeRecord_resetKind (c : Closing) (d : Fin 8) (s : State) : (closeRecord c d s).resetKind = s.resetKind := rfl
@[simp] theorem closeRecord_pins (c : Closing) (d : Fin 8) (s : State) : (closeRecord c d s).pins = s.pins := rfl
@[simp] theorem closeRecord_ord (c : Closing) (d : Fin 8) (s : State) : (closeRecord c d s).ord = s.ord := rfl
@[simp] theorem closeRecord_setup (c : Closing) (d : Fin 8) (s : State) : (closeRecord c d s).setup = s.setup := rfl
@[simp] theorem closeRecord_calls (c : Closing) (d : Fin 8) (s : State) : (closeRecord c d s).calls = s.calls := rfl
@[simp] theorem closeRecord_alerts (c : Closing) (d : Fin 8) (s : State) : (closeRecord c d s).alerts = s.alerts := rfl
@[simp] theorem closeRecord_loop (c : Closing) (d : Fin 8) (s : State) : (closeRecord c d s).loop = s.loop := rfl
@[simp] theorem closeRecord_drv_drives (c : Closing) (d : Fin 8) (s : State) : (closeRecord c d s).drv.drives = s.drv.drives := rfl
@[simp] theorem closeRecord_drv_buffers (c : Closing) (d : Fin 8) (s : State) : (closeRecord c d s).drv.buffers = s.drv.buffers := rfl
@[simp] theorem closeRecord_shift (c : Closing) (d : Fin 8) (s : State) : (closeRecord c d s).shift = s.shift := rfl
@[simp] theorem closeRecord_brd_links (c : Closing) (d : Fin 8) (s : State) : (closeRecord c d s).brd.links = s.brd.links := rfl
@[simp] theorem closeRecord_brd_scale (c : Closing) (d : Fin 8) (s : State) : (closeRecord c d s).brd.scale = s.brd.scale := rfl
@[simp] theorem closeRecord_brd_refresh (c : Closing) (d : Fin 8) (s : State) : (closeRecord c d s).brd.refresh = s.brd.refresh := rfl
@[simp] theorem closeRecord_store (c : Closing) (d : Fin 8) (s : State) : (closeRecord c d s).store = s.store := rfl
@[simp] theorem closeRecord_pending (c : Closing) (d : Fin 8) (s : State) : (closeRecord c d s).pending = s.pending := rfl

@[simp] theorem openRecordFor_ms (d : Fin 8) (n : Nat) (b : Bool) (s : State) : (openRecordFor d n b s).ms = s.ms := by simp only [openRecordFor, attributionOnly_ms]
@[simp] theorem openRecordFor_part (d : Fin 8) (n : Nat) (b : Bool) (s : State) : (openRecordFor d n b s).part = s.part := by simp only [openRecordFor, attributionOnly_part]
@[simp] theorem openRecordFor_resetKind (d : Fin 8) (n : Nat) (b : Bool) (s : State) : (openRecordFor d n b s).resetKind = s.resetKind := by simp only [openRecordFor, attributionOnly_resetKind]
@[simp] theorem openRecordFor_pins (d : Fin 8) (n : Nat) (b : Bool) (s : State) : (openRecordFor d n b s).pins = s.pins := by simp only [openRecordFor, attributionOnly_pins]
@[simp] theorem openRecordFor_ord (d : Fin 8) (n : Nat) (b : Bool) (s : State) : (openRecordFor d n b s).ord = s.ord := by simp only [openRecordFor, attributionOnly_ord]
@[simp] theorem openRecordFor_setup (d : Fin 8) (n : Nat) (b : Bool) (s : State) : (openRecordFor d n b s).setup = s.setup := by simp only [openRecordFor, attributionOnly_setup]
@[simp] theorem openRecordFor_calls (d : Fin 8) (n : Nat) (b : Bool) (s : State) : (openRecordFor d n b s).calls = s.calls := by simp only [openRecordFor, attributionOnly_calls]
@[simp] theorem openRecordFor_alerts (d : Fin 8) (n : Nat) (b : Bool) (s : State) : (openRecordFor d n b s).alerts = s.alerts := by simp only [openRecordFor, attributionOnly_alerts]
@[simp] theorem openRecordFor_loop (d : Fin 8) (n : Nat) (b : Bool) (s : State) : (openRecordFor d n b s).loop = s.loop := by simp only [openRecordFor, attributionOnly_loop]
@[simp] theorem openRecordFor_drv_drives (d : Fin 8) (n : Nat) (b : Bool) (s : State) : (openRecordFor d n b s).drv.drives = s.drv.drives := by simp only [openRecordFor, attributionOnly_drv_drives]
@[simp] theorem openRecordFor_drv_buffers (d : Fin 8) (n : Nat) (b : Bool) (s : State) : (openRecordFor d n b s).drv.buffers = s.drv.buffers := by simp only [openRecordFor, attributionOnly_drv_buffers]
@[simp] theorem openRecordFor_shift (d : Fin 8) (n : Nat) (b : Bool) (s : State) : (openRecordFor d n b s).shift = s.shift := by simp only [openRecordFor, attributionOnly_shift]
@[simp] theorem openRecordFor_brd_links (d : Fin 8) (n : Nat) (b : Bool) (s : State) : (openRecordFor d n b s).brd.links = s.brd.links := by simp only [openRecordFor, attributionOnly_brd_links]
@[simp] theorem openRecordFor_brd_scale (d : Fin 8) (n : Nat) (b : Bool) (s : State) : (openRecordFor d n b s).brd.scale = s.brd.scale := by simp only [openRecordFor, attributionOnly_brd_scale]
@[simp] theorem openRecordFor_brd_refresh (d : Fin 8) (n : Nat) (b : Bool) (s : State) : (openRecordFor d n b s).brd.refresh = s.brd.refresh := by simp only [openRecordFor, attributionOnly_brd_refresh]
@[simp] theorem openRecordFor_store (d : Fin 8) (n : Nat) (b : Bool) (s : State) : (openRecordFor d n b s).store = s.store := by simp only [openRecordFor, attributionOnly_store]
@[simp] theorem openRecordFor_pending (d : Fin 8) (n : Nat) (b : Bool) (s : State) : (openRecordFor d n b s).pending = s.pending := by simp only [openRecordFor, attributionOnly_pending]

/-! ### The bounds of the families of events -/

@[simp] theorem demandOnly_ms (s t : State) : (demandOnly s t).ms = s.ms := rfl
@[simp] theorem demandOnly_part (s t : State) : (demandOnly s t).part = s.part := rfl
@[simp] theorem demandOnly_resetKind (s t : State) : (demandOnly s t).resetKind = s.resetKind := rfl
@[simp] theorem demandOnly_pins (s t : State) : (demandOnly s t).pins = s.pins := rfl
@[simp] theorem demandOnly_ord (s t : State) : (demandOnly s t).ord = s.ord := rfl
@[simp] theorem demandOnly_setup (s t : State) : (demandOnly s t).setup = s.setup := rfl
@[simp] theorem demandOnly_calls (s t : State) : (demandOnly s t).calls = s.calls := rfl
@[simp] theorem demandOnly_alerts (s t : State) : (demandOnly s t).alerts = s.alerts := rfl
@[simp] theorem demandOnly_loop (s t : State) : (demandOnly s t).loop = s.loop := rfl
@[simp] theorem demandOnly_shift (s t : State) : (demandOnly s t).shift = s.shift := rfl
@[simp] theorem demandOnly_brd_links (s t : State) : (demandOnly s t).brd.links = s.brd.links := rfl
@[simp] theorem demandOnly_brd_scale (s t : State) : (demandOnly s t).brd.scale = s.brd.scale := rfl
@[simp] theorem demandOnly_brd_refresh (s t : State) : (demandOnly s t).brd.refresh = s.brd.refresh := rfl
@[simp] theorem demandOnly_brd_boards (s t : State) : (demandOnly s t).brd.boards = (followed s t).brd.boards := rfl
@[simp] theorem demandOnly_store (s t : State) : (demandOnly s t).store = s.store := rfl
@[simp] theorem demandOnly_pending (s t : State) : (demandOnly s t).pending = s.pending := rfl
@[simp] theorem demandOnly_drv (s t : State) : (demandOnly s t).drv = t.drv := rfl
@[simp] theorem demandOnly_attr (s t : State) : (demandOnly s t).attr = t.attr := rfl
@[simp] theorem demandOnly_win (s t : State) : (demandOnly s t).win = t.win := rfl
@[simp] theorem demandOnly_jrn (s t : State) : (demandOnly s t).jrn = t.jrn := rfl
@[simp] theorem demandOnly_irq (s t : State) : (demandOnly s t).irq = t.irq := rfl

@[simp] theorem motionOnly_ms (s t : State) : (motionOnly s t).ms = s.ms := rfl
@[simp] theorem motionOnly_part (s t : State) : (motionOnly s t).part = s.part := rfl
@[simp] theorem motionOnly_resetKind (s t : State) : (motionOnly s t).resetKind = s.resetKind := rfl
@[simp] theorem motionOnly_pins (s t : State) : (motionOnly s t).pins = s.pins := rfl
@[simp] theorem motionOnly_ord (s t : State) : (motionOnly s t).ord = s.ord := rfl
@[simp] theorem motionOnly_setup (s t : State) : (motionOnly s t).setup = s.setup := rfl
@[simp] theorem motionOnly_alerts (s t : State) : (motionOnly s t).alerts = s.alerts := rfl
@[simp] theorem motionOnly_loop (s t : State) : (motionOnly s t).loop = s.loop := rfl
@[simp] theorem motionOnly_shift (s t : State) : (motionOnly s t).shift = s.shift := rfl
@[simp] theorem motionOnly_brd_links (s t : State) : (motionOnly s t).brd.links = s.brd.links := rfl
@[simp] theorem motionOnly_brd_scale (s t : State) : (motionOnly s t).brd.scale = s.brd.scale := rfl
@[simp] theorem motionOnly_brd_refresh (s t : State) : (motionOnly s t).brd.refresh = s.brd.refresh := rfl
@[simp] theorem motionOnly_brd_boards (s t : State) : (motionOnly s t).brd.boards = (followed s t).brd.boards := rfl
@[simp] theorem motionOnly_store (s t : State) : (motionOnly s t).store = s.store := rfl
@[simp] theorem motionOnly_pending (s t : State) : (motionOnly s t).pending = s.pending := rfl
@[simp] theorem motionOnly_drv (s t : State) : (motionOnly s t).drv = t.drv := rfl
@[simp] theorem motionOnly_attr (s t : State) : (motionOnly s t).attr = t.attr := rfl
@[simp] theorem motionOnly_win (s t : State) : (motionOnly s t).win = t.win := rfl
@[simp] theorem motionOnly_jrn (s t : State) : (motionOnly s t).jrn = t.jrn := rfl
@[simp] theorem motionOnly_irq (s t : State) : (motionOnly s t).irq = t.irq := rfl

@[simp] theorem shiftOnly_ms (s t : State) : (shiftOnly s t).ms = s.ms := rfl
@[simp] theorem shiftOnly_part (s t : State) : (shiftOnly s t).part = s.part := rfl
@[simp] theorem shiftOnly_resetKind (s t : State) : (shiftOnly s t).resetKind = s.resetKind := rfl
@[simp] theorem shiftOnly_pins (s t : State) : (shiftOnly s t).pins = s.pins := rfl
@[simp] theorem shiftOnly_ord (s t : State) : (shiftOnly s t).ord = s.ord := rfl
@[simp] theorem shiftOnly_setup (s t : State) : (shiftOnly s t).setup = s.setup := rfl
@[simp] theorem shiftOnly_alerts (s t : State) : (shiftOnly s t).alerts = s.alerts := rfl
@[simp] theorem shiftOnly_loop (s t : State) : (shiftOnly s t).loop = s.loop := rfl
@[simp] theorem shiftOnly_drv_drives (s t : State) : (shiftOnly s t).drv.drives = s.drv.drives := rfl
@[simp] theorem shiftOnly_drv_buffers (s t : State) : (shiftOnly s t).drv.buffers = s.drv.buffers := rfl
@[simp] theorem shiftOnly_drv_display (s t : State) : (shiftOnly s t).drv.display = t.drv.display := rfl
@[simp] theorem shiftOnly_brd_links (s t : State) : (shiftOnly s t).brd.links = s.brd.links := rfl
@[simp] theorem shiftOnly_brd_scale (s t : State) : (shiftOnly s t).brd.scale = s.brd.scale := rfl
@[simp] theorem shiftOnly_brd_refresh (s t : State) : (shiftOnly s t).brd.refresh = s.brd.refresh := rfl
@[simp] theorem shiftOnly_brd_boards (s t : State) : (shiftOnly s t).brd.boards = (followed s t).brd.boards := rfl
@[simp] theorem shiftOnly_store (s t : State) : (shiftOnly s t).store = s.store := rfl
@[simp] theorem shiftOnly_pending (s t : State) : (shiftOnly s t).pending = s.pending := rfl
@[simp] theorem shiftOnly_attr (s t : State) : (shiftOnly s t).attr = t.attr := rfl
@[simp] theorem shiftOnly_win (s t : State) : (shiftOnly s t).win = t.win := rfl
@[simp] theorem shiftOnly_jrn (s t : State) : (shiftOnly s t).jrn = t.jrn := rfl
@[simp] theorem shiftOnly_irq (s t : State) : (shiftOnly s t).irq = t.irq := rfl

@[simp] theorem serviceOnly_ms (s t : State) : (serviceOnly s t).ms = s.ms := rfl
@[simp] theorem serviceOnly_part (s t : State) : (serviceOnly s t).part = s.part := rfl
@[simp] theorem serviceOnly_resetKind (s t : State) : (serviceOnly s t).resetKind = s.resetKind := rfl
@[simp] theorem serviceOnly_pins (s t : State) : (serviceOnly s t).pins = s.pins := rfl
@[simp] theorem serviceOnly_calls (s t : State) : (serviceOnly s t).calls = s.calls := rfl
@[simp] theorem serviceOnly_alerts (s t : State) : (serviceOnly s t).alerts = s.alerts := rfl
@[simp] theorem serviceOnly_loop (s t : State) : (serviceOnly s t).loop = s.loop := rfl
@[simp] theorem serviceOnly_shift (s t : State) : (serviceOnly s t).shift = s.shift := rfl
@[simp] theorem serviceOnly_brd_links (s t : State) : (serviceOnly s t).brd.links = s.brd.links := rfl
@[simp] theorem serviceOnly_brd_scale (s t : State) : (serviceOnly s t).brd.scale = s.brd.scale := rfl
@[simp] theorem serviceOnly_brd_refresh (s t : State) : (serviceOnly s t).brd.refresh = s.brd.refresh := rfl
@[simp] theorem serviceOnly_brd_boards (s t : State) : (serviceOnly s t).brd.boards = (followed s t).brd.boards := rfl
@[simp] theorem serviceOnly_store (s t : State) : (serviceOnly s t).store = s.store := rfl
@[simp] theorem serviceOnly_pending (s t : State) : (serviceOnly s t).pending = s.pending := rfl
@[simp] theorem serviceOnly_drv (s t : State) : (serviceOnly s t).drv = t.drv := rfl
@[simp] theorem serviceOnly_attr (s t : State) : (serviceOnly s t).attr = t.attr := rfl
@[simp] theorem serviceOnly_win (s t : State) : (serviceOnly s t).win = t.win := rfl
@[simp] theorem serviceOnly_jrn (s t : State) : (serviceOnly s t).jrn = t.jrn := rfl
@[simp] theorem serviceOnly_irq (s t : State) : (serviceOnly s t).irq = t.irq := rfl

@[simp] theorem callsOnly_ms (s t : State) : (callsOnly s t).ms = s.ms := rfl
@[simp] theorem callsOnly_part (s t : State) : (callsOnly s t).part = s.part := rfl
@[simp] theorem callsOnly_resetKind (s t : State) : (callsOnly s t).resetKind = s.resetKind := rfl
@[simp] theorem callsOnly_pins (s t : State) : (callsOnly s t).pins = s.pins := rfl
@[simp] theorem callsOnly_loop (s t : State) : (callsOnly s t).loop = s.loop := rfl
@[simp] theorem callsOnly_brd_links (s t : State) : (callsOnly s t).brd.links = s.brd.links := rfl
@[simp] theorem callsOnly_brd_scale (s t : State) : (callsOnly s t).brd.scale = s.brd.scale := rfl
@[simp] theorem callsOnly_brd_refresh (s t : State) : (callsOnly s t).brd.refresh = s.brd.refresh := rfl
@[simp] theorem callsOnly_brd_boards (s t : State) : (callsOnly s t).brd.boards = (followed s t).brd.boards := rfl
@[simp] theorem callsOnly_store (s t : State) : (callsOnly s t).store = s.store := rfl
@[simp] theorem callsOnly_pending (s t : State) : (callsOnly s t).pending = s.pending := rfl
@[simp] theorem callsOnly_calls (s t : State) : (callsOnly s t).calls = t.calls := rfl
@[simp] theorem callsOnly_alerts (s t : State) : (callsOnly s t).alerts = t.alerts := rfl
@[simp] theorem callsOnly_drv (s t : State) : (callsOnly s t).drv = t.drv := rfl
@[simp] theorem callsOnly_attr (s t : State) : (callsOnly s t).attr = t.attr := rfl
@[simp] theorem callsOnly_win (s t : State) : (callsOnly s t).win = t.win := rfl
@[simp] theorem callsOnly_jrn (s t : State) : (callsOnly s t).jrn = t.jrn := rfl
@[simp] theorem callsOnly_irq (s t : State) : (callsOnly s t).irq = t.irq := rfl

@[simp] theorem fittingOnly_ms (s t : State) : (fittingOnly s t).ms = s.ms := rfl
@[simp] theorem fittingOnly_part (s t : State) : (fittingOnly s t).part = s.part := rfl
@[simp] theorem fittingOnly_resetKind (s t : State) : (fittingOnly s t).resetKind = s.resetKind := rfl
@[simp] theorem fittingOnly_pins (s t : State) : (fittingOnly s t).pins = s.pins := rfl
@[simp] theorem fittingOnly_ord (s t : State) : (fittingOnly s t).ord = s.ord := rfl
@[simp] theorem fittingOnly_setup (s t : State) : (fittingOnly s t).setup = s.setup := rfl
@[simp] theorem fittingOnly_alerts (s t : State) : (fittingOnly s t).alerts = s.alerts := rfl
@[simp] theorem fittingOnly_shift (s t : State) : (fittingOnly s t).shift = s.shift := rfl
@[simp] theorem fittingOnly_brd_links (s t : State) : (fittingOnly s t).brd.links = s.brd.links := rfl
@[simp] theorem fittingOnly_brd_scale (s t : State) : (fittingOnly s t).brd.scale = s.brd.scale := rfl
@[simp] theorem fittingOnly_brd_refresh (s t : State) : (fittingOnly s t).brd.refresh = s.brd.refresh := rfl
@[simp] theorem fittingOnly_brd_boards (s t : State) : (fittingOnly s t).brd.boards = (followed s t).brd.boards := rfl
@[simp] theorem fittingOnly_store (s t : State) : (fittingOnly s t).store = s.store := rfl
@[simp] theorem fittingOnly_pending (s t : State) : (fittingOnly s t).pending = s.pending := rfl
@[simp] theorem fittingOnly_drv (s t : State) : (fittingOnly s t).drv = t.drv := rfl
@[simp] theorem fittingOnly_attr (s t : State) : (fittingOnly s t).attr = t.attr := rfl
@[simp] theorem fittingOnly_win (s t : State) : (fittingOnly s t).win = t.win := rfl
@[simp] theorem fittingOnly_jrn (s t : State) : (fittingOnly s t).jrn = t.jrn := rfl
@[simp] theorem fittingOnly_irq (s t : State) : (fittingOnly s t).irq = t.irq := rfl

@[simp] theorem loopOnly_ms (s t : State) : (loopOnly s t).ms = s.ms := rfl
@[simp] theorem loopOnly_part (s t : State) : (loopOnly s t).part = s.part := rfl
@[simp] theorem loopOnly_resetKind (s t : State) : (loopOnly s t).resetKind = s.resetKind := rfl
@[simp] theorem loopOnly_pins (s t : State) : (loopOnly s t).pins = s.pins := rfl
@[simp] theorem loopOnly_brd_links (s t : State) : (loopOnly s t).brd.links = s.brd.links := rfl
@[simp] theorem loopOnly_brd_scale (s t : State) : (loopOnly s t).brd.scale = s.brd.scale := rfl
@[simp] theorem loopOnly_brd_refresh (s t : State) : (loopOnly s t).brd.refresh = s.brd.refresh := rfl
@[simp] theorem loopOnly_brd_boards (s t : State) : (loopOnly s t).brd.boards = (followed s t).brd.boards := rfl
@[simp] theorem loopOnly_store (s t : State) : (loopOnly s t).store = s.store := rfl
@[simp] theorem loopOnly_pending (s t : State) : (loopOnly s t).pending = s.pending := rfl
@[simp] theorem loopOnly_calls (s t : State) : (loopOnly s t).calls = t.calls := rfl
@[simp] theorem loopOnly_alerts (s t : State) : (loopOnly s t).alerts = t.alerts := rfl
@[simp] theorem loopOnly_drv (s t : State) : (loopOnly s t).drv = t.drv := rfl
@[simp] theorem loopOnly_attr (s t : State) : (loopOnly s t).attr = t.attr := rfl
@[simp] theorem loopOnly_win (s t : State) : (loopOnly s t).win = t.win := rfl
@[simp] theorem loopOnly_jrn (s t : State) : (loopOnly s t).jrn = t.jrn := rfl
@[simp] theorem loopOnly_irq (s t : State) : (loopOnly s t).irq = t.irq := rfl

@[simp] theorem setupOnly_ms (s t : State) : (setupOnly s t).ms = s.ms := rfl
@[simp] theorem setupOnly_part (s t : State) : (setupOnly s t).part = s.part := rfl
@[simp] theorem setupOnly_resetKind (s t : State) : (setupOnly s t).resetKind = s.resetKind := rfl
@[simp] theorem setupOnly_pins (s t : State) : (setupOnly s t).pins = s.pins := rfl
@[simp] theorem setupOnly_ord (s t : State) : (setupOnly s t).ord = s.ord := rfl
@[simp] theorem setupOnly_alerts (s t : State) : (setupOnly s t).alerts = s.alerts := rfl
@[simp] theorem setupOnly_shift (s t : State) : (setupOnly s t).shift = s.shift := rfl
@[simp] theorem setupOnly_brd_links (s t : State) : (setupOnly s t).brd.links = s.brd.links := rfl
@[simp] theorem setupOnly_brd_scale (s t : State) : (setupOnly s t).brd.scale = s.brd.scale := rfl
@[simp] theorem setupOnly_brd_refresh (s t : State) : (setupOnly s t).brd.refresh = s.brd.refresh := rfl
@[simp] theorem setupOnly_brd_boards (s t : State) : (setupOnly s t).brd.boards = (followed s t).brd.boards := rfl
@[simp] theorem setupOnly_store (s t : State) : (setupOnly s t).store = s.store := rfl
@[simp] theorem setupOnly_pending (s t : State) : (setupOnly s t).pending = s.pending := rfl
@[simp] theorem setupOnly_drv (s t : State) : (setupOnly s t).drv = t.drv := rfl
@[simp] theorem setupOnly_attr (s t : State) : (setupOnly s t).attr = t.attr := rfl
@[simp] theorem setupOnly_win (s t : State) : (setupOnly s t).win = t.win := rfl
@[simp] theorem setupOnly_jrn (s t : State) : (setupOnly s t).jrn = t.jrn := rfl
@[simp] theorem setupOnly_irq (s t : State) : (setupOnly s t).irq = t.irq := rfl

@[simp] theorem boardOnly_ms (s t : State) : (boardOnly s t).ms = s.ms := rfl
@[simp] theorem boardOnly_part (s t : State) : (boardOnly s t).part = s.part := rfl
@[simp] theorem boardOnly_resetKind (s t : State) : (boardOnly s t).resetKind = s.resetKind := rfl
@[simp] theorem boardOnly_pins (s t : State) : (boardOnly s t).pins = s.pins := rfl
@[simp] theorem boardOnly_setup (s t : State) : (boardOnly s t).setup = s.setup := rfl
@[simp] theorem boardOnly_calls (s t : State) : (boardOnly s t).calls = s.calls := rfl
@[simp] theorem boardOnly_alerts (s t : State) : (boardOnly s t).alerts = s.alerts := rfl
@[simp] theorem boardOnly_loop (s t : State) : (boardOnly s t).loop = s.loop := rfl
@[simp] theorem boardOnly_drv (s t : State) : (boardOnly s t).drv = s.drv := rfl
@[simp] theorem boardOnly_attr (s t : State) : (boardOnly s t).attr = s.attr := rfl
@[simp] theorem boardOnly_shift (s t : State) : (boardOnly s t).shift = s.shift := rfl
@[simp] theorem boardOnly_store (s t : State) : (boardOnly s t).store = s.store := rfl
@[simp] theorem boardOnly_pending (s t : State) : (boardOnly s t).pending = s.pending := rfl
@[simp] theorem boardOnly_brd (s t : State) : (boardOnly s t).brd = t.brd := rfl
@[simp] theorem boardOnly_win (s t : State) : (boardOnly s t).win = t.win := rfl
@[simp] theorem boardOnly_jrn (s t : State) : (boardOnly s t).jrn = t.jrn := rfl
@[simp] theorem boardOnly_irq (s t : State) : (boardOnly s t).irq = t.irq := rfl

@[simp] theorem storeOnly_ms (s t : State) : (storeOnly s t).ms = s.ms := rfl
@[simp] theorem storeOnly_part (s t : State) : (storeOnly s t).part = s.part := rfl
@[simp] theorem storeOnly_resetKind (s t : State) : (storeOnly s t).resetKind = s.resetKind := rfl
@[simp] theorem storeOnly_pins (s t : State) : (storeOnly s t).pins = s.pins := rfl
@[simp] theorem storeOnly_setup (s t : State) : (storeOnly s t).setup = s.setup := rfl
@[simp] theorem storeOnly_calls (s t : State) : (storeOnly s t).calls = s.calls := rfl
@[simp] theorem storeOnly_alerts (s t : State) : (storeOnly s t).alerts = s.alerts := rfl
@[simp] theorem storeOnly_loop (s t : State) : (storeOnly s t).loop = s.loop := rfl
@[simp] theorem storeOnly_drv (s t : State) : (storeOnly s t).drv = s.drv := rfl
@[simp] theorem storeOnly_attr (s t : State) : (storeOnly s t).attr = s.attr := rfl
@[simp] theorem storeOnly_shift (s t : State) : (storeOnly s t).shift = s.shift := rfl
@[simp] theorem storeOnly_brd (s t : State) : (storeOnly s t).brd = s.brd := rfl
@[simp] theorem storeOnly_pending (s t : State) : (storeOnly s t).pending = s.pending := rfl
@[simp] theorem storeOnly_store (s t : State) : (storeOnly s t).store = t.store := rfl
@[simp] theorem storeOnly_win (s t : State) : (storeOnly s t).win = t.win := rfl
@[simp] theorem storeOnly_jrn (s t : State) : (storeOnly s t).jrn = t.jrn := rfl
@[simp] theorem storeOnly_irq (s t : State) : (storeOnly s t).irq = t.irq := rfl

end Sys2Proof.Machine
end

