-- ==== Sys2Proof/Laws/Ops.lean ====
section
/-! SUPPORT. What each shared operation can do, said once: which rows and which bytes of the exchange memory it touches
(`Touches`, to be composed by `Touches.trans`), that it keeps the memory canonical, and what an answer, an append and an
order command leave. The blocks an operation leaves alone are in Laws/State.lean. -/

namespace Sys2Proof.Machine

/-! ### Rows -/

@[simp] theorem padTo_length (n : Nat) (bs : List Byte) : (padTo n bs).length = n := by
  simp [padTo]; omega

theorem Row.index_val (r : Row) : r.index.val = match r with
    | .header => 0
    | .drive d => 1 + d.val
    | .zone z => 9 + z.val
    | .buffer k => 17 + k.val
    | .group g => 24 + g.val
    | .panel p => 48 + p.val
    | .board b => 88 + b.val
    | .tally => 104
    | .paceLists => 105
    | .station n => 106 + n.val
    | .openSlot d => 266 + d.val
    | .history i => 274 + i.val
    | .shiftHistory i => 338 + i.val := by
  cases r <;> rfl

/-- No two rows share a change count. -/
theorem Row.index_injective {q r : Row} (h : q.index = r.index) : q = r := by
  replace h := congrArg Fin.val h
  rw [Row.index_val, Row.index_val] at h
  cases q <;> cases r <;> dsimp only at h <;>
    first
    | rfl
    | (congr 1; apply Fin.ext; omega)
    | (exfalso; omega)

/-- What a writing of a row stores stands in the row's own ranges, in order. -/
theorem rowChunks_ranges (s : State) (r : Row) (n : Half) :
    (rowChunks s r n).map (fun c => (c.1, c.2.length)) = r.ranges := by
  cases r <;> simp [rowChunks, Row.ranges]

theorem Row.ranges_inside (r : Row) : ∀ x ∈ r.ranges, x.1 + x.2 ≤ 0x9000 := by
  cases r <;> simp [Row.ranges, Row.base, Row.size] <;> omega

/-! ### What an operation touches of the exchange memory -/

/-- From `s` to `t` no change count but those of `rows` has moved, no byte outside those rows and `ranges` has changed, and
a canonical memory has stayed canonical. -/
def Touches (rows : List Row) (ranges : List (Nat × Nat)) (s t : State) : Prop :=
  (∀ r, r ∉ rows → t.win.counts[r.index] = s.win.counts[r.index])
    ∧ (∀ a, outside ((rows.map Row.ranges).flatten ++ ranges) a → t.readByte a = s.readByte a)
    ∧ (Memory.wf s.win.mem = true → Memory.wf t.win.mem = true)

variable {rows rows' : List Row} {ranges ranges' : List (Nat × Nat)} {s t u : State}

theorem Touches.of_win (h : t.win = s.win) : Touches rows ranges s t := by
  simp [Touches, State.readByte, h]

theorem Touches.refl : Touches rows ranges s s := Touches.of_win rfl

theorem Touches.trans (h : Touches rows ranges s t) (k : Touches rows ranges t u) : Touches rows ranges s u :=
  ⟨fun r hr => (k.1 r hr).trans (h.1 r hr), fun a ha => (k.2.1 a ha).trans (h.2.1 a ha), fun w => k.2.2 (h.2.2 w)⟩

/-- Two states with the same window are as good as one another. -/
theorem Touches.congr_left (h : t.win = s.win) (k : Touches rows ranges t u) : Touches rows ranges s u :=
  (Touches.of_win h).trans k
theorem Touches.congr_right (h : u.win = t.win) (k : Touches rows ranges s t) : Touches rows ranges s u :=
  k.trans (Touches.of_win h)

theorem Touches.mono (h : Touches rows ranges s t) (hr : rows ⊆ rows')
    (hx : ∀ x ∈ ranges, x ∈ (rows'.map Row.ranges).flatten ++ ranges') : Touches rows' ranges' s t := by
  refine ⟨fun r n => h.1 r fun m => n (hr m), fun a o => h.2.1 a fun x m => ?_, h.2.2⟩
  rcases List.mem_append.1 m with m | m
  · refine o x (List.mem_append_left _ ?_)
    simp only [List.mem_flatten, List.mem_map] at m ⊢
    obtain ⟨l, ⟨r, hr', rfl⟩, hx'⟩ := m
    exact ⟨_, ⟨r, hr hr', rfl⟩, hx'⟩
  · exact o x (hx x m)

/-- One operation for each element of a list. -/
theorem Touches.each {α : Type} (l : List α) (f : α → State → State) (h : ∀ x ∈ l, ∀ s, Touches rows ranges s (f x s)) (s : State) :
    Touches rows ranges s (Machine.each l f s) := by
  induction l generalizing s with
  | nil => exact .refl
  | cons x xs ih =>
    exact (h x (List.mem_cons_self ..) s).trans (ih (fun y hy => h y (List.mem_cons_of_mem _ hy)) (f x s))

theorem touches_writeBytes (a : Nat) (bs : List Byte) (s : State) (h : a + bs.length ≤ 0x9000) :
    Touches [] [(a, bs.length)] s (writeBytes a bs s) := by
  refine ⟨fun _ _ => rfl, fun x o => ?_, fun w => Memory.wf_write _ _ _ w h⟩
  exact Memory.read_write_outside _ _ _ _ (by simpa [outside] using o)

/-- A fold of writes leaves what lies outside each of them, and keeps the canonical form. -/
theorem read_foldl_write (l : List (Nat × List Byte)) (m : List Host.Cell) (a : Nat)
    (h : ∀ c ∈ l, a < c.1 ∨ c.1 + c.2.length ≤ a) :
    Memory.read (l.foldl (fun m c => Memory.write m c.1 c.2) m) a = Memory.read m a := by
  induction l generalizing m with
  | nil => rfl
  | cons c cs ih =>
    simp only [List.foldl_cons]
    rw [ih _ fun d hd => h d (List.mem_cons_of_mem _ hd), Memory.read_write_outside _ _ _ _ (h c (List.mem_cons_self ..))]

theorem wf_foldl_write (l : List (Nat × List Byte)) (m : List Host.Cell) (w : Memory.wf m = true)
    (h : ∀ c ∈ l, c.1 + c.2.length ≤ 0x9000) :
    Memory.wf (l.foldl (fun m c => Memory.write m c.1 c.2) m) = true := by
  induction l generalizing m with
  | nil => exact w
  | cons c cs ih =>
    exact ih _ (Memory.wf_write _ _ _ w (h c (List.mem_cons_self ..))) fun d hd => h d (List.mem_cons_of_mem _ hd)

/-- A writing of a row moves its change count by two and stores nothing outside the row (R6). -/
theorem writeRow_count (r : Row) (s : State) : (writeRow r s).win.counts[r.index] = s.win.counts[r.index] + 2 := by
  simp [writeRow, upd]

theorem touches_writeRow (r : Row) (s : State) : Touches [r] [] s (writeRow r s) := by
  refine ⟨fun q hq => ?_, fun a o => ?_, fun w => ?_⟩
  · have hne : r.index.val ≠ q.index.val := fun e => hq (by simp [Row.index_injective (Fin.ext e.symm)])
    simp [writeRow, upd, Vector.getElem_set_ne, hne]
  · refine read_foldl_write _ _ _ fun c hc => ?_
    have hm : (c.1, c.2.length) ∈ (rowChunks s r (s.win.counts[r.index] + 2)).map fun c => (c.1, c.2.length) :=
      List.mem_map_of_mem hc
    rw [rowChunks_ranges] at hm
    exact o _ (by simpa using hm)
  · refine wf_foldl_write _ _ w fun c hc => ?_
    have hm : (c.1, c.2.length) ∈ (rowChunks s r (s.win.counts[r.index] + 2)).map fun c => (c.1, c.2.length) :=
      List.mem_map_of_mem hc
    rw [rowChunks_ranges] at hm
    exact r.ranges_inside _ hm

theorem touches_syncRow (old : State) (r : Row) (s : State) : Touches [r] [] s (syncRow old r s) := by
  unfold syncRow
  split
  · exact .refl
  · exact .congr_right rfl (touches_writeRow r s)

theorem touches_writeRows (rs : List Row) (s : State) : Touches rs [] s (writeRows rs s) :=
  .congr_right rfl (Touches.each rs writeRow (fun r hr t => (touches_writeRow r t).mono (by simpa using hr) (by simp)) s)

theorem touches_syncRows (old : State) (rs : List Row) (s : State) : Touches rs [] s (syncRows old rs s) :=
  .congr_right rfl (Touches.each rs (syncRow old) (fun r hr t => (touches_syncRow old r t).mono (by simpa using hr) (by simp)) s)

theorem touches_writeText (e : Fin 64) (s : State) : Touches [] [textRange e] s (writeText e s) := by
  have h := touches_writeBytes (textBase e) s.setup.texts[e].toList s (by simp [textBase]; omega)
  simpa [textRange, writeText] using h

/-! ### The journal (chapter 10) -/

theorem wordBytes_length (w : Word) : (wordBytes w).length = 4 := rfl

@[simp] theorem leBytes_length (w v : Nat) : (leBytes w v).length = w := by
  induction w generalizing v with
  | zero => rfl
  | succ n ih => simp [leBytes, ih]

@[simp] theorem entryBytes_length (q : Word) (e : Entry) : (entryBytes q e).length = 16 := by
  simp [entryBytes, layoutFrom, wordBytes_length]

theorem touches_writeEntry (e : Entry) (s : State) : Touches [.header] [journalRange] s (writeEntry e s) := by
  have hr : (ringRow s.jrn.put).val < 512 := (ringRow s.jrn.put).isLt
  have h := touches_writeBytes (journalBase (ringRow s.jrn.put).val) (entryBytes s.jrn.sequence e) s
    (by simp [journalBase]; omega)
  have h' : Touches [.header] [journalRange] s
      (writeBytes (journalBase (ringRow s.jrn.put).val) (entryBytes s.jrn.sequence e) s) := by
    refine ⟨fun r _ => h.1 r (by simp), fun a o => h.2.1 a ?_, h.2.2⟩
    have hj := o journalRange (by simp)
    simp only [journalRange] at hj
    simp [outside, journalBase]; omega
  unfold writeEntry
  refine h'.trans (Touches.congr_right (raiseIf_win ..)
    (Touches.congr_left ?_ ((touches_writeRow .header _).mono (by simp) (by simp))))
  rfl

theorem touches_closeGap (s : State) : Touches [.header] [journalRange] s (closeGap s) := by
  unfold closeGap
  split
  · refine (touches_writeEntry (ownEntry kindGap s.jrn.gap s) s).trans
      (Touches.congr_left ?_ ((touches_writeRow .header _).mono (by simp) (by simp)))
    rfl
  · exact .refl

@[simp] theorem acceptTake_win (v : Word) (s : State) : (acceptTake v s).win = s.win := by
  unfold acceptTake followOldest expireAge raiseNotice raiseIf
  split <;> try rfl
  split <;> try rfl
  split <;> rfl

theorem touches_readTakeStep (s : State) : Touches [.header] [journalRange] s (readTakeStep s) := by
  unfold readTakeStep
  dsimp only
  split
  · exact .congr_left (by simp) (touches_closeGap _)
  · have h : Touches [.header] [journalRange] s (closeGap (acceptTake s.jrn.put s)) :=
      .congr_left (by simp) (touches_closeGap _)
    split
    · exact h
    · refine h.trans (Touches.congr_left ?_ (touches_writeEntry _ _))
      rfl

theorem touches_readTake (s : State) : Touches [.header] [journalRange] s (readTake s) :=
  .congr_right rfl (touches_readTakeStep s)

theorem touches_dropEntry (s : State) : Touches [.header] [journalRange] s (dropEntry s) := by
  unfold dropEntry
  refine Touches.congr_right (raiseIf_win ..)
    (Touches.congr_left ?_ ((touches_writeRow .header _).mono (by simp) (by simp)))
  rfl

/-- An append touches the header and the journal (R155 to R157). -/
theorem touches_journal (e : Entry) (s : State) : Touches [.header] [journalRange] s (journal e s) := by
  refine Touches.congr_right (t := if (readTakeStep s).unread = 512 then dropEntry (readTakeStep s)
    else writeEntry e (readTakeStep s)) rfl ((touches_readTakeStep s).trans ?_)
  split
  · exact touches_dropEntry _
  · exact touches_writeEntry _ _

theorem touches_log (k f x a b : Nat) (s : State) : Touches [.header] [journalRange] s (log k f x a b s) :=
  touches_journal _ s

theorem touches_logAt (w k f x a b : Nat) (s : State) : Touches [.header] [journalRange] s (logAt w k f x a b s) :=
  touches_journal _ s

/-! ### The order unit -/

theorem halfBytes_length (h : Half) : (halfBytes h).length = 2 := rfl

/-- A store inside a slot's 64 bytes touches the slot. -/
theorem touches_slotWrite (k : Fin 24) (i : Nat) (bs : List Byte) (s : State) (h : i + bs.length ≤ 64) :
    Touches [] [slotRange k] s (writeBytes (slotBase k + i) bs s) := by
  have w := touches_writeBytes (slotBase k + i) bs s (by simp [slotBase]; omega)
  refine ⟨fun r _ => w.1 r (by simp), fun a o => w.2.1 a ?_, w.2.2⟩
  have o' := o (slotRange k) (by simp)
  simp only [slotRange] at o'
  simp [outside]; omega

theorem touches_answerSlot (k : Fin 24) (n : Bool) (g : Half) (x : Answer) (s : State) :
    Touches [] [slotRange k] s (answerSlot k n g x s) := by
  have h1 : Touches [] [slotRange k] s (match x.params with
      | some ps => writeBytes (slotBase k + 16) (padTo 48 ps) s
      | none => s) := by
    split
    · exact touches_slotWrite k 16 _ s (by simp)
    · exact .refl
  refine Touches.congr_right (t := writeBytes (slotBase k) [3] (writeBytes (slotBase k + 3)
    (BitVec.ofNat 8 x.code :: (halfBytes g ++ leBytes 2 x.detail ++ padTo 8 x.data)) _)) rfl (h1.trans ?_)
  exact (touches_slotWrite k 3 _ _ (by simp [halfBytes_length])).trans (touches_slotWrite k 0 _ _ (by simp))

theorem Memory.readRun_write_inside (m : List Host.Cell) (a i l : Nat) (bs : List Byte) (h : i + l ≤ bs.length) :
    Memory.readRun (Memory.write m a bs) (a + i) l = (bs.drop i).take l := by
  apply List.ext_getElem
  · simp; omega
  · intro j h1 h2
    simp only [Memory.readRun_length] at h1
    simp only [Memory.readRun, List.getElem_map, List.getElem_range, List.getElem_take, List.getElem_drop]
    rw [Nat.add_assoc, Memory.read_write_inside _ _ _ _ (by omega), byteAt, List.getD_eq_getElem]

/-- An answered slot shows its answer (R7, R17). -/
theorem answerSlot_shows (k : Fin 24) (n : Bool) (g : Half) (x : Answer) (s : State) :
    (answerSlot k n g x s).shows k g x := by
  obtain ⟨m, hm, hp⟩ : ∃ m, (answerSlot k n g x s).win.mem = Memory.write (Memory.write m (slotBase k + 3)
        (BitVec.ofNat 8 x.code :: (halfBytes g ++ leBytes 2 x.detail ++ padTo 8 x.data))) (slotBase k) [3]
      ∧ ∀ ps, x.params = some ps → Memory.readRun m (slotBase k + 16) 48 = padTo 48 ps := by
    refine ⟨_, rfl, fun ps h => ?_⟩
    simp only [h]
    exact (congrArg _ (padTo_length 48 ps).symm).trans (Memory.readRun_write_same s.win.mem (slotBase k + 16) (padTo 48 ps))
  have hl : (BitVec.ofNat 8 x.code :: (halfBytes g ++ leBytes 2 x.detail ++ padTo 8 x.data)).length = 13 := by
    simp [halfBytes_length]
  have past : ∀ i l, 3 ≤ i → i + l ≤ 16 → Memory.readRun (answerSlot k n g x s).win.mem (slotBase k + i) l
      = ((BitVec.ofNat 8 x.code :: (halfBytes g ++ leBytes 2 x.detail ++ padTo 8 x.data)).drop (i - 3)).take l := by
    intro i l h1 h2
    rw [hm, Memory.readRun_write_outside _ _ _ _ _ (by right; simp; omega),
      ← Memory.readRun_write_inside m (slotBase k + 3) (i - 3) l _ (by omega)]
    congr 1
    omega
  refine ⟨?_, ?_, ?_, ?_, ?_, fun ps h => ?_⟩
  · show Memory.read (answerSlot k n g x s).win.mem (slotBase k) = 3
    rw [hm]
    exact Memory.read_write_inside _ (slotBase k) 0 [3] (by simp)
  · show Memory.read (answerSlot k n g x s).win.mem (slotBase k + 3) = _
    rw [hm, Memory.read_write_outside _ _ _ _ (by right; simp)]
    exact Memory.read_write_inside _ (slotBase k + 3) 0 _ (by omega)
  · exact (past 4 2 (by omega) (by omega)).trans rfl
  · refine (past 6 2 (by omega) (by omega)).trans ?_
    simp [halfBytes]
  · refine (past 8 8 (by omega) (by omega)).trans ?_
    simp [halfBytes, leBytes, List.take_of_length_le]
  · show Memory.readRun (answerSlot k n g x s).win.mem (slotBase k + 16) 48 = _
    rw [hm, Memory.readRun_write_outside _ _ _ _ _ (by right; simp),
      Memory.readRun_write_outside _ _ _ _ _ (by right; rw [hl]), hp ps h]

theorem touches_acceptSlot (k : Fin 24) (n : Bool) (g : Half) (s : State) : Touches [] [slotRange k] s (acceptSlot k n g s) :=
  .congr_right rfl (touches_slotWrite k 0 [2] s (by simp))

/-- A violation touches the header and the journal (R12). -/
theorem touches_violation (r : Nat) (k : Fin 24) (x v : Byte) (s : State) :
    Touches [.header] [journalRange] s (violation r k x v s) := by
  unfold violation
  split
  · exact .congr_left rfl ((touches_writeRow .header _).mono (by simp) (by simp))
  · refine Touches.trans ?_ (touches_log ..)
    exact .congr_left rfl (.congr_right rfl ((touches_writeRow .header _).mono (by simp) (by simp)))

theorem touches_dropWork (k : Fin 24) (s : State) : Touches rows ranges s (dropWork k s) :=
  .of_win (s := s) (t := dropWork k s) rfl

/-- The end of a long order touches its slot, the header and the journal (R11). -/
theorem touches_endLong (k : Fin 24) (x : Answer) (s : State) :
    Touches [.header] [slotRange k, journalRange] s (endLong k x s) := by
  unfold endLong
  split
  · exact .refl
  · dsimp only
    split
    · exact (touches_dropWork k s).trans ((touches_answerSlot k _ _ x _).mono (by simp) (by simp))
    · exact (touches_dropWork k s).trans ((touches_violation _ k _ _ _).mono (by simp) (by simp))

theorem touches_abortLong (w : Work) (s : State) : Touches [] [slotRange w.slot] s (abortLong w s) := by
  unfold abortLong
  dsimp only
  split
  · exact (touches_dropWork w.slot s).trans (touches_answerSlot w.slot _ _ _ _)
  · exact touches_dropWork w.slot s

/-! ### What closes an event -/

theorem refreshDisplays_win (s : State) : (refreshDisplays s).win = (each (List.finRange 8) refreshDisplay s).win := by
  simp only [refreshDisplays]

theorem touches_refreshDisplays (s : State) : Touches zoneRows [] s (refreshDisplays s) := by
  refine .congr_right (refreshDisplays_win s) (Touches.each (List.finRange 8) refreshDisplay (fun z _ t => ?_) s)
  unfold refreshDisplay
  split
  · exact .refl
  · exact .congr_left rfl ((touches_writeRow (.zone z) _).mono (by simp [zoneRows]) (by simp))

/-- Following a change touches the zone rows alone (R102). -/
theorem touches_follow (old s : State) : Touches zoneRows [] s (follow old s) :=
  .congr_right (renderFields_win false old (refreshDisplays s)) (touches_refreshDisplays s)

/-- The rewriting of the boards touches the board rows alone (R139). -/
theorem touches_rewriteBoards (old s : State) : Touches boardRows [] s (rewriteBoards old s) := by
  refine .congr_right rfl ((touches_syncRows old _ s).mono (fun r h => ?_) (by simp))
  simp only [List.mem_map, List.mem_filter] at h
  obtain ⟨i, -, rfl⟩ := h
  simp [boardRows]

/-- What closes an event touches the zone and board rows alone (R102, R139). -/
theorem touches_settle (old s : State) : Touches (zoneRows ++ boardRows) [] s (settle old s) :=
  ((touches_follow old s).mono (by simp) (by simp)).trans ((touches_rewriteBoards old _).mono (by simp) (by simp))

theorem touches_renderAll (s : State) : Touches boardRows [] s (renderAll s) :=
  .congr_left rfl (touches_rewriteBoards s (renderFields true s s))

/-- Rendering changes a board's contents and stale set alone (R145). -/
@[simp] theorem renderBoard_plain (force : Bool) (old s : State) (b : Board) : (renderBoard force old s b).plain = b.plain := by
  unfold renderBoard
  split
  · rfl
  · simp only [Board.plain]

@[simp] theorem withRendering_plain (b c : Board) : (b.withRendering c).plain = b.plain := rfl

@[simp] theorem renderFields_plain (force : Bool) (old s : State) :
    (renderFields force old s).brd.boards.map Board.plain = s.brd.boards.map Board.plain := by
  ext1 i h
  simp [renderFields]

@[simp] theorem follow_plain (old s : State) : (follow old s).brd.boards.map Board.plain = s.brd.boards.map Board.plain := by
  simp [follow]

@[simp] theorem settle_plain (old s : State) : (settle old s).brd.boards.map Board.plain = s.brd.boards.map Board.plain := by
  simp [settle]

@[simp] theorem followed_plain (s t : State) : (followed s t).brd.boards.map Board.plain = s.brd.boards.map Board.plain := by
  ext1 i h
  simp [followed]

/-! ### Interrupts (R4, R159) -/

theorem interruptsOf_line (x m : BitVec 5) :
    (interruptsOf x m).line = true ↔ ∃ i : Fin 5, x[i] = true ∧ m[i] = true := by
  simp only [interruptsOf, bne_iff_ne, ne_eq]
  constructor
  · intro h
    by_contra hn
    refine h (BitVec.eq_of_getElem_eq fun i hi => ?_)
    have := fun g => hn ⟨⟨i, hi⟩, g⟩
    simpa [BitVec.getElem_and] using this
  · rintro ⟨i, hc, hm⟩ h
    have := congrArg (fun b : BitVec 5 => b[i]) h
    simp only [Fin.getElem_fin, BitVec.getElem_and] at this hc hm
    simp [hc, hm] at this

/-- A raised cause is pending, and the line follows. -/
theorem raiseCause_raised (c : CauseName) (s : State) : (raiseCause c s).raised c := by
  cases c <;> simp [State.raised, raiseCause, interruptsOf, CauseName.mask, CauseName.bit, BitVec.getElem_or]

theorem raiseCause_lineFollows (c : CauseName) (s : State) : (raiseCause c s).lineFollows := interruptsOf_line _ _

theorem raiseIf_lineFollows (b : Bool) (c : CauseName) (s : State) (h : s.lineFollows) : (raiseIf b c s).lineFollows := by
  cases b
  · exact h
  · exact interruptsOf_line _ _

theorem raiseIf_keeps (b : Bool) (c d : CauseName) (s : State) (h : s.raised d) : (raiseIf b c s).raised d := by
  cases b
  · exact h
  · simp only [State.raised, raiseIf, interruptsOf, if_true] at *
    simp only [Fin.getElem_fin, BitVec.getElem_or, Bool.or_eq_true] at *
    exact Or.inl h

/-! ### The counts of the journal (R155 to R157) -/

@[simp] theorem acceptTake_put (v : Word) (s : State) : (acceptTake v s).jrn.put = s.jrn.put := by
  unfold acceptTake followOldest expireAge raiseNotice raiseIf
  split <;> try rfl
  split <;> try rfl
  split <;> rfl
@[simp] theorem acceptTake_sequence (v : Word) (s : State) : (acceptTake v s).jrn.sequence = s.jrn.sequence := by
  unfold acceptTake followOldest expireAge raiseNotice raiseIf
  split <;> try rfl
  split <;> try rfl
  split <;> rfl
@[simp] theorem acceptTake_gap (v : Word) (s : State) : (acceptTake v s).jrn.gap = s.jrn.gap := by
  unfold acceptTake followOldest expireAge raiseNotice raiseIf
  split <;> try rfl
  split <;> try rfl
  split <;> rfl
@[simp] theorem acceptTake_accepted (v : Word) (s : State) : (acceptTake v s).jrn.accepted = v := by
  unfold acceptTake followOldest expireAge raiseNotice raiseIf
  split
  · simp_all
  · split <;> try rfl
    split <;> rfl

@[simp] theorem writeEntry_put (e : Entry) (s : State) : (writeEntry e s).jrn.put = s.jrn.put + 1 := by
  simp [writeEntry, raiseNotice]
@[simp] theorem writeEntry_sequence (e : Entry) (s : State) : (writeEntry e s).jrn.sequence = s.jrn.sequence + 1 := by
  simp [writeEntry, raiseNotice]
@[simp] theorem writeEntry_accepted (e : Entry) (s : State) : (writeEntry e s).jrn.accepted = s.jrn.accepted := by
  simp [writeEntry, raiseNotice]

/-- A written entry is one more unread. -/
theorem writeEntry_unread (e : Entry) (s : State) (h : s.unread < 512) : (writeEntry e s).unread = s.unread + 1 := by
  simp only [State.unread, writeEntry_put, writeEntry_accepted] at *
  bv_omega

theorem writeEntry_counts (e : Entry) (s : State) (h : s.unread < 512) (q : s.jrn.sequence = s.jrn.put + 1) :
    (writeEntry e s).journalCounts :=
  ⟨by rw [writeEntry_unread e s h]; omega, by rw [writeEntry_sequence, writeEntry_put, q]⟩

theorem closeGap_counts (s : State) (h : s.journalCounts) : (closeGap s).journalCounts := by
  unfold closeGap
  split
  · next g => exact writeEntry_counts (ownEntry kindGap s.jrn.gap s) s g.2 h.2
  · exact h

/-- A read of the take count leaves at most 512 entries unread, whatever stands in the field (R156). -/
theorem readTakeStep_counts (s : State) (q : s.jrn.sequence = s.jrn.put + 1) : (readTakeStep s).journalCounts := by
  unfold readTakeStep
  dsimp only
  split
  · next h => exact closeGap_counts _ ⟨by simpa [State.unread] using h, by simp [q]⟩
  · have hc : (acceptTake s.jrn.put s).journalCounts := ⟨by simp [State.unread], by simp [q]⟩
    have h1 : (closeGap (acceptTake s.jrn.put s)).unread ≤ 1 := by
      unfold closeGap
      have h0 : (acceptTake s.jrn.put s).unread = 0 := by simp [State.unread]
      split
      · have := writeEntry_unread (ownEntry kindGap (acceptTake s.jrn.put s).jrn.gap (acceptTake s.jrn.put s))
          (acceptTake s.jrn.put s) (by omega)
        simp only [State.unread] at this h0 ⊢
        show _ ≤ 1
        simp only [writeRow_jrn]
        omega
      · omega
    split
    · exact closeGap_counts _ hc
    · refine writeEntry_counts _ _ ?_ (closeGap_counts _ hc).2
      show (closeGap (acceptTake s.jrn.put s)).unread < 512
      omega

theorem readTake_counts (s : State) (q : s.jrn.sequence = s.jrn.put + 1) : (readTake s).journalCounts := readTakeStep_counts s q

/-- An append keeps the counts (R155, R157). -/
theorem journal_counts (e : Entry) (s : State) (q : s.jrn.sequence = s.jrn.put + 1) : (journal e s).journalCounts := by
  have h := readTakeStep_counts s q
  show (if (readTakeStep s).unread = 512 then dropEntry (readTakeStep s) else writeEntry e (readTakeStep s)).journalCounts
  split
  · exact h
  · exact writeEntry_counts e _ (by have := h.1; omega) h.2

/-- With room and the take count as last adopted, the read before an append changes nothing but the mark of the last bad
value, and the append is a writing of the entry (R155, R156). -/
theorem journal_hasRoom (e : Entry) (s : State) (h : s.hasRoom 1) :
    ∃ t, (journal e s).jrn = (writeEntry e t).jrn ∧ (journal e s).win = (writeEntry e t).win ∧ t.win = s.win ∧ t.ms = s.ms
      ∧ t.jrn = { s.jrn with lastBad := none } := by
  obtain ⟨hv, hu, hg⟩ := h
  have hle : (s.jrn.put - s.takeField).toNat ≤ 512 := by rw [hv]; simp only [State.unread] at hu; omega
  have hr : readTakeStep s = { s with jrn := { s.jrn with lastBad := none } } := by
    unfold readTakeStep
    simp only [hle, if_true]
    simp [closeGap, acceptTake, hv, hg]
  refine ⟨{ s with jrn := { s.jrn with lastBad := none } }, ?_, ?_, rfl, rfl, rfl⟩ <;>
  · have hne : ({ s with jrn := { s.jrn with lastBad := none } } : State).unread ≠ 512 := by
      simp only [State.unread] at hu ⊢; omega
    simp [journal, hr, hne]

theorem writeEntry_win (e : Entry) (s : State) : ∃ x, (writeEntry e s).win = (writeRow .header x).win
    ∧ x.win = (writeBytes (journalBase (ringRow s.jrn.put).val) (entryBytes s.jrn.sequence e) s).win := by
  refine ⟨{ writeBytes (journalBase (ringRow s.jrn.put).val) (entryBytes s.jrn.sequence e) s with
    jrn := (writeEntry e s).jrn }, ?_, by simp only⟩
  simp only [writeEntry, raiseNotice, raiseIf_win, raiseIf_jrn, writeRow_jrn]

/-- The entry stands in its row of the ring with its sequence number, the counts one on (R155). -/
theorem writeEntry_journaled (e : Entry) (s : State) : Journaled [e] s (writeEntry e s) := by
  refine ⟨writeEntry_put e s, writeEntry_sequence e s, fun i e' h => ?_⟩
  obtain ⟨rfl, rfl⟩ : i = 0 ∧ e' = e := by
    cases i <;> simp_all
  have far : ∀ a, 0x7000 ≤ a → (writeEntry e' s).readByte a
      = Memory.read (Memory.write s.win.mem (journalBase (ringRow s.jrn.put).val) (entryBytes s.jrn.sequence e')) a := by
    intro a ha
    obtain ⟨x, hx, hw⟩ := writeEntry_win e' s
    have o : outside (([Row.header].map Row.ranges).flatten ++ []) a := by
      intro r hr
      simp [Row.ranges] at hr
      rcases hr with rfl | rfl <;> simp <;> omega
    have h1 := (touches_writeRow .header x).2.1 a o
    simp only [State.readByte] at h1 ⊢
    rw [hx, h1, hw]
    rfl
  have run : (writeEntry e' s).readRun (journalBase (ringRow s.jrn.put).val) 16
      = Memory.readRun (Memory.write s.win.mem (journalBase (ringRow s.jrn.put).val) (entryBytes s.jrn.sequence e'))
          (journalBase (ringRow s.jrn.put).val) 16 := by
    refine List.map_congr_left fun j _ => far _ ?_
    simp only [journalBase]
    omega
  have same := Memory.readRun_write_same s.win.mem (journalBase (ringRow s.jrn.put).val) (entryBytes s.jrn.sequence e')
  rw [entryBytes_length] at same
  simpa using run.trans same

/-! ### The take of an order -/

@[simp] theorem takes_postSlot (p : Post) (o : Order) (s : State) (k : Fin 24) : (postSlot p o s).takes k = s.takes k := rfl

/-- An order that no scan may take stays POSTED (R8, R10, R16). -/
theorem orderCommand_posted (p : Post) (o : Order) (f : Perform) (s : State) (h : s.takes p.slot = false) :
    orderCommand p o f s = postSlot p o s := by
  simp [orderCommand, h]

theorem orderCommand_taken (p : Post) (o : Order) (f : Perform) (s : State) (h : s.takes p.slot = true) :
    orderCommand p o f s = carryOut p.slot (notifySet p.notify) p.tag o f (postSlot p o s) := by
  simp [orderCommand, h]

/-- The state in which the owner of a taken order begins: the take position is the slot. -/
def atTake (k : Fin 24) (s : State) : State := { s with ord := { s.ord with takePos := k } }

/-- The take of an order in a LOCKED unit, of one answered at once, and of a long order accepted (R9, R13). -/
theorem carryOut_locked (k : Fin 24) (n : Bool) (g : Half) (o : Order) (f : Perform) (s : State) (h : s.ord.locked = true)
    (ho : o.takenWhenLocked = false) :
    carryOut k n g o f s = answerSlot k n g (refuse resLocked s.ord.lock.reason) (atTake k s) := by
  simp [carryOut, atTake, h, ho]

theorem carryOut_answered (k : Fin 24) (n : Bool) (g : Half) (o : Order) (f : Perform) (s t : State) (x : Answer)
    (h : s.ord.locked = false) (hf : f (atTake k s) = (t, some x)) :
    carryOut k n g o f s = settle s (answerSlot k n g x t) := by
  show (if s.ord.locked && !o.takenWhenLocked then _ else settle s (match (f (atTake k s)).2 with
    | some a => answerSlot k n g a (f (atTake k s)).1
    | none => acceptSlot k n g (f (atTake k s)).1)) = _
  simp [h, hf]

theorem carryOut_accepted (k : Fin 24) (n : Bool) (g : Half) (o : Order) (f : Perform) (s t : State)
    (h : s.ord.locked = false) (hf : f (atTake k s) = (t, none)) :
    carryOut k n g o f s = settle s (acceptSlot k n g t) := by
  show (if s.ord.locked && !o.takenWhenLocked then _ else settle s (match (f (atTake k s)).2 with
    | some a => answerSlot k n g a (f (atTake k s)).1
    | none => acceptSlot k n g (f (atTake k s)).1)) = _
  simp [h, hf]

end Sys2Proof.Machine
end

