-- ==== Sys2Proof/Machine/PanelDevice.lean ====
section
/-! DEFINITION. The device at the other end of the call loop: what a call panel keeps and answers (R38). A panel is outside
the part, so it is no part of `State`; these functions say what the part may expect of it. -/

namespace Sys2Proof.Machine

/-- A call panel: its number, its held events, oldest first, its events-lost flag, the last number it gave, its lamps. -/
structure CallPanel where
  address    : Nat
  held       : List PanelEvent
  eventsLost : Bool
  lastGiven  : Byte
  lamps      : Vector Lamp 4
  deriving DecidableEq, Repr

/-- An input is operated: the event is numbered and held, or the flag is set when 7 are held already (R38). -/
def CallPanel.operate (p : CallPanel) (channel : Fin 4) (i : PressInput) : CallPanel :=
  if 7 ≤ p.held.length then { p with eventsLost := true }
  else { p with held := p.held ++ [⟨p.lastGiven + 1, channel.val, some i⟩], lastGiven := p.lastGiven + 1 }

/-- A panel restarts: it holds no events, and numbers its next event 1 (R38). -/
def CallPanel.restart (p : CallPanel) : CallPanel := { p with held := [], eventsLost := false, lastGiven := 0 }

/-- The events left after an acknowledgement of number `a`: those up to it go, if it is held (R38). -/
def dropThrough (a : Byte) : List PanelEvent → List PanelEvent
  | [] => []
  | e :: es => if e.number = a then es else dropThrough a es

def acknowledged (a : Byte) (l : List PanelEvent) : List PanelEvent :=
  if l.any fun e => e.number == a then dropThrough a l else l

/-- A poll frame that arrives intact: another panel's changes nothing and draws no answer; its own is handled and answered
(R38). -/
def CallPanel.poll (p : CallPanel) (f : PollFrame) : CallPanel × Option PanelFrame :=
  if f.address = p.address then
    let held := if f.valid then acknowledged f.ack p.held else p.held
    ({ p with held := held, eventsLost := false, lamps := f.lamps }, some (.answer p.address p.eventsLost held))
  else (p, none)

end Sys2Proof.Machine
end

