-- ==== Sys2Proof/Tests/Slice0.lean ====
section
/-! SUPPORT. Tests: ill-formed terms for each check of `Instr.wellFormed`; for each obligation with hypotheses a concrete
state and operands that meet them, clause by clause, at the ends of the ranges; and small tests of one command each, whose
expected values are the manual's (its layouts, its worked cases) or computed by hand from its rules. -/

namespace Sys2Proof.Tests

open Sys2Proof Sys2Proof.Machine

-- one theorem after another: the kernel evaluates each on a thread of its own otherwise, and memory is bounded
set_option Elab.async false

/-! ### A small line -/

/-- An order posted in slot 1 with the notify flag and a tag, the key at RUN; the same with the key at EDIT. -/
def post : Post := ⟨0, 1, 0x1234#16, .run⟩
def edit : Post := ⟨0, 1, 0x1234#16, .edit⟩

/-- What a command leaves, or the state before it where it stops. -/
def after (i : Instr) (s : State) : State :=
  match exec i s with
  | .next t => t
  | _ => s

def running : State := { State.reset with part := .running }

/-- Drive D3 of section 6.3's worked case. -/
def driveDef : DriveDef := ⟨4800, 600, 100, 10, 30⟩
def zoneDef (d : Fin 8) (first last : Nat) : ZoneDef := ⟨d, first, last, 5, #v[true, false, true, true], 2, false, true, 0⟩

def lineSetup : Setup :=
  { Setup.initial with
    drives := (Setup.initial.drives.set 0 (some driveDef)).set 1 (some driveDef),
    zones := (Setup.initial.zones.set 0 (some (zoneDef 0 1 8))).set 1 (some (zoneDef 1 9 12)),
    bindings := Setup.initial.bindings.set 0 ⟨1, 0⟩,
    ladders := Setup.initial.ladders.set 0 ⟨2, #v[⟨60, 1, true⟩, ⟨120, 2, false⟩, ⟨0, 0, false⟩]⟩,
    service := Setup.initial.service.set 0 .inService }

def panel (st : PanelState) : Panel := { Panel.initial with state := st, base := true, last := 5 }

/-- RUNNING, with D1, D2, Z1 (stations 1 to 8, IN SERVICE on D1), Z2 (stations 9 to 12 on D2), panels 1 to 3 ONLINE. -/
def line : State :=
  { running with
    setup := lineSetup,
    loop := { CallLoop.initial with panels :=
      ((CallLoop.initial.panels.set 0 (panel .online)).set 1 (panel .online)).set 2 (panel .online) } }

/-- The line with a change to D1, to its setup, to its order unit, to its shift. -/
def withDrive (f : Drive → Drive) (s : State) : State := { s with drv := { s.drv with drives := upd s.drv.drives 0 f } }
def withSetup (f : Setup → Setup) (s : State) : State := { s with setup := f s.setup }
def withOrders (f : OrderUnit → OrderUnit) (s : State) : State := { s with ord := f s.ord }
def withShift (f : Shift → Shift) (s : State) : State := { s with shift := f s.shift }
def withPanel (f : Panel → Panel) (s : State) : State := { s with loop := { s.loop with panels := upd s.loop.panels 0 f } }
def withBoard (f : Board → Board) (s : State) : State := { s with brd := { s.brd with boards := upd s.brd.boards 0 f } }

def assistRef : CallRef := ⟨0, .assist, 501⟩

/-- Call 501 of section 6.3: an ASSIST call at station 1, ARMED with the deadline 1209. -/
def assistCall : Call :=
  { answered := false, origin := .panel, serial := 501, raisedAt := 0, answeredAt := none, repeats := 0, group := 1,
    level := 0, nextEscalation := some 600, stop := .armed 1209 }

/-- The line with one open call at station 1. -/
def calling (c : Call) : State :=
  { line with calls :=
    { line.calls with
      stations := upd line.calls.stations 0 fun st => { st with calls := st.calls.set 0 (some c) },
      active := line.calls.active.set 0 [assistRef], nextSerial := 502 } }

/-- Call 501 is DUE and D1 stands for it. -/
def due : State :=
  withDrive (fun d => { d with demand := [.call assistRef], stopRequest := true })
    (calling { assistCall with stop := .due 0 })

/-- A plan of 8 hours with takt 552 and target 400 (section 8.5), a break of 10 minutes at 120, an overtime limit. -/
def plan : PlanBlock :=
  { name := 0, mode := 0, count := 1, behind := 3, start := 21600, length := 480, takt := 552, target := 400,
    overtime := 60, recovery := 2, breaks := (Vector.replicate 6 ⟨0, 0⟩).set 0 ⟨120, 10⟩ }

/-- The line with an open shift on the plan, the state and the counts of section 8.5 at W = 36000 tenths. -/
def shiftAt (st : ShiftState) : State :=
  { withShift (fun x => { x with
      state := st, current := some ⟨plan, 0⟩, shown := some ⟨plan, 0⟩, sinceReset := true, planCount := 64, actual := 61,
      zoneCount := x.zoneCount.set 1 61 }) line with ms := 3600000 }

/-- A long order in work in slot 5. -/
def workFive : Work := ⟨4, true, 7⟩
def slotFiveTaken (s : State) : State := writeBytes (slotBase 4) [2] (withOrders (fun o => { o with inWork := [workFive] }) s)

/-- Board 3 of section 9.7 as board 1: link 1, address 2, ANSWERING, fields LINE ACTUAL, LINE DIFF, LINE TARGET. -/
def boardDef : BoardDef := ⟨0, 2, false, 3⟩
def boardAt (st : LinkState) (s : State) : State :=
  withBoard (fun b => { b with
    definition := some boardDef, state := st,
    entries := ((b.entries.set 0 (some ⟨.lineActual, 4, 0, false, false⟩)).set 1 (some ⟨.lineDiff, 4, 0, true, false⟩)).set 2
      (some ⟨.lineTarget, 4, 0, false, false⟩) }) s

/-- A frame outstanding on link 1 to board 1. -/
def frameOut (k : FrameKind) (attempt : Nat) (s : State) : State :=
  { s with brd := { s.brd with links := s.brd.links.set 0 ⟨0, some ⟨0, k, attempt, 50⟩⟩ } }

/-! ### The WellFormed smoke test: one ill-formed term for each check, and its well-formed neighbour -/

def bit31 : RegWrite := ⟨0x80000000#32, 15⟩
def hold : RegWrite := ⟨1, 1⟩

theorem test_part_reset_needs_bit_31 : Instr.wellFormed (.partReset hold) = false ∧ Instr.wellFormed (.partReset bit31) = true := by
  decide
theorem test_order_hold_needs_bit_31_clear :
    Instr.wellFormed (.orderHold bit31) = false ∧ Instr.wellFormed (.orderHold ⟨0x80000000#32, 7⟩) = true := by decide
theorem test_attention_writes_stay_inside :
    Instr.wellFormed (.attention hold [(0x9000, 1)]) = false ∧ Instr.wellFormed (.attention hold [(0x8FFF, 1)]) = true := by decide
theorem test_scan_writes_stay_inside :
    Instr.wellFormed (.orderScan .run [(0x9000, 1)]) = false ∧ Instr.wellFormed (.orderScan .run [(0x8FFF, 1)]) = true := by decide
theorem test_take_writes_stay_inside :
    Instr.wellFormed (.takeCountRead [(0x9000, 1)]) = false ∧ Instr.wellFormed (.takeCountRead [(0x8FFF, 1)]) = true := by decide
theorem test_ignored_offsets :
    [0x03, 0x04, 0x13, 0x14, 0x1F, 0x20].map (fun o => Instr.wellFormed (.registerWriteIgnored o hold))
      = [true, false, false, true, true, false] := by decide
theorem test_advance_carries_counts :
    Instr.wellFormed (.advance 0 0 .forward) = false ∧ Instr.wellFormed (.advance 0 1 .forward) = true := by decide
theorem test_no_word_spells_a_command : (State.reset.withFetchWord 16 0x1234).pending = [] := by rfl

/-! ### Witnesses of the obligations' hypotheses -/

theorem witness_StepRunsTheFrontCommand : ({ State.reset with pending := [.startUp] } : State).pending = .startUp :: [] := rfl
theorem witness_EmptyQueueLetsTimePass : State.reset.pending = [] := rfl

/-- A byte stands at the last address of the window; the mask write completes. -/
def full : State := { line with win := { line.win with mem := [(0x0000, 2), (0x8FFF, 1)] }, pending := [.maskWrite hold] }

theorem witness_EveryStepKeepsTheMemoryCanonical : full.canonical ∧ ∃ t, step full = .next t :=
  ⟨by unfold State.canonical; decide +kernel, _, rfl⟩
theorem witness_EveryStepKeepsTheInterruptLineAndNotices :
    (∃ s, s.lineFollows ∧ s.irq.line = true ∧ ∃ t, step s = .next t)
      ∧ ∃ s, s.noticesOnce ∧ s.shift.behindList ≠ [] ∧ s.shift.recovered ≠ [] ∧ ∃ t, step s = .next t :=
  ⟨⟨{ full with irq := ⟨1, 1, true⟩ }, by unfold State.lineFollows; decide +kernel, rfl, _, rfl⟩,
    ⟨withShift (fun x => { x with behindList := [0], recovered := [(1, true)] }) full,
      by unfold State.noticesOnce; decide +kernel, by decide, by decide, _, rfl⟩⟩
theorem witness_EveryStepKeepsStopRequestsWithDemands :
    due.stopsFollow ∧ (due.drive 0).stopRequest = true ∧ ∃ t, step { due with pending := [.maskWrite hold] } = .next t :=
  ⟨by unfold State.stopsFollow; decide +kernel, by decide +kernel, _, rfl⟩
/-- A full journal: 512 entries unread. -/
def fullJournal : State := { full with jrn := { full.jrn with put := 512, sequence := 513 } }
theorem witness_EveryStepKeepsTheJournalCounts :
    fullJournal.journalCounts ∧ fullJournal.unread = 512 ∧ ∃ t, step fullJournal = .next t :=
  ⟨by unfold State.journalCounts; decide +kernel, by decide +kernel, _, rfl⟩

def lockedDown : State := withSetup (fun x => { x with lockdown := true }) line
theorem witness_LockdownHoldsUntilPowerOn :
    lockedDown.setup.lockdown = true ∧ (∃ t, exec (.maskWrite hold) lockedDown = .next t)
      ∧ ∃ t, exec (.partReset bit31) lockedDown = .next t :=
  ⟨rfl, ⟨_, rfl⟩, ⟨after (.partReset bit31) lockedDown, rfl⟩⟩

theorem witness_CommandsStopOnlyOutsideTheirRow :
    Instr.wellFormed .startUp = true ∧ hold.partResetBit = false ∧ bit31.partResetBit = true ∧ ignoredOffset 0x04 = false
      ∧ ignoredOffset 0x13 = false ∧ ignoredOffset 0x20 = false ∧ insideWindow [(0x9000, 0)] = false := by decide
theorem witness_IdentIsFixedAndNarrowWritesAreFull : 0 < 4 ∧ 3 < 4 ∧ (⟨0x12345678#32, 5⟩ : RegWrite).full = 0x00340078#32 := by
  decide
theorem witness_CauseAndMaskFollowTheirWrites : bit31.partResetBit = true := by decide

def scanning : State := withOrders (fun o => { o with scanning := true }) line
def held : State := withOrders (fun o => { o with hold := true }) line
theorem witness_AttentionRequestsAScan :
    insideWindow [(0x0000, 1), (0x8FFF, 1)] = true ∧ State.reset.part = .starting ∧ held.ord.hold = true
      ∧ (line.part = .running ∧ line.ord.hold = false ∧ line.ord.scanning = false)
      ∧ (scanning.part = .running ∧ scanning.ord.hold = false ∧ scanning.ord.scanning = true) := by decide +kernel
theorem witness_PartControlAndUnassignedOffsets :
    (withOrders (fun o => { o with inWork := List.replicate 24 workFive }) line).ord.inWork.length ≤ 24
      ∧ hold.partResetBit = false ∧ hold.full.getLsbD 0 = true ∧ line.ord.hold = false ∧ held.ord.hold = true
      ∧ (⟨0, 15⟩ : RegWrite).full.getLsbD 0 = false ∧ line.part = .running ∧ State.reset.part = .starting
      ∧ 0x14 ≤ 0x1F ∧ scanning.ord.scanning = true ∧ scanning.ord.hold = false := by decide +kernel
theorem witness_PartResetKeepsWhatTheManualKeeps :
    bit31.partResetBit = true ∧ line.openDrives = [] ∧ line.shiftOpen = false := by decide +kernel

/-- A stored image of the line with auto-service of Z1, board 1 enabled and the start-up place P16, which holds the plan. -/
def image : SetupImage :=
  { drives := lineSetup.drives, zones := upd lineSetup.zones 0 fun z => z.map fun f => { f with auto := true },
    bindings := lineSetup.bindings, ladders := lineSetup.ladders, texts := lineSetup.texts, keyed := true,
    boards := (Vector.replicate 16 ⟨none, Vector.replicate 32 none, false⟩).set 0 ⟨some boardDef, Vector.replicate 32 none, true⟩,
    startPlace := 16 }
def stored : State :=
  { State.reset with store :=
    { Store.initial with setup := ⟨.empty, .good image, false⟩, plans := Store.initial.plans.set 15 ⟨.empty, .good plan, false⟩ } }
theorem witness_StartUpLoadsAndRuns :
    line.part = .running ∧ stored.part = .starting ∧ stored.store.setup.marked = false
      ∧ stored.store.setup.stored = .good image ∧ (image.zones[0].map ZoneDef.auto) = some true
      ∧ (image.drives[0]).isSome ∧ (image.boards[0]).definition.isSome ∧ (image.boards[0]).enabled = true
      ∧ stored.shift.state = .idle ∧ image.startPlace = num (15 : Fin 16) ∧ (stored.store.plans[15]).marked = false
      ∧ (stored.store.plans[15]).stored = .good plan := by decide +kernel

theorem witness_OrderCommandsAreTakesOfPostedSlots :
    postedOrder (.lockSetup post) = some (post, .lockSetup) ∧ line.takes post.slot = true := by decide +kernel
theorem witness_UntakenOrdersStayPosted :
    postedOrder (.lockSetup post) = some (post, .lockSetup) ∧ State.reset.part = .starting ∧ held.ord.hold = true := by
  decide +kernel

/-- The unit LOCKED by an unknown order in slot 2, with and without a long order in work. -/
def locked : State := withOrders (fun o => { o with locked := true, lock := ⟨1, 2, 0x7F, 1, 3⟩ }) line
def posted (s : State) : State := postSlot post .lockSetup s
theorem witness_LockedUnitAnswersLocked :
    (posted locked).slotInWork 0 = false ∧ (posted locked).slotState 0 = 1
      ∧ parseOrder ((posted locked).slotKind 0) ((posted locked).slotParams 0) = some .lockSetup
      ∧ (posted locked).ord.locked = true ∧ Order.lockSetup ≠ .unlockOrders ∧ Order.lockSetup ≠ .stopAllWork := by
  decide +kernel
/-- Slot 1 reads POSTED with the unknown kind 0x7F; slot 1 reads the bad states 4 and 255. -/
def unknown (s : State) : State := writeBytes (slotBase 0) [1, 0x7F] s
def badState (v : Byte) (s : State) : State := writeBytes (slotBase 0) [v] s
theorem witness_ViolationsLockTheUnit :
    ((unknown line).slotInWork 0 = false ∧ (unknown line).slotState 0 = 1
        ∧ parseOrder ((unknown line).slotKind 0) ((unknown line).slotParams 0) = none ∧ (unknown line).ord.locked = false)
      ∧ (3 < ((badState 4 line).slotState 0).toNat ∧ (badState 4 line).slotInWork 0 = false)
      ∧ (3 < ((badState 255 locked).slotState 0).toNat ∧ (badState 255 locked).ord.locked = true) := by decide +kernel

def keyed : State := withSetup (fun x => { x with keyed := true }) line
theorem witness_ProtectionRefusesSetupChanges :
    Order.lockSetup.setupChanging = true ∧ keyed.ready post ∧ ¬ keyed.unguarded post ∧ keyed.unguarded edit
      ∧ lockedDown.ready edit ∧ ¬ lockedDown.unguarded edit := by
  unfold State.ready State.unguarded; decide +kernel

theorem witness_ScansBeginVisitAndEnd :
    line.ord.scanDue = none ∧ (withOrders (fun o => { o with scanDue := some 50 }) line).ord.scanDue = some 50
      ∧ insideWindow [] = true ∧ scanning.part = .running ∧ scanning.ord.hold = false ∧ scanning.ord.scanning = true
      ∧ (∀ k : Fin 24, scanning.slotState k = 0)
      ∧ (∀ k : Fin 24, k ≠ scanning.ord.takePos →
          (writeBytes (slotBase 23) [1, 0x17] scanning).slotState k = 0)
      ∧ (writeBytes (slotBase 23) [1, 0x17] scanning).slotState scanning.ord.takePos = 1
      ∧ (let s := writeBytes (slotBase 5) [1, 0x17] scanning;
        s.slotState 5 = 1 ∧ ∀ m : Fin 24, m ≠ 5 → s.slotState m = 0)
      ∧ (let s := writeBytes (slotBase 0) [1, 0x17] (writeBytes (slotBase 23) [1, 0x17] scanning);
        s.ord.takePos + 1 + (0 : Fin 24) = 0 ∧ s.ord.takePos + 1 + (23 : Fin 24) = 23
          ∧ ∀ m : Fin 24, m ≠ 0 → m ≠ 23 → s.slotState m = 0)
      ∧ (withOrders (fun o => { o with inWork := [workFive] }) line).slotInWork 4 = true := by decide +kernel

def lockedWork : State := slotFiveTaken locked
/-- `hasRoom` at its boundary: 511 entries unread. -/
def almostFull (s : State) : State := { s with jrn := { s.jrn with put := 511, sequence := 512 } }
theorem witness_UnlockOrdersReleasesTheUnit :
    line.takes post.slot = true ∧ line.ord.locked = false
      ∧ (locked.takes post.slot = true ∧ locked.ord.locked = true ∧ locked.ord.inWork = [] ∧ (almostFull locked).hasRoom 1)
      ∧ ((withOrders (fun o => { o with inWork := [workFive] }) locked).takes post.slot = true
          ∧ (withOrders (fun o => { o with inWork := [workFive] }) locked).ord.inWork ≠ []) := by
  unfold State.hasRoom; decide +kernel

def draining : State :=
  withSetup (fun x => { x with
    service := x.service.set 0 .draining, drainSlot := x.drainSlot.set 0 (some 4), drainCalls := x.drainCalls.set 0 1 })
    (slotFiveTaken (calling assistCall))
def resetting : State :=
  slotFiveTaken (withBoard (fun b => { b with resetSlot := some 4, resetUnsent := true }) (boardAt .resetting line))
def saving : State :=
  slotFiveTaken { line with store :=
    { line.store with plans := upd line.store.plans 15 (fun x => { x with marked := true }), op := some ⟨4, .savePlan 15 plan, 120⟩ } }
theorem witness_StopAllWorkAbortsEveryLongOrder :
    (draining.takes post.slot = true ∧ (draining.ord.inWork.map Work.slot).Nodup ∧ draining.slotState 4 = 2
        ∧ draining.drainOf 4 = some 0)
      ∧ (resetting.takes post.slot = true ∧ resetting.slotState 4 = 2 ∧ resetting.drainOf 4 = none ∧ resetting.resetOf 4 = some 0)
      ∧ (saving.takes post.slot = true ∧ saving.drainOf 4 = none ∧ saving.resetOf 4 = none
        ∧ (saving.store.op.map StoreOp.slot) = some 4) := by decide +kernel

/-- The parameters of the definitions, at the ends of their ranges. -/
def drive64 : DriveParams := ⟨3, 64, 63, 16, 1, 300⟩
def drive60000 : DriveParams := ⟨8, 60000, 59999, 15000, 60, 0⟩
def bind16 : BindParams := ⟨145, 16, 24, 49⟩
def bind1 : BindParams := ⟨160, 1, 0, 0⟩
def group3 : GroupParams := ⟨24, 3, ⟨5, 8, 1⟩, ⟨3600, 0, 0⟩, ⟨60, 1, 1⟩⟩
def text64 : TextParams := ⟨64, (Vector.replicate 16 0x20).set 0 0x7E⟩

theorem witness_DrivesAreDefined :
    line.ready post ∧ line.unguarded post
      ∧ (drive64.drive.toNat = num (2 : Fin 8) ∧ 64 ≤ drive64.pitch.toNat ∧ drive64.notice.toNat < drive64.pitch.toNat
        ∧ drive64.tolerance.toNat ≤ drive64.pitch.toNat / 4 ∧ 1 ≤ drive64.response.toNat ∧ drive64.short.toNat ≤ 300)
      ∧ (drive60000.drive.toNat = num (7 : Fin 8) ∧ drive60000.pitch.toNat ≤ 60000
        ∧ drive60000.notice.toNat < drive60000.pitch.toNat ∧ drive60000.tolerance.toNat ≤ drive60000.pitch.toNat / 4
        ∧ drive60000.response.toNat ≤ 60)
      ∧ ∀ z : Fin 8, line.zoneDrive z = some 1 → line.setup.service[z] = .outOfService := by
  unfold State.ready State.unguarded; decide +kernel
theorem witness_StationsGroupsAndTextsAreDefined :
    (1 ≤ bind16.first.toNat ∧ bind16.count.toNat ≤ 16 ∧ bind16.first.toNat + bind16.count.toNat ≤ 161
        ∧ bind16.group.toNat ≤ 24 ∧ bind16.base.toNat + bind16.count.toNat ≤ 65
        ∧ ∀ n : Fin 160, bind16.first.toNat ≤ num n → num n < bind16.first.toNat + bind16.count.toNat →
            line.stationZone n = none)
      ∧ (1 ≤ bind1.count.toNat ∧ bind1.first.toNat + bind1.count.toNat ≤ 161 ∧ bind1.base = 0)
      ∧ (group3.group.toNat = num (23 : Fin 24) ∧ group3.count.toNat ≤ 3
        ∧ (∀ i : Fin 3, 5 ≤ (groupLevels group3)[i].delay.toNat ∧ (groupLevels group3)[i].delay.toNat ≤ 3600
            ∧ (groupLevels group3)[i].output.toNat ≤ 8 ∧ (groupLevels group3)[i].flash.toNat ≤ 1)
        ∧ ∀ c ∈ line.openCalls, c.group ≠ num (23 : Fin 24))
      ∧ (text64.entry.toNat = num (63 : Fin 64)
        ∧ ∀ i : Fin 16, 0x20 ≤ text64.chars[i].toNat ∧ text64.chars[i].toNat ≤ 0x7E) := by decide +kernel

/-- Z2 with other stations and a smaller capacity; its removal. -/
def zone2 : ZoneParams := ⟨2, 2, 121, 160, 30, 1, 2, 0, 0, 3, 1, 1, 64⟩
def noZone2 : ZoneParams := { zone2 with drive := 0 }
/-- Z1 as it stands, IN SERVICE. -/
def zone1 : ZoneParams := ⟨1, 1, 1, 8, 5, 0, 0, 0, 0, 2, 0, 0, 0⟩
theorem witness_ZonesAreDefinedAndRemoved :
    line.ready post ∧ line.unguarded post
      ∧ (zone2.zone.toNat = num (1 : Fin 8) ∧ zone2.drive.toNat = num (1 : Fin 8)
        ∧ firstFailure (line.zoneChecks 1 zone2) = none ∧ line.setup.service[1] = .outOfService)
      ∧ (noZone2.zone.toNat = num (1 : Fin 8) ∧ noZone2.drive = 0 ∧ (zoneNext 1).bind line.zone = none
        ∧ (line.zone 1).isSome)
      ∧ ((0#8).toNat < 1 ∧ 8 < (9#8).toNat)
      ∧ (let q : ZoneParams := { zone2 with drive := 9 };
        q.zone.toNat = num (1 : Fin 8) ∧ q.drive ≠ 0 ∧ ¬ q.drive.toNat ≤ 8)
      ∧ (let q : ZoneParams := { zone2 with first := 8, last := 12 };
        firstFailure (line.zoneChecks 1 q) = some 4 ∧ line.overlapped 1 8 12 = some 0)
      ∧ (zone1.zone.toNat = num (0 : Fin 8) ∧ zone1.drive ≠ 0 ∧ firstFailure (line.zoneChecks 0 zone1) = none
        ∧ line.setup.service[0] ≠ .outOfService) := by
  unfold State.ready State.unguarded; decide +kernel
theorem witness_TimingAndProtectionOrdersTakeEffect :
    line.ready post ∧ line.unguarded post ∧ keyed.unguarded edit
      ∧ (1 ≤ (1#8).toNat ∧ (1#8).toNat ≤ 32 ∧ (32#8).toNat ≤ 32 ∧ (60#8).toNat ≤ 60 ∧ (0#8).toNat ≤ 1)
      ∧ (almostFull line).hasRoom 1 := by
  unfold State.ready State.unguarded State.hasRoom; decide +kernel

/-- Z2 IN SERVICE too, with its panel LOST. -/
def lostLine : State :=
  { line with loop := { line.loop with panels := line.loop.panels.set 2 (panel .lost) } }
theorem witness_ZoneServiceOrdersTakeEffect :
    (lostLine.ready post ∧ (2#8).toNat = num (1 : Fin 8) ∧ lostLine.zone 1 = some (zoneDef 1 9 12)
        ∧ (lostLine.setup.drives[1]).isSome ∧ lostLine.setup.service[1] = .outOfService
        ∧ (zoneDef 1 9 12).ignoreLoss = false ∧ (lostLine.loop.panels[2]).state = .lost ∧ lostLine.serves 2 1 = true)
      ∧ (line.zone 0 = some (zoneDef 0 1 8) ∧ line.setup.service[0] = .inService ∧ line.calls.active[0] = [])
      ∧ ((calling assistCall).ready post ∧ (calling assistCall).setup.service[0] = .inService
        ∧ (calling assistCall).calls.active[0] ≠ [])
      ∧ (draining.ready post ∧ draining.setup.service[0] = .draining ∧ draining.calls.active[0] ≠ []
        ∧ (∀ r ∈ draining.calls.active[0], (draining.callAt r).map Call.serial = some r.serial)
        ∧ draining.setup.drainSlot[0] = some 4 ∧ draining.ord.inWork.find? (fun w => w.slot == 4) = some workFive
        ∧ draining.slotState 4 = 2) := by
  unfold State.ready; decide +kernel

def holding : State := withDrive (fun d => { d with demand := [.call assistRef, .hold], stopRequest := true }) due
theorem witness_DrivesAreHeldAndReleased :
    (line.ready post ∧ (1#8).toNat = num (0 : Fin 8) ∧ (line.setup.drives[0]).isSome
        ∧ (line.drive 0).demand.contains .hold = false ∧ (almostFull line).hasRoom 1 ∧ line.openRecord 0 = none
        ∧ (line.drive 0).demand = [])
      ∧ (due.ready post ∧ (due.drive 0).demand.contains .hold = false ∧ (due.drive 0).demand ≠ [])
      ∧ (holding.ready post ∧ (holding.setup.drives[0]).isSome ∧ (holding.drive 0).demand.contains .hold = true) := by
  unfold State.ready State.hasRoom; decide +kernel

def buffered (n : Nat) : State := { line with drv := { line.drv with buffers := upd line.drv.buffers 0 fun b => { b with count := n } } }
theorem witness_BufferCountsAreSetAndReleased :
    (line.ready post ∧ (7#8).toNat = num (6 : Fin 7) ∧ line.bufferExists 6 = false)
      ∧ ((1#8).toNat = num (0 : Fin 7) ∧ line.bufferExists 0 = true ∧ line.bufferCapacity 0 < (6#8).toNat
        ∧ (5#8).toNat ≤ line.bufferCapacity 0)
      ∧ State.reset.part = .starting ∧ line.part = .running
      ∧ ((buffered 0).drv.buffers[0].count = 0 ∧ (almostFull (buffered 0)).hasRoom 1 ∧ 0 < (buffered 1).drv.buffers[0].count) := by
  unfold State.ready State.hasRoom; decide +kernel
theorem witness_ResetPanelCountersClearsFourCounters :
    line.ready post ∧ 40 < (41#8).toNat ∧ (40#8).toNat ≤ 40 ∧ (0#8).toNat ≤ 40 := by
  unfold State.ready; decide +kernel

theorem witness_RaiseCallOpensOrRepeats :
    (line.ready post ∧ (1#8).toNat = num (0 : Fin 160) ∧ (0#8).toNat = Kind.code .assist ∧ line.stationZone 0 = some 0
        ∧ line.setup.service[0] = .inService ∧ line.call 0 .assist = none)
      ∧ ((8#8).toNat = num (7 : Fin 160) ∧ (3#8).toNat = Kind.code .maint ∧ line.stationZone 7 = some 0
        ∧ line.call 7 .maint = none)
      ∧ ((calling assistCall).ready post ∧ (calling assistCall).stationZone 0 = some 0
        ∧ (calling assistCall).setup.service[0] = .inService ∧ (calling assistCall).call 0 .assist = some assistCall
        ∧ assistCall.answered = false ∧ assistCall.level < ((calling assistCall).ladder assistCall.group).count)
      ∧ (let top : Call := { assistCall with level := 2, repeats := 255 };
        (calling top).call 0 .assist = some top ∧ ((calling top).ladder top.group).count ≤ top.level) := by
  unfold State.ready; decide +kernel
theorem witness_CallsAreAnsweredAndCleared :
    (line.ready post ∧ line.call 0 .assist = none)
      ∧ ((calling assistCall).ready post ∧ (calling assistCall).call 0 .assist = some assistCall
        ∧ (calling assistCall).stationZone 0 = some 0 ∧ (calling assistCall).zone 0 = some (zoneDef 0 1 8)
        ∧ assistCall.answered = false)
      ∧ (due.call 0 .assist = some { assistCall with stop := .due 0 } ∧ (zoneDef 0 1 8).extension ≠ 0
        ∧ due.zoneDrive 0 = some 0)
      ∧ (let c : Call := { assistCall with answered := true, answeredAt := some 3 };
        (calling c).call 0 .assist = some c ∧ c.answered = true) := by
  unfold State.ready; decide +kernel

def pendingPlan : State := withShift (fun x => { x with state := .pending, pending := some ⟨plan, 0⟩ }) line
def clockAt (second : Nat) (s : State) : State :=
  withShift (fun x => { x with clock := ⟨true, second, 65535, 1000⟩ }) s
theorem witness_ClockIsSetAndAdvances :
    (line.ready post ∧ (86399#32).toNat ≤ 86399 ∧ line.shift.state ≠ .pending)
      ∧ (pendingPlan.ready post ∧ pendingPlan.shift.state = .pending ∧ pendingPlan.shift.pending = some ⟨plan, 0⟩
        ∧ ((21600#32).toNat + 86400 - plan.start.toNat) % 86400 < 60 * plan.length.toNat
        ∧ ((50399#32).toNat + 86400 - plan.start.toNat) % 86400 < 60 * plan.length.toNat
        ∧ 60 * plan.length.toNat ≤ ((50400#32).toNat + 86400 - plan.start.toNat) % 86400
        ∧ 60 * plan.length.toNat ≤ ((21599#32).toNat + 86400 - plan.start.toNat) % 86400)
      ∧ line.shift.clock.isSet = false ∧ (clockAt 86399 line).shift.clock.isSet = true
      ∧ ((clockAt 21599 pendingPlan).shift.clock.isSet = true ∧ (clockAt 21599 pendingPlan).shift.state = .pending
        ∧ plan.start.toNat = 21599 + 1) := by
  unfold State.ready; decide +kernel

/-- Place P16 holds the plan. -/
def planStored (s : State) : State := { s with store := { s.store with plans := s.store.plans.set 15 ⟨.valid, .good plan, false⟩ } }
theorem witness_PlansArePlacedByTheShiftState :
    (line.ready post ∧ planError plan = none ∧ ¬ ({ plan with name := 65 } : PlanBlock).name.toNat ≤ 64
        ∧ planError { plan with breaks := Vector.replicate 6 ⟨470, 10⟩ } = some 11 ∧ line.shiftOpen = false ∧ (shiftAt .running).ready post
        ∧ (shiftAt .running).shiftOpen = true)
      ∧ ((planStored line).ready post ∧ (16#8).toNat = num (15 : Fin 16) ∧ ((planStored line).store.plans[15]).state = .valid
        ∧ ((planStored line).store.plans[15]).stored = .good plan ∧ (planStored line).shiftOpen = false
        ∧ (planStored (shiftAt .onBreak)).shiftOpen = true) := by
  unfold State.ready; decide +kernel
theorem witness_ShiftsStartAndEndByOrder :
    (pendingPlan.ready post ∧ pendingPlan.shift.state = .pending ∧ pendingPlan.shift.pending = some ⟨plan, 0⟩)
      ∧ line.shift.state ≠ .pending ∧ line.shift.state = .idle
      ∧ ((shiftAt .overtime).ready post ∧ (shiftAt .overtime).shiftOpen = true) := by
  unfold State.ready; decide +kernel
theorem witness_CollectPaceNoticesEmptiesTheLists : line.ready post := by
  unfold State.ready; decide +kernel
theorem witness_BreaksEndsAndLimitsMoveTheShift :
    ((shiftAt .running).shift.state = .running ∧ (shiftAt .running).breakSpan (shiftAt .running).shift.breaksBegun = some ⟨120, 10⟩
        ∧ (shiftAt .running).breakFirst = true)
      ∧ (let s := withShift (fun x => { x with breaksBegun := 1, breakFrom := 36000 }) (shiftAt .onBreak);
        s.shift.state = .onBreak ∧ s.breakSpan (s.shift.breaksBegun - 1) = some ⟨120, 10⟩ ∧ s.shift.breakFrom ≤ s.shiftE)
      ∧ ((shiftAt .running).shift.current = some ⟨plan, 0⟩ ∧ (shiftAt .running).shift.actual < plan.target.toNat
        ∧ plan.overtime ≠ 0)
      ∧ (let s := withShift (fun x => { x with actual := 400 }) (shiftAt .running);
        s.shift.state = .running ∧ plan.target.toNat ≤ s.shift.actual)
      ∧ ((shiftAt .overtime).shift.state = .overtime ∧ (shiftAt .overtime).shift.current = some ⟨plan, 0⟩) := by
  decide +kernel

/-- D1 stands stopped with an open record in shift, charged to HOLD. -/
def record : StopRecord :=
  { number := 1, drive := 0, isShort := false, isCut := false, continued := false, continues := false, outside := false,
    folded := false, folds := 0, start := 35900, startE := some 35900, endAt := none, duration := none, overrun := 0,
    segments := [⟨.cause .hold, 0, 0⟩], evaluated := .hold, charge := .cause .hold, holders := [], zones := [0], shortLimit := 30 }
def stopped (s : State) : State :=
  { withDrive (fun d => { d with feedback := .stopped, demand := [.hold], stopRequest := true }) s with
    attr := { s.attr with slots := s.attr.slots.set 0 (.opened record), lastNumber := 1 } }
theorem witness_PlanRisesAndSecondsBringUpToDate :
    ((shiftAt .running).shift.current = some ⟨plan, 0⟩ ∧ (shiftAt .running).shift.planCount < plan.target.toNat
        ∧ (withShift (fun x => { x with planCount := 399 }) (shiftAt .overtime)).shift.planCount < plan.target.toNat
        ∧ (shiftAt .running).shift.zoneBehind[1] = false
        ∧ (withShift (fun x => { x with zoneBehind := x.zoneBehind.set 1 true }) (shiftAt .running)).shift.zoneBehind[1] = true)
      ∧ line.shiftOpen = false ∧ (shiftAt .running).shiftOpen = true
      ∧ ((stopped (shiftAt .running)).zoneDrive 0 = some 0 ∧ (stopped (shiftAt .running)).openRecord 0 = some record
        ∧ record.outside = false) := by decide +kernel
theorem witness_ExitTransfersAreCounted :
    State.reset.part = .starting ∧ line.zone 2 = none ∧ (line.part = .running ∧ (line.zone 1).isSome ∧ line.shiftOpen = false)
      ∧ (let s := withShift (fun x => { x with actual := 399 }) (shiftAt .overtime);
        s.part = .running ∧ (s.zone 1).isSome ∧ s.shiftOpen = true ∧ s.lastZone = some 1 ∧ s.shift.state = .overtime
        ∧ s.target ≤ min (s.shift.actual + 1) 65535)
      ∧ ((shiftAt .running).shift.state ≠ .overtime ∧ (shiftAt .overtime).shift.actual < (shiftAt .overtime).target) := by
  decide +kernel

def board16 : BoardParams := ⟨16, 2, 8, 1, 32⟩
def fieldLineActual : FieldBytes := ⟨3, 7, 0, 0, 4, 0, 0, 0⟩
def fields1 : FieldsParams := ⟨1, 3, 1, (Vector.replicate 5 ⟨0, 0, 0, 0, 0, 0, 0, 0⟩).set 0 fieldLineActual⟩
def boardLine : State := boardAt .online line
theorem witness_BoardsAndFieldsAreDefined :
    (boardLine.ready post ∧ boardLine.unguarded post ∧ board16.board.toNat = num (15 : Fin 16)
        ∧ board16.link.toNat = num (1 : Fin 2) ∧ board16.address.toNat ≤ 8 ∧ board16.mode.toNat ≤ 1
        ∧ 1 ≤ board16.fields.toNat ∧ board16.fields.toNat ≤ 32 ∧ (boardLine.brd.boards[15]).state = .disabled
        ∧ ∀ c : Fin 16, c ≠ 15 → ((boardLine.brd.boards[c]).definition.map fun d => (d.link, d.address)) ≠ some (1, 8))
      ∧ (fields1.board.toNat = num (0 : Fin 16) ∧ (boardLine.brd.boards[0]).definition = some boardDef
        ∧ firstFailure (fieldsChecks boardDef.fields fields1) = none) := by
  unfold State.ready State.unguarded; decide +kernel
theorem witness_BoardOrdersTakeEffect :
    (boardLine.ready post ∧ (1#8).toNat = num (0 : Fin 16) ∧ (boardLine.brd.boards[0]).definition.isSome
        ∧ (boardLine.brd.boards[0]).state ≠ .disabled ∧ (boardLine.brd.boards[0]).state ≠ .resetting
        ∧ (boardLine.brd.boards[0]).inUse 2 = true)
      ∧ ((boardAt .disabled line).ready post ∧ ((boardAt .disabled line).brd.boards[0]).state = .disabled)
      ∧ (resetting.ready post ∧ (resetting.brd.boards[0]).state = .resetting ∧ (resetting.brd.boards[0]).resetSlot = some 4
        ∧ resetting.ord.inWork.find? (fun w => w.slot == 4) = some workFive ∧ resetting.slotState 4 = 2) := by
  unfold State.ready; decide +kernel

def stale (s : State) : State := withBoard (fun b => { b with stale := (Vector.replicate 32 false).set 2 true }) s
theorem witness_LinksChooseAndSend :
    State.reset.part = .starting ∧ ((frameOut .probe 1 boardLine).brd.links[0]).frame.isSome
      ∧ (resetting.part = .running ∧ (resetting.brd.links[0]).frame = none ∧ resetting.unsentReset 0 = some 0)
      ∧ ((stale boardLine).unsentReset 0 = none ∧ (stale boardLine).nextOnLink 0 = some 0
        ∧ ((stale boardLine).brd.boards[0]).definition = some boardDef ∧ boardDef.silent = false)
      ∧ (boardLine.unsentReset 0 = none ∧ boardLine.nextOnLink 0 = none) := by decide +kernel

def carried : List (Fin 32 × Content) := [(0, ⟨0, [32, 32, 54, 49]⟩)]
theorem witness_RepliesAndWaitsEndFrames :
    (let s := frameOut (.fields carried) 2 boardLine;
      (s.brd.links[0]).frame = some ⟨0, .fields carried, 2, 50⟩ ∧ (s.brd.boards[0]).definition = some boardDef
        ∧ (FrameKind.fields carried) ≠ .reset ∧ (0 : Half) ≠ (FrameKind.fields carried).expected ∧ 1 ≠ boardDef.address)
      ∧ (let s := frameOut .probe 3 (boardAt .searching line);
        (s.brd.links[0]).frame = some ⟨0, .probe, 3, 50⟩ ∧ (s.brd.boards[0]).definition = some boardDef)
      ∧ (let s := frameOut .reset 1 resetting;
        (s.brd.links[0]).frame = some ⟨0, .reset, 1, 50⟩ ∧ (s.brd.boards[0]).definition = some boardDef
          ∧ (s.brd.boards[0]).resetSlot = some 4 ∧ s.ord.inWork.find? (fun w => w.slot == 4) = some workFive
          ∧ s.slotState 4 = 2) := by decide +kernel
theorem witness_BoardTimersAndRendering :
    (withBoard (fun b => { b with probeAt := some 5000 }) boardLine).brd.boards[0].probeAt = some 5000
      ∧ (withBoard (fun b => { b with refreshAt := some 10000 }) boardLine).brd.boards[0].refreshAt = some 10000
      ∧ ((boardLine.brd.boards[0]).definition = some boardDef ∧ num (2 : Fin 32) ≤ boardDef.fields) := by decide +kernel

def jobAt (j : StoreJob) : State := slotFiveTaken { line with store := { line.store with op := some ⟨4, j, 120⟩ } }
theorem witness_StoreOperationsAreAcceptedAndEnd :
    (line.ready post ∧ line.unguarded post ∧ line.store.op = none ∧ (16#8).toNat = num (15 : Fin 16) ∧ planError plan = none
        ∧ line.inUse (num (15 : Fin 16)) = false ∧ (16#8).toNat ≤ 16)
      ∧ ([StoreJob.savePlan 15 plan, .erasePlan 0, .saveSetup image].all fun j =>
        (jobAt j).store.op == some ⟨4, j, 120⟩ && (jobAt j).ord.inWork.find? (fun w => w.slot == 4) == some workFive
          && (jobAt j).slotState 4 == 2) = true
      ∧ (almostFull (jobAt (.erasePlan 0))).hasRoom 1 := by
  unfold State.ready State.unguarded State.hasRoom; decide +kernel

/-- The journal with a gap and a full ring; a bad take value 513 ahead, reported before or not. -/
def gapped (taken : Word) : State := { line with jrn := { line.jrn with put := 512, sequence := 513, accepted := taken, gap := 70000 } }
def bogus (last : Option Word) : State := { line with jrn := { line.jrn with put := 100, sequence := 101, lastBad := last } }
def oneUnread (ms : Nat) : State :=
  { line with ms := ms, jrn := { line.jrn with put := 1, sequence := 2, ageTimer := some 500 } }
theorem witness_JournalNoticesAndTakeCounts :
    (line.ready post ∧ 1 ≤ (512#16).toNat ∧ (512#16).toNat ≤ 512 ∧ 10 ≤ (10#16).toNat ∧ (10000#16).toNat ≤ 10000
        ∧ line.unread = 0 ∧ (oneUnread 0).ready post ∧ 0 < (oneUnread 0).unread ∧ (1#16).toNat ≤ (oneUnread 0).unread
        ∧ (oneUnread 10).jrn.writtenAt[ringRow (oneUnread 10).jrn.accepted] + (10#16).toNat ≤ (oneUnread 10).ms)
      ∧ line.jrn.ageTimer = none
      ∧ ((oneUnread 499).jrn.ageTimer = some 500 ∧ (oneUnread 499).ms < 500)
      ∧ ((oneUnread 500).jrn.ageTimer = some 500 ∧ 500 ≤ (oneUnread 500).ms)
      ∧ (insideWindow [(0x0010, 1)] = true ∧ ((gapped 0).jrn.put - (hostWrites [(0x0010, 1)] (gapped 0)).takeField).toNat = 511
        ∧ 0 < (gapped 0).jrn.gap)
      ∧ (line.jrn.gap = 0 ∧ (line.jrn.put - line.takeField).toNat ≤ 512)
      ∧ (let v := (hostWrites [(0x0010, 101)] (bogus none)).takeField;
        512 < ((bogus none).jrn.put - v).toNat ∧ (bogus none).jrn.gap = 0 ∧ (bogus none).jrn.lastBad ≠ some v
          ∧ (bogus (some 101)).jrn.lastBad = some v) := by
  unfold State.ready; decide +kernel

def lostPanel (due : Bool) : State := withPanel (fun x => { x with state := .lost, due := due, dueAt := some 1000 }) line
def polling (attempt : Nat) (void : Bool) (s : State) : State :=
  { s with loop := { s.loop with poll := some ⟨0, attempt, #v[.off, .off, .off, .off], 8, void⟩ } }
theorem witness_PollsAreChosenAndSent :
    State.reset.part = .starting ∧ (polling 1 false line).loop.poll.isSome
      ∧ ((lostPanel true).part = .running ∧ (lostPanel true).loop.poll = none ∧ (lostPanel true).lostDue = some 0)
      ∧ (line.lostDue = none ∧ line.nextInRotation = some 0) ∧ (running.lostDue = none ∧ running.nextInRotation = none)
      ∧ (((lostPanel false).loop.panels[0]).state = .lost ∧ ((lostPanel false).loop.panels[0]).dueAt = some 1000) := by
  decide +kernel

def cord (n : Byte) : PanelEvent := ⟨n, 0, some .cord⟩
theorem witness_PanelAnswersEndPolls :
    (let s := polling 2 false (lostPanel false);
      s.loop.poll = some ⟨0, 2, #v[.off, .off, .off, .off], 8, false⟩ ∧ (s.loop.panels[0]).state = .lost
        ∧ (s.loop.panels[0]).base = true ∧ 2 ≠ num (0 : Fin 40))
      ∧ wellFormedAnswer [] = true
      ∧ (∀ n ∈ [254#8, 5], wellFormedAnswer [cord n] = true ∧ (5#8 - n).toNat < 8)
      ∧ (∀ n ∈ [6#8, 7, 253], wellFormedAnswer [cord n] = true ∧ 8 ≤ (5#8 - n).toNat) := by decide +kernel
theorem witness_PressesReachTheCallTable :
    (let s := polling 1 false line;
      s.loop.poll = some ⟨0, 1, #v[.off, .off, .off, .off], 8, false⟩ ∧ (s.loop.panels[0]).base = true
        ∧ (cord 6).number = (s.loop.panels[0]).last + 1 ∧ (cord 6).channel = (0 : Fin 4).val
        ∧ s.stationZone (stationAt 0 0) = some 0 ∧ s.setup.service[0] = .inService
        ∧ PressInput.cord.kind? = some .assist ∧ s.call (stationAt 0 0) .assist = none ∧ s.stationCalls (stationAt 0 0) = [])
      ∧ (let s := polling 1 false (calling assistCall);
        s.works 0 = true ∧ s.call (stationAt 0 0) .assist = some assistCall ∧ assistCall.answered = false)
      ∧ (let s := polling 1 false draining;
        s.setup.service[0] = .draining ∧ s.works 0 = true)
      ∧ (let c : Call := { assistCall with answered := true, answeredAt := some 3 };
        Kind.all.all fun j => ((calling c).call 0 j).all Call.answered) = true := by decide +kernel
theorem witness_TimeoutsFailAttemptsAndPolls :
    (polling 2 false line).loop.poll.isSome ∧ (polling 3 true line).loop.poll.isSome
      ∧ (let s := polling 3 false (withPanel (fun x => { x with failures := 2 }) line);
        s.loop.poll.isSome ∧ 2 ≤ (s.loop.panels[0]).failures ∧ (s.loop.panels[0]).state ≠ .lost
          ∧ s.zone 0 = some (zoneDef 0 1 8) ∧ s.setup.service[0] = .inService ∧ (zoneDef 0 1 8).ignoreLoss = false
          ∧ s.serves 0 0 = true) := by decide +kernel
theorem witness_CallsClimbWhenTheirTimersExpire :
    (let s := almostFull (calling assistCall);
      s.call 0 .assist = some assistCall ∧ assistCall.answered = false ∧ assistCall.level < (s.ladder assistCall.group).count
        ∧ assistCall.nextEscalation = some 600 ∧ s.ms < 100 * 600 ∧ 100 * 600 ≤ ({ s with ms := 60000 } : State).ms
        ∧ ({ s with ms := 60000 } : State).hasRoom 1)
      ∧ (let c : Call := { assistCall with level := 1 };
        c.level < ((calling c).ladder c.group).count) := by
  unfold State.hasRoom; decide +kernel

def at_ (pitch : Half) (count : Nat) (s : State) : State := withDrive (fun d => { d with pitch := pitch, count := count }) s
theorem witness_MotionEventsMoveTheDrive :
    ((1#16) ≠ 0 ∧ State.reset.part = .starting ∧ line.setup.drives[2] = none)
      ∧ (let s := at_ 1208 150 (calling assistCall);
        s.part = .running ∧ s.setup.drives[0] = some driveDef ∧ (s.drive 0).count < driveDef.pitch
          ∧ assistRef ∈ s.armedCalls 0 ∧ s.callAt assistRef = some assistCall ∧ assistCall.stop = .armed 1209
          ∧ 1 ≤ ((1209#16) - (s.drive 0).pitch).toNat
          ∧ ((1209#16) - (s.drive 0).pitch).toNat ≤ ((s.drive 0).count + 4650) / driveDef.pitch
          ∧ ¬ ((1209#16) - (s.drive 0).pitch).toNat ≤ ((s.drive 0).count + 4649) / driveDef.pitch)
      ∧ (let s := at_ 1208 4700 (calling assistCall);
        driveDef.pitch - driveDef.tolerance ≤ (s.drive 0).count ∧ assistRef ∈ s.armedCalls 0
          ∧ assistCall.stop = .armed ((s.drive 0).pitch + 1) ∧ (s.drive 0).demand = []
          ∧ s.call 0 .assist = some assistCall ∧ (∀ r ∈ s.armedCalls 1, (r.station, r.kind) ≠ (0, .assist))
          ∧ assistCall.stop ≠ .armed (((at_ 1207 4700 s).drive 0).pitch + 1) ∧ s.call 0 .maint = none)
      ∧ (((at_ 0 100 line).drive 0).count < driveDef.pitch - driveDef.tolerance ∧ ((at_ 0 100 line).drive 0).count ≤ driveDef.tolerance)
      ∧ (∀ n ∈ [101, 4699], ((at_ 0 n line).drive 0).count < driveDef.pitch - driveDef.tolerance
          ∧ driveDef.tolerance < ((at_ 0 n line).drive 0).count)
      ∧ (almostFull (at_ 0 101 line)).hasRoom 1 := by
  unfold State.hasRoom; decide +kernel
theorem witness_FeedbackOpensAndClosesRecords :
    State.reset.part = .starting ∧ (line.part = .running ∧ (line.drive 0).feedback = .moving ∧ line.workingZones 0 ≠ []
        ∧ line.workingZones 1 = [])
      ∧ (let s := stopped (shiftAt .running);
        s.part = .running ∧ (s.drive 0).feedback = .stopped ∧ (s.drive 0).stopRequest = true
          ∧ s.setup.drives[0] = some driveDef ∧ s.openRecord 0 = some record)
      ∧ (line.drive 0).stopRequest = false
      ∧ (let s := almostFull (withDrive (fun d => { d with supervision := .timing 20 10 }) line);
        (s.drive 0).supervision = .timing 20 10 ∧ s.hasRoom 1) := by
  unfold State.hasRoom; decide +kernel

theorem witness_FramesOfOrderUnitAndSetupOrders :
    postedOrder (.lockSetup post) = some (post, .lockSetup) ∧ Order.lockSetup.code.toNat < 0x20
      ∧ (footprint (.lockSetup post)).isSome ∧ ∃ t, exec (.lockSetup post) line = .next t :=
  ⟨rfl, by decide, rfl, after (.lockSetup post) line, rfl⟩
theorem witness_FramesOfLineAndCallOrders :
    (postedOrder (.placeZoneInService post 2) = some (post, .placeZoneInService 2) ∧ 0x20 ≤ (Order.placeZoneInService 2).code.toNat)
      ∧ (postedOrder (.clearCall post 1 0) = some (post, .clearCall 1 0) ∧ (Order.clearCall 1 0).code.toNat < 0x40)
      ∧ (footprint (.clearCall post 1 0)).isSome ∧ ∃ t, exec (.clearCall post 1 0) due = .next t :=
  ⟨⟨rfl, by decide⟩, ⟨rfl, by decide⟩, rfl, after (.clearCall post 1 0) due, rfl⟩
theorem witness_FramesOfShiftBoardStoreAndJournalOrders :
    (postedOrder (.setClock post 1 1) = some (post, .setClock 1 1) ∧ 0x40 ≤ (Order.setClock 1 1).code.toNat)
      ∧ (footprint (.setClock post 1 1)).isSome ∧ ∃ t, exec (.setClock post 1 1) line = .next t :=
  ⟨⟨rfl, by decide⟩, rfl, after (.setClock post 1 1) line, rfl⟩
theorem witness_FramesOfEvents :
    postedOrder (.advance 0 9700 .forward) = none ∧ (footprint (.advance 0 9700 .forward)).isSome
      ∧ ∃ t, exec (.advance 0 9700 .forward) (at_ 1208 150 (calling assistCall)) = .next t :=
  ⟨rfl, rfl, after (.advance 0 9700 .forward) (at_ 1208 150 (calling assistCall)), rfl⟩

/-! ### Small tests: one command each -/

/-- The result code, detail and data that slot 1 shows. -/
def answerOf (s : State) : Nat × Nat × List Byte :=
  ((s.readByte (slotBase 0 + 3)).toNat, leNat (s.readRun (slotBase 0 + 6) 2), s.readRun (slotBase 0 + 8) 8)
/-- The `n`-th entry of the ring: sequence, kind, flags, subject, details A and B (section 1.9). -/
def entryAt (n : Nat) (s : State) : List Nat :=
  let b := journalBase n
  [leNat (s.readRun b 4), (s.readByte (b + 8)).toNat, (s.readByte (b + 9)).toNat, leNat (s.readRun (b + 10) 2),
    leNat (s.readRun (b + 12) 2), leNat (s.readRun (b + 14) 2)]
def text (cs : List Nat) : List Byte := cs.map (BitVec.ofNat 8)

-- registers (R1, R2, R4, R159)
theorem test_ident_reads_as_r1_says : State.reset.readRegister 0 = 0x91245A31#32 := by decide +kernel
theorem test_mask_write_asserts_the_line :
    (after (.maskWrite ⟨0x09, 15⟩) { line with irq := ⟨0x08, 0, false⟩ }).irq = ⟨0x08, 0x09, true⟩ := by decide +kernel
theorem test_cause_write_releases_the_line :
    (after (.causeWrite ⟨0x08, 1⟩) { line with irq := ⟨0x18, 0x08, true⟩ }).irq = ⟨0x10, 0x08, false⟩ := by decide +kernel
theorem test_ignored_write : exec (.registerWriteIgnored 0 hold) line = .next line := by rfl
theorem test_part_control_shows_hold_and_work :
    (after (.orderHold hold) (slotFiveTaken line)).readRegister 4 = 0x105#32 := by decide +kernel

-- resets and start-up (R5, R119, R121, R166)
theorem test_power_on_reset_clears_the_clock :
    let t := after .powerOnReset (clockAt 100 line);
    t.shift.clock.isSet = false ∧ t.readRegister 4 = 0 := by decide +kernel
theorem test_part_reset_keeps_clock_and_cuts_record :
    let t := after (.partReset bit31) (clockAt 100 (stopped line));
    t.shift.clock.second = 100 ∧ t.attr.history[0].map StopRecord.isCut = some true ∧ t.part = .starting := by decide +kernel
theorem test_start_up_loads_and_places_the_plan :
    let t := after .startUp stored;
    t.part = .running ∧ t.setup.status = .loaded ∧ t.setup.service[0] = .inService ∧ (t.brd.boards[0]).state = .searching
      ∧ t.shift.state = .pending := by decide +kernel

-- the order unit (R8, R12 to R15, section 1.8)
theorem test_scan_takes_in_rotating_order :
    (after (.orderScan .run [(0x0141, 0x03), (0x0140, 1), (0x0101, 0x03), (0x0100, 1)]) scanning).ord.takePos = 1 := by
  decide +kernel
theorem test_scan_answers_an_unknown_order :
    let t := after (.orderScan .run [(0x0101, 0x7F), (0x0100, 1)]) scanning;
    answerOf t = (4, 1, List.replicate 8 0) ∧ t.ord.lock = ⟨1, 1, 0x7F, 1, 0⟩ ∧ entryAt 0 t = [1, 0x41, 1, 1, 1, 0x7F]
      ∧ t.readRun 0x0004 4 = [1, 1, 0x7F, 1] := by decide +kernel
theorem test_attention_during_a_scan_marks_one_more : (after (.attention hold []) scanning).ord.further = true := by decide +kernel
theorem test_scan_timer_begins_a_scan :
    (after .scanTimerExpiry (withOrders (fun o => { o with scanDue := some 50 }) line)).ord.scanning = true := by decide +kernel
theorem test_unlock_orders : answerOf (after (.unlockOrders post) locked) = (0, 3, List.replicate 8 0) := by decide +kernel
theorem test_stop_all_work_aborts_a_drain :
    let t := after (.stopAllWork post) draining;
    answerOf t = (0, 1, List.replicate 8 0) ∧ t.setup.service[0] = .inService ∧ t.readByte (slotBase 4 + 3) = 9 := by
  decide +kernel

-- line setup (R21 to R31)
theorem test_define_drive_is_guarded : answerOf (after (.defineDrive post drive64) keyed) = (10, 2, text [1, 0, 0, 0, 0, 0, 0, 0]) := by
  decide +kernel
theorem test_define_drive : ((after (.defineDrive post drive64) line).setup.drives[2].map DriveDef.notice) = some 63 := by
  decide +kernel
theorem test_define_zone_fits_panels :
    let t := after (.defineZone post zone2) line;
    (t.loop.panels[30]).state = .seeking ∧ (t.loop.panels[2]).state = .unfitted := by decide +kernel
theorem test_bind_stations_names_in_turn : (after (.bindStations post bind16) line).setup.bindings[159] = ⟨24, 64⟩ := by
  decide +kernel
theorem test_define_group_writes_its_row :
    (after (.defineGroup post group3) line).setup.ladders[23].count = 3 := by decide +kernel
theorem test_define_text_writes_the_table :
    (after (.defineText post text64) line).readRun 0x69F0 3 = [0x7E, 0x20, 0x20] := by decide +kernel
theorem test_set_loop_timing_gives_the_old_scale :
    answerOf (after (.setLoopTiming post 32) line) = (0, 0, text [4, 0, 0, 0, 0, 0, 0, 0]) := by decide +kernel
theorem test_set_setup_protection : (after (.setSetupProtection post 1) line).setup.keyed = true := by decide +kernel
theorem test_lock_setup : entryAt 0 (after (.lockSetup post) line) = [1, 0x43, 0, 0, 4, 0] := by decide +kernel

-- zone service, drives, buffers, panels (R33 to R36, R91, R92, R99 to R101, R52)
theorem test_place_zone_in_service : (after (.placeZoneInService post 2) line).setup.service[1] = .inService := by decide +kernel
theorem test_take_zone_out_with_calls_is_taken :
    (after (.takeZoneOutOfService post 1) (calling assistCall)).readByte (slotBase 0) = 2 := by decide +kernel
theorem test_force_drain_ends_the_drain_order :
    let t := after (.forceDrain post 1) draining;
    answerOf t = (0, 1, List.replicate 8 0) ∧ t.readByte (slotBase 4) = 3 ∧ t.call 0 .assist = none := by decide +kernel
theorem test_hold_drive_is_journaled : entryAt 0 (after (.holdDrive post 1) (at_ 77 5 line)) = [1, 0x10, 2, 1, 0, 77] := by
  decide +kernel
theorem test_release_drive_keeps_the_due_call :
    let t := after (.releaseDrive post 1) holding;
    answerOf t = (0, 0, text [1, 0, 0, 0, 0, 0, 0, 0]) ∧ (t.drive 0).stopRequest = true := by decide +kernel
theorem test_set_buffer_count_above_capacity :
    answerOf (after (.setBufferCount post 1 6) line) = (1, 2, text [5, 0, 0, 0, 0, 0, 0, 0]) := by decide +kernel
theorem test_release_of_an_empty_buffer : entryAt 0 (after (.bufferRelease 0) line) = [1, 0x18, 2, 1, 0, 5] := by decide +kernel
theorem test_reset_panel_counters : answerOf (after (.resetPanelCounters post 0) line) = (0, 40, List.replicate 8 0) := by
  decide +kernel

-- calls (sections 6.3 and 5.2: the deadlines, the climbs)
theorem test_raise_past_the_minimum_notice :
    ((after (.raiseCall post 1 0) (at_ 1207 4350 line)).call 0 .assist).map Call.stop = some (.armed 1209) := by decide +kernel
theorem test_raise_across_the_wrap :
    ((after (.raiseCall post 1 2) (at_ 65535 1000 line)).call 0 .quality).map Call.stop = some (.armed 0) := by decide +kernel
theorem test_answer_of_a_due_call :
    let t := after (.answerCall post 1 0) (at_ 1210 250 due);
    (t.call 0 .assist).map Call.stop = some (.armed 1212) ∧ (t.drive 0).demand = [] ∧ (t.drive 0).stopRequest = false := by
  decide +kernel
theorem test_clear_call_gives_its_serial :
    answerOf (after (.clearCall post 1 0) due) = (0, 1, text [0xF5, 1, 0, 0, 0, 0, 0, 0]) := by decide +kernel
theorem test_escalation_turns_on_its_output :
    (after (.escalationExpiry 0 .assist) { calling assistCall with ms := 60000 }).alerts[0] = 1 := by
  decide +kernel

-- motion (section 6.3's long advance; R84, R85, R95)
theorem test_long_advance :
    let d := (after (.advance 0 9700 .forward) (at_ 1208 150 (calling assistCall))).drive 0;
    d.pitch = 1210 ∧ d.count = 250 ∧ d.overrun = 5050 ∧ d.demand = [.call assistRef] ∧ d.stopRequest = true := by decide +kernel
theorem test_reverse_advance_counts_below_zero :
    let d := (after (.advance 0 300 .reverse) (at_ 9 250 line)).drive 0;
    d.pitch = 9 ∧ d.count = 0 ∧ d.reverse = 50 := by decide +kernel
theorem test_marker_makes_a_crossing : ((after (.marker 0) (at_ 65535 4700 line)).drive 0).pitch = 0 := by decide +kernel
theorem test_feedback_stopped_opens_a_record :
    let t := after (.runFeedbackChange 0 .stopped) (withDrive (fun d => { d with watching := true, overrun := 5050 }) due);
    (t.openRecord 0).map StopRecord.overrun = some 5050 ∧ (t.openRecord 0).map StopRecord.charge = some (.cause (.call 0 .assist)) := by
  decide +kernel
theorem test_supervision_expiry_raises_fault :
    (after (.supervisionExpiry 0) (withDrive (fun d => { d with supervision := .timing 0 10 }) due)).irq.cause = 0x12#5 := by
  decide +kernel

-- the shift (section 8.5)
theorem test_set_clock_gives_the_old_clock :
    answerOf (after (.setClock post 86399 7) (clockAt 3600 line)) = (0, 0, text [0x10, 0x0E, 0, 0, 0xFF, 0xFF, 1, 0]) := by
  decide +kernel
theorem test_clock_wraps_at_midnight :
    let c := (after .clockAdvance (clockAt 86399 line)).shift.clock;
    c.second = 0 ∧ c.day = 65535 := by decide +kernel
theorem test_define_shift_plan_is_pending : (after (.defineShiftPlan post plan) line).shift.state = .pending := by decide +kernel
theorem test_load_of_an_empty_place : (answerOf (after (.loadShiftPlan post 1) line)).1 = 6 := by decide +kernel
theorem test_start_shift_now : (after (.startShiftNow post) pendingPlan).shift.state = .running := by decide +kernel
theorem test_end_shift_gives_actual_and_plan :
    answerOf (after (.endShift post) (shiftAt .running)) = (0, 0, text [61, 0, 65, 0, 0, 0, 0, 0]) := by decide +kernel
theorem test_collect_pace_notices :
    let t := after (.collectPaceNotices post) (withShift (fun x => { x with behindList := [4], recovered := [(1, true)] }) line);
    answerOf t = (0, 0x101, List.replicate 8 0) ∧ t.readRun (slotBase 0 + 16) 3 = [5, 18, 0] := by decide +kernel
theorem test_pace_of_the_first_working_hour : (after .tallySecond (shiftAt .running)).shift.pace = some 935 := by decide +kernel
theorem test_plan_rise_makes_a_zone_behind :
    let t := after .planRise (shiftAt .running);
    t.shift.planCount = 65 ∧ t.shift.zoneBehind[1] = true ∧ t.shift.behindList = [0, 1] := by decide +kernel
theorem test_break_begins_at_its_offset :
    let t := after .breakBegin (shiftAt .running);
    t.ms = 7200000 ∧ t.shift.state = .onBreak ∧ t.shift.working = 72000 := by decide +kernel
theorem test_break_end_gives_back_the_time :
    (after .breakEnd (withShift (fun x => { x with breaksBegun := 1, breakFrom := 72000 }) (shiftAt .onBreak))).shiftW = 72000 := by
  decide +kernel
theorem test_planned_end_below_target : (after .plannedEnd (shiftAt .running)).shift.state = .overtime := by decide +kernel
theorem test_overtime_limit_closes : (after .overtimeLimit (shiftAt .overtime)).shift.closeReason = some .overtimeLimit := by
  decide +kernel
theorem test_transfer_reaches_the_target :
    (after (.exitTransfer 1) (withShift (fun x => { x with actual := 399 }) (shiftAt .overtime))).shift.closeReason
      = some .targetReached := by decide +kernel
theorem test_totals_second_charges_the_hold :
    (after .totalsSecond (stopped (shiftAt .running))).attr.totals[0].totals[4] = 36000 := by decide +kernel

-- boards (section 9.7)
theorem test_render_second_shows_actual_difference_target :
    let b := (after .renderSecond (withShift (fun x => { x with planCount := 65 }) (boardAt .online (shiftAt .running)))).brd.boards[0];
    (b.content.toList.take 3).map Content.chars = [text [32, 32, 54, 49], text [32, 32, 45, 52], text [32, 52, 48, 48]] := by
  decide +kernel
theorem test_check_value_of_the_frame :
    checkValue [(0, ⟨0, text [32, 32, 54, 49]⟩), (1, ⟨0, text [32, 32, 45, 52]⟩), (2, ⟨0, text [32, 52, 48, 48]⟩)] = 514 := by decide
theorem test_define_board : ((after (.defineBoard post board16) line).brd.boards[15].definition.map BoardDef.fields) = some 32 := by
  decide +kernel
theorem test_define_board_fields :
    (after (.defineBoardFields post fields1) boardLine).brd.boards[0].entries[2] = some ⟨.lineActual, 4, 0, false, false⟩ := by
  decide +kernel
theorem test_enable_board : (after (.enableBoard post 1) (boardAt .disabled line)).brd.boards[0].state = .searching := by decide +kernel
theorem test_disable_board_aborts_its_reset : (after (.disableBoard post 1) resetting).readByte (slotBase 4 + 3) = 9 := by
  decide +kernel
theorem test_reset_board_is_taken : (after (.resetBoard post 1) boardLine).readByte (slotBase 0) = 2 := by decide +kernel
theorem test_set_link_timing : answerOf (after (.setLinkTiming post 1 60) line) = (0, 0, text [5, 10, 0, 0, 0, 0, 0, 0]) := by
  decide +kernel
theorem test_refresh_of_every_board : answerOf (after (.refreshBoard post 0) boardLine) = (0, 1, List.replicate 8 0) := by
  decide +kernel
theorem test_link_chooses_a_stale_board : ((after (.linkChoose 0) (stale boardLine)).brd.links[0].frame.map Outstanding.waitEnd) = some 50 := by
  decide +kernel
theorem test_third_silent_attempt_is_a_fault :
    let t := after (.linkWaitExpiry 0) (frameOut (.fields carried) 3 boardLine);
    t.brd.boards[0].state = .fault ∧ entryAt 0 t = [1, 0x32, 4, 1, 3, 2] := by decide +kernel
theorem test_probe_answered : (after (.boardReply 0 (.reply 2 0 false)) (frameOut .probe 1 (boardAt .searching line))).brd.boards[0].state
    = .online := by decide +kernel
theorem test_reset_wait_runs_out : (after (.resetWaitExpiry 0) (frameOut .reset 1 resetting)).readByte (slotBase 4 + 3) = 11 := by
  decide +kernel
theorem test_probe_due :
    (after (.probeDue 0) (withBoard (fun b => { b with probeAt := some 5000 }) (boardAt .fault line))).brd.boards[0].probeDue = true := by
  decide +kernel
theorem test_refresh_timer :
    (after (.refreshTimerExpiry 0) (withBoard (fun b => { b with refreshAt := some 10000 }) boardLine)).brd.boards[0].refreshAt
      = some 20000 := by decide +kernel

-- plan store (R162 to R165) and journal (R155 to R158)
theorem test_save_plan_runs_120_ms : ((after (.savePlan post 16 plan) line).store.op.map StoreOp.endAt) = some 120 := by decide +kernel
theorem test_erase_while_working_is_busy : answerOf (after (.erasePlan post 1) saving) = (3, 5, List.replicate 8 0) := by decide +kernel
theorem test_save_setup_runs_900_ms : ((after (.saveSetup post 0) line).store.op.map StoreOp.endAt) = some 900 := by decide +kernel
theorem test_unverified_save_is_damaged :
    let t := after (.storeOperationEnd false) saving;
    (t.store.plans[15]).state = .damaged ∧ t.readByte (slotBase 4 + 3) = 8 := by decide +kernel
theorem test_set_journal_notice :
    answerOf (after (.setJournalNotice post 512 10000) line) = (0, 0, text [1, 0, 0xF4, 1, 0, 0, 0, 0]) := by decide +kernel
theorem test_take_count_closes_the_gap :
    let t := after (.takeCountRead [(0x0010, 1)]) (gapped 0);
    entryAt 0 t = [513, 0x45, 0, 0, 70000 - 65536, 1] ∧ t.jrn.gap = 0 := by decide +kernel
theorem test_bogus_take_count : entryAt 100 (after (.takeCountRead [(0x0010, 101)]) (bogus none)) = [101, 0x44, 0, 0, 101, 0] := by
  decide +kernel
theorem test_age_timer : (after .ageTimerExpiry (oneUnread 500)).irq.cause = 2 := by decide +kernel

-- the call loop (R38 to R50)
theorem test_poll_goes_to_the_next_panel : ((after .pollSend line).loop.poll.map fun q => (q.panel, q.waitEnd)) = some (0, 8) := by
  decide +kernel
theorem test_lost_poll_due : ((after (.lostPollDue 0) (lostPanel false)).loop.panels[0]).due = true := by decide +kernel
theorem test_cord_opens_an_assist_call :
    let t := after (.panelAnswer (.answer 1 false [cord 6])) (polling 1 false line);
    (t.call 0 .assist).isSome ∧ (t.loop.panels[0]).last = 6 := by decide +kernel
theorem test_third_failed_poll_loses_the_panel :
    let t := after .responseTimeout (polling 3 false (withPanel (fun x => { x with failures := 2 }) line));
    (t.loop.panels[0]).state = .lost ∧ (t.drive 0).demand = [.panel 0 0] := by decide +kernel

-- the step (log entry 4)
theorem test_first_idle_step_queues_start_up : (tick State.reset).pending = [.startUp] := by decide +kernel

end Sys2Proof.Tests
end

section
/-! Proofs for the family of the exchange memory and the orders (chapter 1): the facts about register writes, footprints, the
bytes an operation leaves, posts, answers and appends, then the statements settled from them. -/

namespace Sys2Proof

open Machine

/-! ### Register writes (R1, R4) -/

/-- The byte that a write stores in byte lane `n` of its register. -/
def RegWrite.lane (w : RegWrite) (n : Nat) : Byte := if w.enables.getLsbD n then w.value.extractLsb' (8 * n) 8 else 0

theorem RegWrite.full_eq_lanes (w : RegWrite) : w.full = w.lane 3 ++ (w.lane 2 ++ (w.lane 1 ++ w.lane 0)) := rfl

theorem RegWrite.lane_getLsbD (w : RegWrite) (n j : Nat) (h : j < 8) :
    (w.lane n).getLsbD j = (w.value.getLsbD (8 * n + j) && w.enables.getLsbD n) := by
  unfold RegWrite.lane
  split <;> simp_all

/-- A bit of the full write is the bit written if its byte is written, and zero otherwise (R1). -/
theorem RegWrite.full_getElem (w : RegWrite) (i : Fin 32) :
    w.full[i] = (w.value[i] && w.enables.getLsbD (i.val / 8)) := by
  have split : w.full[i] = (w.lane (i.val / 8)).getLsbD (i.val % 8) := by
    obtain ⟨i, hi⟩ := i
    simp only [full_eq_lanes, Fin.getElem_fin, ← BitVec.getLsbD_eq_getElem, BitVec.getLsbD_append]
    rcases (by omega : i < 8 ∨ 8 ≤ i ∧ i < 16 ∨ 16 ≤ i ∧ i < 24 ∨ 24 ≤ i) with h | h | h | h
    · rw [if_pos (by omega), if_pos (by omega), if_pos (by omega)]; congr 2 <;> omega
    · rw [if_pos (by omega), if_pos (by omega), if_neg (by omega)]; congr 2 <;> omega
    · rw [if_pos (by omega), if_neg (by omega)]; congr 2 <;> omega
    · rw [if_neg (by omega)]; congr 2 <;> omega
  rw [split, w.lane_getLsbD _ _ (Nat.mod_lt _ (by decide)), Nat.div_add_mod]
  simp

/-- The full write that a narrower write acts as is its own full write. -/
theorem RegWrite.full_full (w : RegWrite) : (⟨w.full, 15⟩ : RegWrite).full = w.full := by
  refine BitVec.eq_of_getElem_eq fun i hi => ?_
  have every : ∀ k : Fin 4, (15#4).getLsbD k.val = true := by decide
  have written := every ⟨i / 8, by omega⟩
  have bit := RegWrite.full_getElem ⟨w.full, 15⟩ ⟨i, hi⟩
  simpa [written] using bit

namespace Machine

theorem identValue_fields : identValue.extractLsb' 0 16 = 0x5A31#16 ∧ identValue.extractLsb' 16 8 = 0x24#8
    ∧ identValue.extractLsb' 24 4 = 1#4 ∧ identValue.extractLsb' 28 4 = 9#4 := by decide

/-- A write to a register acts through its full write alone (R1). -/
theorem exec_registerWrite_congr {v w : RegWrite} (h : v.full = w.full) (s : State) :
    exec (.partReset v) s = exec (.partReset w) s ∧ exec (.orderHold v) s = exec (.orderHold w) s
      ∧ exec (.causeWrite v) s = exec (.causeWrite w) s ∧ exec (.maskWrite v) s = exec (.maskWrite w) s := by
  have reset : v.partResetBit = w.partResetBit := congrArg (·.getLsbD 31) h
  have hold : v.orderHoldBit = w.orderHoldBit := congrArg (·.getLsbD 0) h
  simp only [exec]
  unfold execPartReset execOrderHold execCauseWrite execMaskWrite
  rw [reset, hold, h]
  exact ⟨rfl, rfl, rfl, rfl⟩

/-- A write to IDENT changes nothing (R1). -/
theorem exec_identWrite (o : Nat) (w : RegWrite) (s : State) (h : o < 4) : exec (.registerWriteIgnored o w) s = .next s := by
  have ignored : ignoredOffset o = true := by simp [ignoredOffset, h]
  exact if_pos ignored

/-! ### Footprints -/

/-- A footprint is kept if its blocks, and its rows and ranges of the exchange memory, hold all that has changed. -/
theorem bounds_of_touches {f : Footprint} {s t : State} (blocks : ∀ b, b ∉ f.blocks → b.same s t)
    (memory : Touches f.rows f.ranges s t) (queue : t.pending = s.pending) : f.bounds s t :=
  ⟨blocks, memory.1, memory.2.1, queue⟩

/-! ### CAUSE and MASK (R4) -/

/-- New interrupts stay inside the footprint of a CAUSE or MASK write. -/
theorem interrupts_bounds (x : Interrupts) (s : State) :
    ({ blocks := [.interrupts] } : Footprint).bounds s { s with irq := x } := by
  refine bounds_of_touches (fun b h => ?_) (.of_win rfl) rfl
  cases b <;> simp_all [Block.same, serviceOf]

/-- A register that shows a cause set reads the five causes, and zero above them (R4). -/
theorem causeSet_read (x : BitVec 5) (i : Fin 32) :
    (x.zeroExtend 32)[i] = if h : i.val < 5 then x[i.val] else false := by
  split <;> simp_all [BitVec.getElem_setWidth, BitVec.getLsbD_of_ge]

theorem clearCauses_cause (w : Word) (s : State) (i : Fin 5) :
    (clearCauses w s).irq.cause[i] = (s.irq.cause[i] && !w.getLsbD i.val) := by
  simp [clearCauses, interruptsOf]

theorem setMask_mask (w : Word) (s : State) (i : Fin 5) : (setMask w s).irq.mask[i] = w.getLsbD i.val := by
  simp [setMask, interruptsOf]

/-- A part reset leaves no cause pending and none in the mask (R4). -/
theorem partReset_irq (s : State) : (partReset s).irq = Interrupts.initial := rfl

/-! ### Bytes that an operation leaves -/

/-- Settling writes zone and board rows, so it leaves the order slots and the journal as they are. -/
theorem settle_readByte (old s : State) (a : Nat) (h : a < 0x900 ∨ 0x1980 ≤ a) :
    (settle old s).readByte a = s.readByte a := by
  refine (touches_settle old s).2.1 a fun r hr => ?_
  simp only [List.append_nil, List.map_append, List.flatten_append, List.mem_append, zoneRows, boardRows, List.map_map,
    List.mem_flatten, List.mem_map, List.mem_finRange, Function.comp_apply, true_and] at hr
  obtain ⟨_, ⟨z, rfl⟩, hr⟩ | ⟨_, ⟨b, rfl⟩, hr⟩ := hr
  · obtain rfl : r = (0x0900 + 128 * z.val, 128) := by simpa [Row.ranges, Row.base, Row.size] using hr
    dsimp only; omega
  · obtain rfl : r = (0x1580 + 64 * b.val, 64) := by simpa [Row.ranges, Row.base, Row.size] using hr
    dsimp only; omega

/-- Runs read the same where each of their bytes does. -/
theorem readRun_congr {s t : State} {a n : Nat} (h : ∀ i < n, t.readByte (a + i) = s.readByte (a + i)) :
    t.readRun a n = s.readRun a n :=
  List.map_congr_left fun i hi => h i (List.mem_range.1 hi)

/-- What a slot shows rests on its own 64 bytes. -/
theorem State.shows.congr {s t : State} {k : Fin 24} {g : Half} {x : Answer} (shown : s.shows k g x)
    (h : ∀ i < 64, t.readByte (slotBase k + i) = s.readByte (slotBase k + i)) : t.shows k g x := by
  have run (i n : Nat) (hn : i + n ≤ 64) : t.readRun (slotBase k + i) n = s.readRun (slotBase k + i) n :=
    readRun_congr fun j hj => by simpa only [Nat.add_assoc] using h (i + j) (by omega)
  obtain ⟨state, code, tag, detail, data, params⟩ := shown
  exact ⟨(h 0 (by decide)).trans state, (h 3 (by decide)).trans code, (run 4 2 (by decide)).trans tag,
    (run 6 2 (by decide)).trans detail, (run 8 8 (by decide)).trans data,
    fun ps hps => (run 16 48 (by decide)).trans (params ps hps)⟩

/-! ### The post of an order (section 1.3) -/

theorem length_comp_breakSpan_bytes : List.length ∘ BreakSpan.bytes = fun _ => 4 := rfl

theorem length_comp_fieldBytes_bytes : List.length ∘ FieldBytes.bytes = fun _ => 8 := rfl

/-- The parameters of every order fit in the parameter area (section 1.3). -/
theorem Order.params_length_le (o : Order) : o.params.length ≤ 48 := by
  cases o <;> simp [Order.params, DriveParams.bytes, ZoneParams.bytes, BindParams.bytes, GroupParams.bytes,
    LevelParams.bytes, TextParams.bytes, PlanBlock.bytes, length_comp_breakSpan_bytes, BoardParams.bytes,
    length_comp_fieldBytes_bytes, FieldsParams.bytes, halfBytes_length, wordBytes_length]

theorem touches_postSlot (p : Post) (o : Order) (s : State) : Touches [] [slotRange p.slot] s (postSlot p o s) := by
  unfold postSlot
  refine .trans ?_ (touches_slotWrite p.slot 0 [1] _ (by simp))
  refine .trans ?_ (touches_slotWrite p.slot 16 _ _ (by have := o.params_length_le; omega))
  refine .trans ?_ (touches_slotWrite p.slot 4 _ _ (by simp [halfBytes_length]))
  exact .congr_left rfl (touches_slotWrite p.slot 1 _ _ (by simp))

@[simp] theorem postSlot_feedback (p : Post) (o : Order) (s : State) :
    (postSlot p o s).pins.feedback = s.pins.feedback := rfl

/-- A run clear of the posted slot reads as before the post. -/
theorem postSlot_readRun (p : Post) (o : Order) (s : State) (a n : Nat) (h : a + n ≤ 0x100) :
    (postSlot p o s).readRun a n = s.readRun a n :=
  readRun_congr fun i hi => (touches_postSlot p o s).2.1 _ (by simp [outside, slotRange, slotBase]; omega)

@[simp] theorem postSlot_takeField (p : Post) (o : Order) (s : State) : (postSlot p o s).takeField = s.takeField :=
  congrArg (wordAt · 0) (postSlot_readRun p o s _ _ (by decide))

/-! ### Answers (R7, R17) -/

theorem answerSlot_raised (k : Fin 24) (g : Half) (x : Answer) (s : State) :
    (answerSlot k true g x s).raised .orderDone := raiseCause_raised .orderDone s

/-- An order answered by its owner, the take position already moved, stays answered when the event is closed. -/
theorem settle_answerSlot_answered (p : Post) (x : Answer) (old s : State) (h : s.ord.takePos = p.slot) :
    Answered p x (settle old (answerSlot p.slot (notifySet p.notify) p.tag x s)) := by
  refine ⟨(answerSlot_shows ..).congr fun i hi => settle_readByte _ _ _ ?_, by simpa using h, fun notify => ?_⟩
  · simp only [slotBase]; omega
  · have set : notifySet p.notify = true := bne_iff_ne.2 notify
    simpa only [State.raised, settle_irq, set] using answerSlot_raised p.slot p.tag x s

/-- The take of an order that its owner answers at once, in a READY unit or by one of the two orders that a LOCKED unit
takes (R9, R13). -/
theorem carryOut_performed (k : Fin 24) (n : Bool) (g : Half) (o : Order) (f : Perform) (s t : State) (x : Answer)
    (h : s.ord.locked = false ∨ o.takenWhenLocked = true) (hf : f (atTake k s) = (t, some x)) :
    carryOut k n g o f s = settle s (answerSlot k n g x t) := by
  have taken : (s.ord.locked && !o.takenWhenLocked) = false := by rcases h with h | h <;> simp [h]
  unfold atTake at hf
  simp [carryOut, taken, hf]

/-- An answer for which the owner changes nothing keeps to the footprint of every order's take (R9). -/
theorem answered_unchanged_bounds (p : Post) (o : Order) (n : Bool) (g : Half) (x : Answer) (s : State) :
    (ordered p { blocks := [] }).bounds s
      (settle (postSlot p o s) (answerSlot p.slot n g x (atTake p.slot (postSlot p o s)))) := by
  refine bounds_of_touches (fun b h => ?_) ?_ (by simp [atTake])
  · cases b <;> simp_all [Block.same, serviceOf, ordered, settled, atTake]
  · have slot : Touches [] [slotRange p.slot] s (answerSlot p.slot n g x (atTake p.slot (postSlot p o s))) :=
      (touches_postSlot p o s).trans (.congr_left rfl (touches_answerSlot p.slot n g x _))
    exact (slot.mono (by simp) (by simp [ordered, settled])).trans
      ((touches_settle _ _).mono (by simp [ordered, settled]) (by simp))

/-! ### Appends to the journal (chapter 10) -/

section JournalUnit

variable {s t : State} (hj : s.jrn = t.jrn) (hm : s.ms = t.ms)

include hj in
theorem unread_congr : s.unread = t.unread := by simp only [State.unread, hj]

include hj hm in
theorem writeEntry_jrn_congr (e : Entry) : (writeEntry e s).jrn = (writeEntry e t).jrn := by
  simp [writeEntry, raiseNotice, hj, hm, unread_congr hj]

include hj in
theorem dropEntry_jrn_congr : (dropEntry s).jrn = (dropEntry t).jrn := by simp [dropEntry, raiseNotice, hj]

include hm in
theorem ownEntry_congr (k v : Nat) : ownEntry k v s = ownEntry k v t := by simp only [ownEntry, State.partTime, hm]

include hj hm in
theorem closeGap_jrn_congr : (closeGap s).jrn = (closeGap t).jrn := by
  simp only [closeGap, hj, unread_congr hj, ownEntry_congr hm]
  split
  · simp [writeEntry_jrn_congr hj hm]
  · exact hj

include hj hm in
theorem acceptTake_jrn_congr (v : Word) : (acceptTake v s).jrn = (acceptTake v t).jrn := by
  simp only [acceptTake, followOldest, expireAge, raiseNotice, raiseIf, State.unread, State.ageInstant, hj, hm]
  split
  · exact hj
  · split
    · rfl
    · split <;> rfl

theorem acceptTake_ms (v : Word) (s : State) : (acceptTake v s).ms = s.ms := by
  unfold acceptTake followOldest expireAge raiseNotice raiseIf
  split
  · rfl
  · split
    · rfl
    · split <;> rfl

theorem closeGap_ms (s : State) : (closeGap s).ms = s.ms := by
  unfold closeGap
  split <;> simp [writeEntry, raiseNotice]

theorem readTakeStep_ms (s : State) : (readTakeStep s).ms = s.ms := by
  unfold readTakeStep
  dsimp only
  split
  · simp [closeGap_ms, acceptTake_ms]
  · split <;> simp [writeEntry, raiseNotice, closeGap_ms, acceptTake_ms]

include hj hm in
/-- A read of the take count depends on the field, the journal unit and the time alone (R156). -/
theorem readTakeStep_jrn_congr (hv : s.takeField = t.takeField) : (readTakeStep s).jrn = (readTakeStep t).jrn := by
  have accepted (v : Word) : (acceptTake v s).jrn = (acceptTake v t).jrn := acceptTake_jrn_congr hj hm v
  have time (v : Word) : (acceptTake v s).ms = (acceptTake v t).ms := by simp only [acceptTake_ms, hm]
  simp only [readTakeStep, hv, hj]
  split
  · exact closeGap_jrn_congr (by simp only [accepted]) (time _)
  · have closed := closeGap_jrn_congr (accepted t.jrn.put) (time t.jrn.put)
    have closedTime : (closeGap (acceptTake t.jrn.put s)).ms = (closeGap (acceptTake t.jrn.put t)).ms := by
      simp only [closeGap_ms, time]
    split
    · exact closed
    · rw [ownEntry_congr closedTime]
      refine writeEntry_jrn_congr ?_ ?_ _
      · simp only [closed]
      · exact closedTime

include hj hm in
/-- What an append does to the journal unit depends on the take count field, the journal unit and the time alone. -/
theorem journal_jrn_congr (hv : s.takeField = t.takeField) (e : Entry) : (journal e s).jrn = (journal e t).jrn := by
  have read := readTakeStep_jrn_congr hj hm hv
  have time : (readTakeStep s).ms = (readTakeStep t).ms := by simp only [readTakeStep_ms, hm]
  simp only [journal, unread_congr read]
  split
  · exact dropEntry_jrn_congr read
  · exact writeEntry_jrn_congr read time e

end JournalUnit

/-- Room in the journal rests on the take count field and the journal unit (R155 to R157). -/
theorem State.hasRoom.congr {s t : State} {n : Nat} (h : s.hasRoom n) (field : t.takeField = s.takeField)
    (unit : t.jrn = s.jrn) : t.hasRoom n := by
  simpa only [State.hasRoom, State.unread, field, unit] using h

/-- With room, an append writes its entry (R155). -/
theorem journal_journaled (e : Entry) (s : State) (h : s.hasRoom 1) : Journaled [e] s (journal e s) := by
  obtain ⟨t, jrn, win, -, -, same⟩ := journal_hasRoom e s h
  simpa only [Journaled, State.readRun, jrn, win, same] using writeEntry_journaled e t

/-- Entries stay written while the journal unit and the bytes of the ring stand. -/
theorem Journaled.congr {es : List Entry} {s s' t t' : State} (h : Journaled es s t) (start : s'.jrn = s.jrn)
    (stop : t'.jrn = t.jrn) (ring : ∀ a, 0x7000 ≤ a → t'.readByte a = t.readByte a) : Journaled es s' t' := by
  have run (k : Word) : t'.readRun (journalBase (ringRow k).val) 16 = t.readRun (journalBase (ringRow k).val) 16 :=
    readRun_congr fun i _ => ring _ (by simp only [journalBase]; omega)
  simpa only [Journaled, start, stop, run] using h

/-- An answer and the closing of its event leave the journal's ring. -/
theorem settle_answerSlot_ring (k : Fin 24) (n : Bool) (g : Half) (x : Answer) (old s : State) (a : Nat) (h : 0x7000 ≤ a) :
    (settle old (answerSlot k n g x s)).readByte a = s.readByte a := by
  refine (settle_readByte _ _ a (by omega)).trans ((touches_answerSlot k n g x s).2.1 a ?_)
  simp [outside, slotRange, slotBase]; omega

/-! ### LOCKED and UNLOCK ORDERS (R13, R14) -/

theorem not_takenWhenLocked {o : Order} (unlock : o ≠ .unlockOrders) (stop : o ≠ .stopAllWork) :
    o.takenWhenLocked = false := by
  cases o with
  | unlockOrders => exact absurd rfl unlock
  | stopAllWork => exact absurd rfl stop
  | _ => rfl

/-- The visit of a POSTED slot of a known order hands it to the take (R8, R9). -/
theorem visitSlot_posted {k : Fin 24} {o : Order} {s : State} (idle : s.slotInWork k = false) (posted : s.slotState k = 1)
    (known : parseOrder (s.slotKind k) (s.slotParams k) = some o) :
    visitSlot k s = carryOut k (s.slotNotify k) (s.slotTag k) o (o.perform k) s := by
  simp [visitSlot, takeSlot, idle, posted, known]

/-- An answer without a take by an owner changes the order unit, the interrupts and the slot alone (R13). -/
theorem answered_locked_bounds (k : Fin 24) (n : Bool) (g : Half) (x : Answer) (s : State) :
    ({ blocks := [.orders, .interrupts], ranges := [slotRange k] } : Footprint).bounds s
      (answerSlot k n g x (atTake k s)) := by
  refine bounds_of_touches (fun b h => ?_) (.congr_left rfl (touches_answerSlot k n g x _)) rfl
  cases b <;> simp_all [Block.same, serviceOf, atTake]

/-- The unit becomes READY (R14). -/
def unlocked (s : State) : State := { s with ord := { s.ord with locked := false } }

theorem unlockOrders_ready (k : Fin 24) (s : State) (h : s.ord.locked = false) :
    unlockOrders k s = (s, some (done 0 [])) := by simp [unlockOrders, h]

theorem unlockOrders_released (k : Fin 24) (s : State) (h : s.ord.locked = true) (idle : s.ord.inWork = []) :
    unlockOrders k s = (logReleased k (unlocked s), some (done s.ord.lock.further [])) := by
  simp [unlockOrders, unlocked, h, idle]

theorem unlockOrders_busy (k : Fin 24) (s : State) (h : s.ord.locked = true) (busy : s.ord.inWork ≠ []) :
    unlockOrders k s = (s, some (refuse 3 s.ord.inWork.length [])) := by simp [unlockOrders, h, busy, resBusy]

/-- UNLOCK ORDERS, taken, is answered with what its owner says, whether the unit is READY or LOCKED (R13, R14). -/
theorem exec_unlockOrders_answers {p : Post} {s t : State} {x : Answer} {effect : State → Prop} (taken : s.takes p.slot = true)
    (owner : unlockOrders p.slot (atTake p.slot (postSlot p .unlockOrders s)) = (t, some x)) (pos : t.ord.takePos = p.slot)
    (h : effect (settle (postSlot p .unlockOrders s) (answerSlot p.slot (notifySet p.notify) p.tag x t))) :
    Answers (.unlockOrders p) p s x effect := by
  refine ⟨_, ?_, settle_answerSlot_answered p x (postSlot p .unlockOrders s) t pos, h⟩
  show execUnlockOrders p s = _
  rw [execUnlockOrders, orderCommand_taken _ _ _ _ taken, carryOut_performed _ _ _ _ _ _ _ _ (.inr rfl) owner]

/-! ### The statements settled -/

/-- Settles O11: IDENT reads a constant, and the writing commands look at nothing of a write but the full write it acts as. -/
theorem identIsFixedAndNarrowWritesAreFull : Obligations.IdentIsFixedAndNarrowWritesAreFull := by
  unfold Obligations.IdentIsFixedAndNarrowWritesAreFull
  refine ⟨fun s => ?_, fun o w s h => exec_identWrite o w s h, RegWrite.full_getElem, fun w s => ?_, fun v w l s => rfl⟩
  · obtain ⟨vendor, part, revision, size⟩ := identValue_fields
    exact ⟨vendor, part, revision, size, rfl⟩
  · exact exec_registerWrite_congr w.full_full.symm s

/-- Settles O12, register by register and command by command. -/
theorem causeAndMaskFollowTheirWrites : Obligations.CauseAndMaskFollowTheirWrites := by
  unfold Obligations.CauseAndMaskFollowTheirWrites
  refine ⟨fun s i => ⟨causeSet_read s.irq.cause i, causeSet_read s.irq.mask i⟩, fun w s => ?_, fun w s => ?_,
    fun s => ⟨powerOn s, rfl, rfl, rfl⟩, fun w s reset => ?_⟩
  · exact ⟨clearCauses w.full s, rfl, clearCauses_cause w.full s, rfl, interrupts_bounds _ s⟩
  · exact ⟨setMask w.full s, rfl, setMask_mask w.full s, rfl, interrupts_bounds _ s⟩
  · refine ⟨partReset s, if_pos reset, ?_, ?_⟩ <;> rw [partReset_irq] <;> rfl

/-- Settles O21: the visit is the take of a known order in a LOCKED unit, which answers the slot itself. -/
theorem lockedUnitAnswersLocked : Obligations.LockedUnitAnswersLocked := by
  unfold Obligations.LockedUnitAnswersLocked
  intro k o s idle posted known locked unlock stop
  have visit : visitSlot k s
      = answerSlot k (s.slotNotify k) (s.slotTag k) (refuse 4 s.ord.lock.reason) (atTake k s) :=
    (visitSlot_posted idle posted known).trans (carryOut_locked _ _ _ _ _ s locked (not_takenWhenLocked unlock stop))
  rw [visit]
  refine ⟨answerSlot_shows .., rfl, fun notify => ?_, answered_locked_bounds ..⟩
  rw [notify]
  exact answerSlot_raised ..

/-- Settles O25, by the three cases of R14; the post moves neither the journal unit nor the take count, so the entry
appended is the one an append to the state before the post gives. -/
theorem unlockOrdersReleasesTheUnit : Obligations.UnlockOrdersReleasesTheUnit := by
  unfold Obligations.UnlockOrdersReleasesTheUnit
  intro p s taken
  refine ⟨fun ready => ?_, fun locked idle => ?_, fun locked busy => ?_⟩
  · exact exec_unlockOrders_answers taken (unlockOrders_ready _ _ ready) rfl
      ⟨by simp [atTake], answered_unchanged_bounds ..⟩
  · have field : (unlocked (atTake p.slot (postSlot p .unlockOrders s))).takeField = s.takeField :=
      postSlot_takeField p .unlockOrders s
    refine exec_unlockOrders_answers taken (unlockOrders_released _ _ locked idle) rfl ⟨?_, ?_, fun h => ?_⟩
    · simp [atTake, unlocked, logReleased]
    · simp only [settle_jrn, answerSlot_jrn]
      refine journal_jrn_congr ?_ ?_ ?_ _
      · rfl
      · rfl
      · exact field
    · refine (journal_journaled _ _ (h.congr field rfl)).congr ?_ ?_ (settle_answerSlot_ring _ _ _ _ _ _)
      · rfl
      · simp only [settle_jrn, answerSlot_jrn]; rfl
  · exact exec_unlockOrders_answers taken (unlockOrders_busy _ _ locked busy) rfl ⟨by simp [atTake], by simp [atTake]⟩

end Machine

end Sys2Proof
end

section
/-! Proofs for the family of the call loop (chapter 3): an order that its owner answers at once in a READY unit, what a
rewriting of panels leaves, the panels a panel byte names, and RESET PANEL COUNTERS settled from them. -/

namespace Sys2Proof.Machine

/-! ### Orders answered at once (R8, R9) -/

theorem State.ready.takes {s : State} {p : Post} (h : s.ready p) : s.takes p.slot = true := by
  obtain ⟨running, hold, -, idle⟩ := h
  simp [State.takes, running, hold, idle]

/-- In a READY unit an order command answers with what the owner says at the take; the event is then closed. -/
theorem answers_of_owner {i : Instr} {p : Post} {o : Order} {f : Perform} {s t : State} {x : Answer}
    {effect : State → Prop} (command : exec i s = .next (orderCommand p o f s)) (ready : s.ready p)
    (owner : f (atTake p.slot (postSlot p o s)) = (t, some x)) (pos : t.ord.takePos = p.slot)
    (h : effect (settle (postSlot p o s) (answerSlot p.slot (notifySet p.notify) p.tag x t))) :
    Answers i p s x effect := by
  have takes := ready.takes
  obtain ⟨-, -, unlocked, -⟩ := ready
  refine ⟨_, command, ?_⟩
  rw [orderCommand_taken _ _ _ _ takes, carryOut_answered (s := postSlot p o s) (h := unlocked) (hf := owner)]
  exact ⟨settle_answerSlot_answered p x (postSlot p o s) t pos, h⟩

/-- An answer and the closing of its event write the slot, the zone rows and the board rows, so no panel row. -/
theorem settle_answerSlot_panelCount (k : Fin 24) (n : Bool) (g : Half) (x : Answer) (old s : State) (q : Fin 40) :
    (settle old (answerSlot k n g x s)).win.counts[(Row.panel q).index] = s.win.counts[(Row.panel q).index] :=
  ((touches_settle old _).1 _ (by simp [zoneRows, boardRows])).trans ((touches_answerSlot k n g x s).1 _ (by simp))

@[simp] theorem atTake_loop (k : Fin 24) (s : State) : (atTake k s).loop = s.loop := rfl

@[simp] theorem atTake_win (k : Fin 24) (s : State) : (atTake k s).win = s.win := rfl

theorem postSlot_count (p : Post) (o : Order) (s : State) (r : Row) :
    (postSlot p o s).win.counts[r.index] = s.win.counts[r.index] :=
  (touches_postSlot p o s).1 r (by simp)

/-! ### Panels changed, their rows rewritten -/

theorem upd_getElem {α : Type} {n : Nat} (v : Vector α n) (i j : Fin n) (g : α → α) :
    (upd v i g)[j] = if j = i then g v[j] else v[j] := by
  by_cases h : j = i
  · subst h; simp [upd]
  · have : i.val ≠ j.val := fun e => h (Fin.ext e.symm)
    simp [upd, Vector.getElem_set_ne, h, this]

/-- A panel is changed and its row rewritten. -/
def rewritePanel (f : Panel → Panel) (p : Fin 40) (s : State) : State := writeRow (.panel p) (updPanel p f s)

section Rewriting

variable (f : Panel → Panel) (p q : Fin 40) (s : State)

theorem rewritePanel_panel : (rewritePanel f p s).loop.panels[q] = if q = p then f s.loop.panels[q] else s.loop.panels[q] :=
  upd_getElem ..

theorem rewritePanel_count : (rewritePanel f p s).win.counts[(Row.panel q).index]
    = if q = p then s.win.counts[(Row.panel q).index] + 2 else s.win.counts[(Row.panel q).index] := by
  split
  · next h => subst h; exact writeRow_count ..
  · next h => exact (touches_writeRow (.panel p) (updPanel p f s)).1 (.panel q) (by simpa using h)

/-- A list without repetition rewrites each of its panels once, and no other. -/
theorem each_rewritePanel {l : List (Fin 40)} (once : l.Nodup) :
    (each l (rewritePanel f) s).loop.panels[q] = (if q ∈ l then f s.loop.panels[q] else s.loop.panels[q])
      ∧ (each l (rewritePanel f) s).win.counts[(Row.panel q).index]
        = if q ∈ l then s.win.counts[(Row.panel q).index] + 2 else s.win.counts[(Row.panel q).index] := by
  induction l generalizing s with
  | nil => simp [each]
  | cons p ps ih =>
    obtain ⟨fresh, rest⟩ := List.nodup_cons.1 once
    obtain ⟨panel, count⟩ := ih (rewritePanel f p s) rest
    rw [rewritePanel_panel] at panel
    rw [rewritePanel_count] at count
    by_cases h : q = p
    · subst h; simpa [each, fresh] using And.intro panel count
    · simpa [each, h] using And.intro panel count

/-- A rewriting of panels leaves the poll in progress, the rotation and the loop timing. -/
theorem each_rewritePanel_loop (l : List (Fin 40)) :
    (each l (rewritePanel f) s).loop = { s.loop with panels := (each l (rewritePanel f) s).loop.panels } := by
  induction l generalizing s with
  | nil => rfl
  | cons p ps ih => exact ih (rewritePanel f p s)

end Rewriting

/-! ### RESET PANEL COUNTERS (R52) -/

theorem index?_of_lt {n v : Nat} (h : n < v) : index? n v = none := by simp [index?]; omega

theorem index?_of_le {n v : Nat} (pos : v ≠ 0) (le : v ≤ n) : ∃ i, index? n v = some i ∧ num i = v :=
  ⟨⟨v - 1, by omega⟩, dif_pos (by omega), by simp [num]; omega⟩

theorem namedPanels_none {b : Byte} (h : 40 < b.toNat) : namedPanels b = none := by
  have notAll : ¬ b = 0 := by rintro rfl; simp at h
  rw [namedPanels, if_neg notAll, index?_of_lt h]
  rfl

/-- A panel byte up to 40 names the panels it numbers, each once, or every panel. -/
theorem namedPanels_some {b : Byte} (h : b.toNat ≤ 40) : ∃ l, namedPanels b = some l ∧ l.Nodup
    ∧ l.length = (if b = 0 then 40 else 1) ∧ ∀ q, q ∈ l ↔ b = 0 ∨ b.toNat = num q := by
  by_cases all : b = 0
  · exact ⟨List.finRange 40, by simp [namedPanels, all], List.nodup_finRange 40, by simp [all], by simp [all]⟩
  · obtain ⟨p, found, number⟩ := index?_of_le (by simpa [← BitVec.toNat_inj] using all) h
    refine ⟨[p], by rw [namedPanels, if_neg all, found]; rfl, List.nodup_singleton p, (if_neg all).symm, fun q => ?_⟩
    rw [List.mem_singleton, or_iff_right all, ← number, Fin.ext_iff, num, num]
    omega

/-- The four counters at 0. -/
def Panel.cleared (v : Panel) : Panel := { v with answered := 0, failed := 0, mismatches := 0, eventsLost := 0 }

theorem resetPanelCounters_refused {b : Byte} (h : namedPanels b = none) (s : State) :
    resetPanelCounters b s = (s, some (refuse 1 0 [])) := by simp [resetPanelCounters, h, resRange]

/-- RESET PANEL COUNTERS of panels that exist clears the counters of each, rewrites its row and changes nothing else of
the call loop. -/
theorem resetPanelCounters_done {b : Byte} (h : b.toNat ≤ 40) (s : State) :
    ∃ t, resetPanelCounters b s = (t, some (done (if b = 0 then 40 else 1) [])) ∧ t.ord = s.ord
      ∧ (∀ q : Fin 40, t.loop.panels[q] = if b = 0 ∨ b.toNat = num q then s.loop.panels[q].cleared else s.loop.panels[q])
      ∧ (∀ q : Fin 40, t.win.counts[(Row.panel q).index] = if b = 0 ∨ b.toNat = num q then
          s.win.counts[(Row.panel q).index] + 2 else s.win.counts[(Row.panel q).index])
      ∧ t.loop = { s.loop with panels := t.loop.panels } := by
  obtain ⟨l, names, once, length, named⟩ := namedPanels_some h
  have rewritten (q : Fin 40) := each_rewritePanel Panel.cleared q s once
  simp only [named] at rewritten
  refine ⟨{ s with loop := (each l (rewritePanel Panel.cleared) s).loop, win := (each l (rewritePanel Panel.cleared) s).win },
    ?_, rfl, fun q => (rewritten q).1, fun q => (rewritten q).2, each_rewritePanel_loop Panel.cleared s l⟩
  rw [← length, resetPanelCounters, names]
  rfl

/-- Settles O33: the owner rewrites the panels named, each once; the post before it and the answer and the closing of the
event after it touch no panel and no panel row. -/
theorem resetPanelCountersClearsFourCounters : Obligations.ResetPanelCountersClearsFourCounters := by
  unfold Obligations.ResetPanelCountersClearsFourCounters
  intro p b s ready
  refine ⟨fun high => ?_, fun low => ?_⟩
  · refine answers_of_owner rfl ready (resetPanelCounters_refused (namedPanels_none high) _) rfl ?_
    simp only [settle_loop, answerSlot_loop, atTake_loop, postSlot_loop]
  · obtain ⟨t, owner, ord, panels, counts, loop⟩ :=
      resetPanelCounters_done low (atTake p.slot (postSlot p (.resetPanelCounters b) s))
    simp only [atTake_loop, atTake_win, postSlot_loop, postSlot_count] at panels counts loop
    refine answers_of_owner rfl ready owner (congrArg OrderUnit.takePos ord) ?_
    simp only [settle_loop, answerSlot_loop, settle_answerSlot_panelCount]
    exact ⟨panels, counts, by rw [loop], by rw [loop], by rw [loop]⟩

end Sys2Proof.Machine
end

section
/-! Proofs for the family of the shift unit (chapter 8): what an answer leaves of rows and bytes outside its slot, how the
pace list area shows two empty lists, where a crossing is listed, and COLLECT PACE NOTICES settled from them. -/

namespace Sys2Proof.Machine

/-! ### Rows and bytes that an answer leaves -/

/-- An answer and the closing of its event move no change count but those of the zone rows and board rows. -/
theorem settle_answerSlot_count (k : Fin 24) (n : Bool) (g : Half) (x : Answer) (old s : State) {r : Row}
    (h : r ∉ zoneRows ++ boardRows) :
    (settle old (answerSlot k n g x s)).win.counts[r.index] = s.win.counts[r.index] :=
  ((touches_settle old _).1 r h).trans ((touches_answerSlot k n g x s).1 r (by simp))

/-- An answer and the closing of its event leave every byte from the shift tally on. -/
theorem settle_answerSlot_readByte (k : Fin 24) (n : Bool) (g : Half) (x : Answer) (old s : State) {a : Nat} (h : 0x1980 ≤ a) :
    (settle old (answerSlot k n g x s)).readByte a = s.readByte a := by
  refine (settle_readByte _ _ a (.inr h)).trans ((touches_answerSlot k n g x s).2.1 a ?_)
  simp [outside, slotRange, slotBase]; omega

/-! ### The pace list area (section 1.9) -/

/-- A writing of the pace list area stores the bytes of the two lists after the change count (R6). -/
theorem writeRow_paceLists_readByte (s : State) (a : Nat) (low : 2 ≤ a) (high : a < 32) :
    (writeRow .paceLists s).readByte (0x1A80 + a) = byteAt (padTo 30 (layoutFrom 32 2 (paceListFields s))) (a - 2) := by
  obtain ⟨i, rfl⟩ := Nat.exists_eq_add_of_le' low
  let count := s.win.counts[Row.paceLists.index] + 2
  calc (writeRow .paceLists s).readByte (0x1A80 + (i + 2))
      = byteAt (padTo 32 (halfBytes count ++ layoutFrom 32 2 (paceListFields s))) (i + 2) :=
        Memory.read_write_inside s.win.mem 0x1A80 (i + 2) _ (by simpa [Row.size] using high)
    _ = _ := by simp [byteAt, padTo, halfBytes]

/-- Two empty lists show as zeros. -/
theorem paceListFields_empty {s : State} (behind : s.shift.behindList = []) (recovered : s.shift.recovered = []) :
    paceListFields s = [(2, 1, 0), (3, 1, 0)] := by
  simp [paceListFields, behind, recovered]

theorem byteAt_replicate_zero (n i : Nat) : byteAt (List.replicate n 0) i = 0 := by
  rw [byteAt, List.getD_eq_getElem?_getD, List.getElem?_replicate]
  split <;> rfl

theorem writeRow_paceLists_empty {s : State} (behind : s.shift.behindList = []) (recovered : s.shift.recovered = [])
    (a : Nat) (low : 2 ≤ a) (high : a < 32) : (writeRow .paceLists s).readByte (0x1A80 + a) = 0 := by
  have zeros : padTo 30 (layoutFrom 32 2 [(2, 1, 0), (3, 1, 0)]) = List.replicate 30 0 := by decide
  rw [writeRow_paceLists_readByte s a low high, paceListFields_empty behind recovered, zeros, byteAt_replicate_zero]

/-! ### Crossings and their collection (R133, R134) -/

@[simp] theorem updShift_shift (f : Shift → Shift) (s : State) : (updShift f s).shift = f s.shift := rfl

@[simp] theorem atTake_shift (k : Fin 24) (s : State) : (atTake k s).shift = s.shift := rfl

/-- A crossing to BEHIND puts the zone at the tail of the BEHIND list. -/
theorem crossPace_behindList (closed : Bool) (z : Fin 8) (s : State) :
    (crossPace true closed z s).shift.behindList = s.shift.behindList.filter (· != z) ++ [z] := by
  simp [crossPace]

/-- A crossing back puts the zone, with its reason, at the tail of the RECOVERED list. -/
theorem crossPace_recovered (closed : Bool) (z : Fin 8) (s : State) :
    (crossPace false closed z s).shift.recovered = s.shift.recovered.filter (fun e => e.1 != z) ++ [(z, closed)] := by
  simp [crossPace]

/-- Both notice lists emptied. -/
def noticesCollected (s : State) : State := updShift (fun v => { v with behindList := [], recovered := [] }) s

/-- What COLLECT PACE NOTICES answers: the lengths, and the zones of both lists in their order. -/
def noticesAnswer (v : Shift) : Answer :=
  { code := 0, detail := v.behindList.length + 256 * v.recovered.length,
    params := some (v.behindList.map (fun z => BitVec.ofNat 8 (z.val + 1))
      ++ v.recovered.map fun e => BitVec.ofNat 8 (e.1.val + 1 + if e.2 then 16 else 0)) }

theorem collectPaceNotices_eq (s : State) :
    collectPaceNotices s = (writeRow .paceLists (noticesCollected s), some (noticesAnswer s.shift)) := rfl

/-- An answer and the closing of its event leave the shift unit, so the order changes the two lists alone. -/
theorem settle_noticesCollected_shift (k : Fin 24) (n : Bool) (g : Half) (x : Answer) (old s : State) :
    (settle old (answerSlot k n g x (writeRow .paceLists (noticesCollected s)))).shift
      = { s.shift with behindList := [], recovered := [] } := by
  simp [noticesCollected]

/-- Settles O39: the owner empties the lists and rewrites their area; the post before it and the answer and the closing of
the event after it touch neither, so a later crossing finds its list empty. -/
theorem collectPaceNoticesEmptiesTheLists : Obligations.CollectPaceNoticesEmptiesTheLists := by
  unfold Obligations.CollectPaceNoticesEmptiesTheLists
  intro p s ready
  refine answers_of_owner rfl ready (collectPaceNotices_eq _) rfl ⟨?_, ?_, fun a low high => ?_, fun z => ⟨?_, fun b => ?_⟩⟩
  · rw [settle_noticesCollected_shift, atTake_shift, postSlot_shift]
  · rw [settle_answerSlot_count (h := by simp [zoneRows, boardRows]), writeRow_count]
    exact congrArg (· + 2) (postSlot_count p .collectPaceNotices s .paceLists)
  · rw [settle_answerSlot_readByte (h := by omega)]
    exact writeRow_paceLists_empty (by simp [noticesCollected]) (by simp [noticesCollected]) a low high
  · rw [crossPace_behindList, settle_noticesCollected_shift]
    rfl
  · rw [crossPace_recovered, settle_noticesCollected_shift]
    rfl

end Sys2Proof.Machine
end

section
/-! Proofs for the step function, the register window and the two shapes an order command has (chapter 1). -/

namespace Sys2Proof.Machine

/-! ### The step and the reset state -/

/-- Settles O1: the front command is run by definition. -/
theorem stepRunsTheFrontCommand : Obligations.StepRunsTheFrontCommand := by
  intro c rest s front
  simp only [step, front]

/-- Settles O2: an idle step is a tick. -/
theorem emptyQueueLetsTimePass : Obligations.EmptyQueueLetsTimePass := by
  intro s idle
  exact ⟨tick s, by simp only [step, idle], rfl⟩

/-- Settles O3, field by field of the one reset state. -/
theorem resetStateReadsAsTheManualSays : Obligations.ResetStateReadsAsTheManualSays := by
  refine ⟨by decide, by decide, by decide, fun a => rfl, rfl, rfl, rfl, rfl, rfl, rfl, rfl, rfl, fun z => ?_⟩
  simp [State.reset, Setup.initial]

/-- Settles O4: of the reset state's blocks, the memory is empty, no cause is pending, no demand set and no list holds an
entry, and the journal counts are 0 and 1. -/
theorem invariantsHoldAtReset : Obligations.InvariantsHoldAtReset := by
  refine ⟨Memory.wf_reset, ?_, fun d => ?_, ⟨by decide, rfl⟩, List.nodup_nil⟩
  · simp [State.lineFollows, State.reset, Interrupts.initial]
  · simp [State.drive, State.reset, DriveUnit.initial, Drive.initial]

/-- Settles O10: the arms that may stop ask for exactly what `Instr.wellFormed` asks; every other arm answers a next state. -/
theorem commandsStopOnlyOutsideTheirRow : Obligations.CommandsStopOnlyOutsideTheirRow := by
  refine ⟨fun i s ok => ?_, fun w s h => ?_, fun w s h => ?_, fun o w s h => ?_, fun d x s => rfl, fun w l s h => ?_,
    fun k l s h => ?_, fun l s h => ?_⟩
  · cases i
    case partReset w => exact ⟨_, if_pos ok⟩
    case orderHold w => exact ⟨_, if_neg (by simpa [Instr.wellFormed] using ok)⟩
    case attention w l => exact ⟨_, if_pos ok⟩
    case registerWriteIgnored o w => exact ⟨_, if_pos ok⟩
    case orderScan k l => exact ⟨_, if_pos ok⟩
    case advance d n x => exact ⟨_, if_neg (by simpa [Instr.wellFormed] using ok)⟩
    case takeCountRead l => exact ⟨_, if_pos ok⟩
    all_goals exact ⟨_, rfl⟩
  all_goals simp [exec, execPartReset, execOrderHold, execRegisterWriteIgnored, execAttention, execOrderScan,
    execTakeCountRead, h]

/-! ### The register window (section 1.1) -/

@[simp] theorem orderScan_running (s : State) (run : s.part = .running) (open_ : s.ord.hold = false)
    (scan : s.ord.scanning = true) : orderScan s = endScan (each (scanOrder s.ord.takePos) visitSlot s) := by
  simp [orderScan, run, open_, scan]

theorem exec_attention (w : RegWrite) {l : List Host.Cell} (s : State) (inside : insideWindow l = true) :
    exec (.attention w l) s = .next (attention (hostWrites l s)) := if_pos inside

theorem exec_orderScan (k : KeyReading) {l : List Host.Cell} (s : State) (inside : insideWindow l = true) :
    exec (.orderScan k l) s = .next (orderScan (hostWrites l { s with pins := { s.pins with key := k } })) := if_pos inside

theorem attention_discarded {s : State} (h : s.part = .starting ∨ s.ord.hold = true) : attention s = s := if_pos h

theorem attention_marks {s : State} (run : s.part = .running) (open_ : s.ord.hold = false) (scan : s.ord.scanning = true) :
    attention s = { s with ord := { s.ord with further := true } } := by
  simp [attention, run, open_, scan]

theorem attention_begins {s : State} (run : s.part = .running) (open_ : s.ord.hold = false) (scan : s.ord.scanning = false) :
    attention s = beginScan s := by
  simp [attention, run, open_, scan]

theorem setHold_same {s : State} {b : Bool} (h : b = s.ord.hold) : setHold b s = s := if_pos h

theorem setHold_on {s : State} (off : s.ord.hold = false) :
    setHold true s = { s with ord := { s.ord with
      hold := true, scanning := false, further := false,
      scanDue := if s.ord.scanning then some (s.ms + 50) else s.ord.scanDue } } := by
  cases scan : s.ord.scanning <;> simp [setHold, startScanTimer, off, scan, Config.scanPeriodMs]

theorem setHold_off_starting {s : State} (on : s.ord.hold = true) (starting : s.part = .starting) :
    setHold false s = { s with ord := { s.ord with hold := false } } := by
  simp [setHold, on, starting]

theorem setHold_off_running {s : State} (on : s.ord.hold = true) (run : s.part = .running) :
    setHold false s = { s with ord := { s.ord with hold := false, scanning := true, scanDue := some (s.ms + 50) } } := by
  simp [setHold, on, run, beginScan, startScanTimer, Config.scanPeriodMs]

theorem exec_orderHold {w : RegWrite} (s : State) (h : w.partResetBit = false) :
    exec (.orderHold w) s = .next (setHold w.orderHoldBit s) := by
  simp [exec, execOrderHold, h]

/-- PART CONTROL's number: the part state, the unit's state and the hold as its low bits, the long orders from bit 8 on. -/
theorem partControl_fields (p l h : Bool) (n : Nat) (few : n ≤ 24) :
    let v := BitVec.ofNat 32 (bit p + 2 * bit l + 4 * bit h + 256 * n)
    v.getLsbD 0 = p ∧ v.getLsbD 1 = l ∧ v.getLsbD 2 = h ∧ (v.extractLsb' 8 5).toNat = n := by
  interval_cases n <;> revert p l h <;> decide

theorem partState_code (p : PartState) : p.code = bit (decide (p = .running)) := by cases p <;> rfl

/-- Offsets 0x14 to 0x1F are no register's (section 1.1). -/
theorem readRegister_unassigned (s : State) {o : Nat} (low : 0x14 ≤ o) (_high : o ≤ 0x1F) : s.readRegister o = 0 := by
  unfold State.readRegister
  split
  case h_5 => rfl
  all_goals omega

/-- Settles O14: PART CONTROL field by field, and the hold by the value written and the value held. -/
theorem partControlAndUnassignedOffsets : Obligations.PartControlAndUnassignedOffsets := by
  refine ⟨⟨fun s few => ?_, fun w s h => ⟨_, exec_orderHold s h, setHold_same, fun on off => ?_, fun off on starting => ?_,
    fun off on run => ?_⟩⟩, fun o w s low high => ⟨readRegister_unassigned s low high, if_pos (by simp [ignoredOffset]; omega)⟩⟩
  · obtain ⟨part, locked, hold, work⟩ := partControl_fields (decide (s.part = .running)) s.ord.locked s.ord.hold _ few
    simp only [State.readRegister, State.partControl, partState_code]
    exact ⟨part, locked, hold, work⟩
  · rw [show w.orderHoldBit = true from on, setHold_on off]
  · rw [show w.orderHoldBit = false from off, setHold_off_starting on starting]
  · rw [show w.orderHoldBit = false from off, setHold_off_running on run]

/-- Settles O15: the power-on reset builds its state from the reset state, whose memory lists no byte. -/
theorem powerOnResetClearsThePart : Obligations.PowerOnResetClearsThePart := fun s => ⟨powerOn s, rfl, rfl, fun _ => rfl⟩

/-! ### Orders as bytes (sections 1.7 and 1.9) -/

theorem byteAt_append_left {a : List Byte} {i : Nat} (b : List Byte) (h : i < a.length) : byteAt (a ++ b) i = byteAt a i := by
  simp [byteAt, List.getD_eq_getElem?_getD, List.getElem?_append_left h]

theorem byteAt_append_right (a b : List Byte) (i : Nat) : byteAt (a ++ b) (a.length + i) = byteAt b i := by
  simp [byteAt, List.getD_eq_getElem?_getD, List.getElem?_append_right]

/-- Byte `j` of piece `k` of pieces of `w` bytes each. -/
theorem byteAt_pieces {α : Type} {f : α → List Byte} {w j : Nat} (size : ∀ x, (f x).length = w) (l : List α) (rest : List Byte)
    (k : Nat) (hk : k < l.length) (hj : j < w) :
    byteAt ((l.map f).flatten ++ rest) (w * k + j) = byteAt (f l[k]) j := by
  induction l generalizing k with
  | nil => simp at hk
  | cons x xs ih =>
    cases k with
    | zero => simpa using byteAt_append_left _ (by simpa [size] using hj)
    | succ k =>
      have shift : w * (k + 1) + j = (f x).length + (w * k + j) := by simp [size]; ring
      simpa [shift, byteAt_append_right] using ih k (by simpa using hk)

/-- A field is its bytes put together again. -/
theorem half_join (h : Half) : h.extractLsb' 8 8 ++ h.extractLsb' 0 8 = h := by
  ext i hi
  simp
  grind

theorem word_join (w : Word) :
    w.extractLsb' 24 8 ++ (w.extractLsb' 16 8 ++ (w.extractLsb' 8 8 ++ w.extractLsb' 0 8)) = w := by
  ext i hi
  simp
  grind

theorem DriveParams.ofBytes_bytes (q : DriveParams) (rest : List Byte) : DriveParams.ofBytes (q.bytes ++ rest) = q := by
  simp [DriveParams.ofBytes, DriveParams.bytes, byteAt, halfAt, halfBytes, half_join]

theorem ZoneParams.ofBytes_bytes (q : ZoneParams) (rest : List Byte) : ZoneParams.ofBytes (q.bytes ++ rest) = q := rfl

theorem BindParams.ofBytes_bytes (q : BindParams) (rest : List Byte) : BindParams.ofBytes (q.bytes ++ rest) = q := rfl

theorem GroupParams.ofBytes_bytes (q : GroupParams) (rest : List Byte) : GroupParams.ofBytes (q.bytes ++ rest) = q := by
  simp [GroupParams.ofBytes, GroupParams.bytes, LevelParams.ofBytes, LevelParams.bytes, byteAt, halfAt, halfBytes, half_join]

theorem TextParams.ofBytes_bytes (q : TextParams) (rest : List Byte) : TextParams.ofBytes (q.bytes ++ rest) = q := by
  have chars : (Vector.ofFn fun i : Fin 16 => byteAt (q.bytes ++ rest) (1 + i.val)) = q.chars := by
    ext i hi
    simp [TextParams.bytes, byteAt, Nat.add_comm 1, List.getElem?_append]
  rw [TextParams.ofBytes, chars]
  rfl

theorem BoardParams.ofBytes_bytes (q : BoardParams) (rest : List Byte) : BoardParams.ofBytes (q.bytes ++ rest) = q := rfl

/-- A piece is read at any offset at which its BoardParams.bytes stand. -/
theorem BreakSpan.ofBytes_eq {b : List Byte} {i : Nat} {x : BreakSpan} (h : ∀ j < 4, byteAt b (i + j) = byteAt x.bytes j) :
    BreakSpan.ofBytes b i = x := by
  have h0 := h 0; have h1 := h 1; have h2 := h 2; have h3 := h 3
  simp_all [BreakSpan.ofBytes, BreakSpan.bytes, halfAt, halfBytes, byteAt, half_join, Nat.add_assoc]

theorem FieldBytes.ofBytes_eq {b : List Byte} {i : Nat} {x : FieldBytes} (h : ∀ j < 8, byteAt b (i + j) = byteAt x.bytes j) :
    FieldBytes.ofBytes b i = x := by
  have h0 := h 0; have h1 := h 1; have h2 := h 2; have h3 := h 3; have h4 := h 4; have h5 := h 5; have h6 := h 6
  have h7 := h 7
  simp_all [FieldBytes.ofBytes, FieldBytes.bytes, byteAt]

/-- The bytes of a plan block before its breaks. -/
def planHead (q : PlanBlock) : List Byte :=
  [q.name, q.mode, q.count, q.behind] ++ wordBytes q.start ++ halfBytes q.length ++ halfBytes q.takt
    ++ halfBytes q.target ++ halfBytes q.overtime ++ [q.recovery, 0]

theorem PlanBlock.bytes_eq (q : PlanBlock) :
    q.bytes = planHead q ++ ((q.breaks.toList.map BreakSpan.bytes).flatten ++ [0, 0]) := by
  simp [PlanBlock.bytes, planHead]

theorem PlanBlock.ofBytes_bytes (q : PlanBlock) (front rest : List Byte) :
    PlanBlock.ofBytes (front ++ q.bytes ++ rest) front.length = q := by
  have breaks : (Vector.ofFn fun k : Fin 6 =>
      BreakSpan.ofBytes (front ++ q.bytes ++ rest) (front.length + 18 + 4 * k.val)) = q.breaks := by
    ext1 k hk
    rw [Vector.getElem_ofFn]
    refine BreakSpan.ofBytes_eq fun j hj => ?_
    have start : front.length + 18 + 4 * k + j = (front ++ planHead q).length + (4 * k + j) := by
      simp [planHead, wordBytes, halfBytes]; omega
    rw [start, PlanBlock.bytes_eq, ← List.append_assoc, List.append_assoc (front ++ planHead q), byteAt_append_right,
      List.append_assoc, byteAt_pieces (f := BreakSpan.bytes) (w := 4) (fun _ => rfl) _ _ _ (by simpa using hk) hj]
    simp
  have head (j : Nat) (hj : j < 18) : byteAt (front ++ q.bytes ++ rest) (front.length + j) = byteAt (planHead q) j := by
    rw [List.append_assoc, byteAt_append_right, PlanBlock.bytes_eq, List.append_assoc, byteAt_append_left]
    simpa [planHead, wordBytes, halfBytes] using hj
  have head0 : byteAt (front ++ q.bytes ++ rest) front.length = byteAt (planHead q) 0 := head 0 (by decide)
  rw [PlanBlock.ofBytes, breaks]
  generalize front ++ q.bytes ++ rest = b at head head0
  simp only [wordAt, halfAt, Nat.add_assoc, Nat.reduceAdd, head, head0, Nat.reduceLT]
  simp only [planHead, byteAt, wordBytes, halfBytes, List.cons_append, List.nil_append, List.getD_cons_succ,
    List.getD_cons_zero, half_join]
  exact congrArg (fun w => { q with start := w }) (word_join q.start)

theorem FieldsParams.ofBytes_bytes (q : FieldsParams) (rest : List Byte) : FieldsParams.ofBytes (q.bytes ++ rest) = q := by
  have entries : (Vector.ofFn fun k : Fin 5 => FieldBytes.ofBytes (q.bytes ++ rest) (3 + 8 * k.val)) = q.entries := by
    ext1 k hk
    rw [Vector.getElem_ofFn]
    refine FieldBytes.ofBytes_eq fun j hj => ?_
    have shape : q.bytes ++ rest
        = [q.board, q.first, q.count] ++ ((q.entries.toList.map FieldBytes.bytes).flatten ++ rest) := rfl
    rw [shape, show 3 + 8 * k + j = [q.board, q.first, q.count].length + (8 * k + j) from Nat.add_assoc .., byteAt_append_right,
      byteAt_pieces (f := FieldBytes.bytes) (w := 8) (fun _ => rfl) _ _ _ (by simpa using hk) hj]
    simp
  rw [FieldsParams.ofBytes, entries]
  rfl

/-- Settles O18: each kind of parameter area reads back by its own lemma, the remaining ones are single fields. -/
theorem ordersDecodeFromTheBytesTheyPost : Obligations.OrdersDecodeFromTheBytesTheyPost := by
  refine fun o rest => ⟨?_, o.params_length_le⟩
  cases o
  case defineDrive q => exact congrArg (fun x => some (Order.defineDrive x)) (DriveParams.ofBytes_bytes q rest)
  case defineGroup q => exact congrArg (fun x => some (Order.defineGroup x)) (GroupParams.ofBytes_bytes q rest)
  case defineText q => exact congrArg (fun x => some (Order.defineText x)) (TextParams.ofBytes_bytes q rest)
  case defineBoardFields q => exact congrArg (fun x => some (Order.defineBoardFields x)) (FieldsParams.ofBytes_bytes q rest)
  case defineShiftPlan q => exact congrArg (fun x => some (Order.defineShiftPlan x)) (PlanBlock.ofBytes_bytes q [] rest)
  case savePlan x q => exact congrArg (fun y => some (Order.savePlan x y)) (PlanBlock.ofBytes_bytes q [x, 0, 0, 0] rest)
  case setClock w h =>
    simpa [parseOrder, Order.code, Order.params, wordBytes, wordAt, halfBytes, halfAt, byteAt, half_join] using word_join w
  case setJournalNotice t a =>
    simp [parseOrder, Order.code, Order.params, halfBytes, halfAt, byteAt, half_join]
  all_goals rfl

/-! ### The two shapes of an order command (sections 1.3 and 1.4) -/

/-- An order command posts its order and hands it to the owner that a scan would hand it to. -/
theorem exec_postedOrder {i : Instr} {p : Post} {o : Order} (s : State) (h : postedOrder i = some (p, o)) :
    exec i s = .next (orderCommand p o (o.perform p.slot) s) := by
  cases i <;> simp only [postedOrder, Option.some.injEq, Prod.mk.injEq, reduceCtorEq] at h <;>
    (obtain ⟨rfl, rfl⟩ := h; rfl)

theorem Memory.readRun_append (mem : List Host.Cell) (a m n : Nat) :
    Memory.readRun mem a (m + n) = Memory.readRun mem a m ++ Memory.readRun mem (a + m) n := by
  simp [Memory.readRun, List.range_add, Function.comp_def, Nat.add_assoc]

/-- The bytes that a post leaves in its slot: the kind and notify flag, the tag, the parameters and POSTED (section 1.3). -/
theorem postSlot_state (p : Post) (o : Order) (s : State) : (postSlot p o s).slotState p.slot = 1 :=
  Memory.read_write_inside _ _ 0 [1] (by decide)

theorem postSlot_kind (p : Post) (o : Order) (s : State) : (postSlot p o s).slotKind p.slot = o.code := by
  simp only [State.slotKind, State.readByte, postSlot, writeBytes, Memory.read_write, byteAt]
  simp

theorem postSlot_notify (p : Post) (o : Order) (s : State) : (postSlot p o s).slotNotify p.slot = notifySet p.notify := by
  simp only [State.slotNotify, State.readByte, postSlot, writeBytes, Memory.read_write, byteAt]
  simp [halfBytes_length]

theorem postSlot_tag (p : Post) (o : Order) (s : State) : (postSlot p o s).slotTag p.slot = p.tag := by
  have run : (postSlot p o s).readRun (slotBase p.slot + 4) 2 = halfBytes p.tag := by
    refine (Memory.readRun_write_outside _ _ _ _ _ (.inr (by simp))).trans ?_
    refine (Memory.readRun_write_outside _ _ _ _ _ (.inl (by omega))).trans ?_
    exact Memory.readRun_write_same _ _ (halfBytes p.tag)
  simp only [State.slotTag, run, halfBytes, halfAt, byteAt]
  exact half_join p.tag

/-- The parameter area begins with the order's bytes; what stood behind them follows. -/
theorem postSlot_params (p : Post) (o : Order) (s : State) : ∃ rest, (postSlot p o s).slotParams p.slot = o.params ++ rest := by
  obtain ⟨n, split⟩ : ∃ n, 48 = o.params.length + n := ⟨48 - o.params.length, by have := o.params_length_le; omega⟩
  refine ⟨Memory.readRun (postSlot p o s).win.mem (slotBase p.slot + 16 + o.params.length) n, ?_⟩
  rw [State.slotParams, State.readRun, split, Memory.readRun_append]
  congr 1
  exact (Memory.readRun_write_outside _ _ _ _ _ (.inr (by simp))).trans (Memory.readRun_write_same _ _ _)

/-- A scan reads the order back from the slot it was posted in (R9). -/
theorem postSlot_parse (p : Post) (o : Order) (s : State) :
    parseOrder ((postSlot p o s).slotKind p.slot) ((postSlot p o s).slotParams p.slot) = some o := by
  obtain ⟨rest, params⟩ := postSlot_params p o s
  rw [postSlot_kind, params]
  exact (ordersDecodeFromTheBytesTheyPost o rest).1

/-- Settles O19: both are the take of the order with the notify flag and the tag posted. -/
theorem orderCommandsAreTakesOfPostedSlots : Obligations.OrderCommandsAreTakesOfPostedSlots := by
  intro i p o s posted taken
  have idle : (postSlot p o s).slotInWork p.slot = false := by
    have : s.slotInWork p.slot = false := by simp_all [State.takes]
    exact this
  rw [exec_postedOrder s posted, orderCommand_taken _ _ _ _ taken,
    visitSlot_posted idle (postSlot_state p o s) (postSlot_parse p o s), postSlot_notify, postSlot_tag]

/-- Settles O20: an order command that may not be taken is its post. -/
theorem untakenOrdersStayPosted : Obligations.UntakenOrdersStayPosted := by
  intro i p o s posted closed
  have untaken : s.takes p.slot = false := by rcases closed with h | h <;> simp [State.takes, h]
  refine ⟨postSlot p o s, (exec_postedOrder s posted).trans (by rw [orderCommand_posted _ _ _ _ untaken]),
    postSlot_state p o s, postSlot_tag p o s, postSlot_notify p o s, postSlot_parse p o s, ?_⟩
  exact bounds_of_touches (fun b h => by cases b <;> simp_all [Block.same, serviceOf]) (touches_postSlot p o s) rfl

end Sys2Proof.Machine
end

section
/-! Proofs for what every command leaves and keeps: the relation `Stays`, which says once of an operation which blocks, rows
and bytes it may change and that it keeps the invariants of every step, with one rule for each operation of the model. The
rules are stated so that a chain of operations is read off its definition: `h.thenLog j`, `h.thenWriteRow r`, … -/

namespace Sys2Proof.Machine

/-! ### The relation -/

/-- Two states agree on all that setup-changing orders define (section 2.2): the definitions, the protection mode, the two
scales, the refresh period, and each board's definition and field entries. -/
structure SameSetup (s t : State) : Prop where
  drives : t.setup.drives = s.setup.drives
  zones : t.setup.zones = s.setup.zones
  bindings : t.setup.bindings = s.setup.bindings
  ladders : t.setup.ladders = s.setup.ladders
  texts : t.setup.texts = s.setup.texts
  keyed : t.setup.keyed = s.setup.keyed
  loopScale : t.loop.scale = s.loop.scale
  linkScale : t.brd.scale = s.brd.scale
  refresh : t.brd.refresh = s.brd.refresh
  boards : ∀ b : Fin 16, (t.brd.boards[b]).definition = (s.brd.boards[b]).definition
    ∧ (t.brd.boards[b]).entries = (s.brd.boards[b]).entries

theorem SameSetup.refl (s : State) : SameSetup s s := ⟨rfl, rfl, rfl, rfl, rfl, rfl, rfl, rfl, rfl, fun _ => ⟨rfl, rfl⟩⟩

theorem SameSetup.trans {s t u : State} (h : SameSetup s t) (k : SameSetup t u) : SameSetup s u where
  drives := k.drives.trans h.drives
  zones := k.zones.trans h.zones
  bindings := k.bindings.trans h.bindings
  ladders := k.ladders.trans h.ladders
  texts := k.texts.trans h.texts
  keyed := k.keyed.trans h.keyed
  loopScale := k.loopScale.trans h.loopScale
  linkScale := k.linkScale.trans h.linkScale
  refresh := k.refresh.trans h.refresh
  boards b := ⟨(k.boards b).1.trans (h.boards b).1, (k.boards b).2.trans (h.boards b).2⟩

/-- A footprint; whether the setup may change, whether the marks of the scan may, and whether an order may be posted. -/
structure Scope extends Footprint where
  setup : Bool := false
  marks : Bool := false
  posts : Bool := false

/-- The slot reads EMPTY, TAKEN or DONE: no visit takes from it (R8). -/
def State.slotIdle (s : State) (m : Fin 24) : Prop := s.slotState m = 0 ∨ s.slotState m = 2 ∨ s.slotState m = 3

/-- Two order units agree on what only the register window and the scan itself change: the hold, the scan in progress with
its further mark, and the scan timer. -/
def SameMarks (s t : State) : Prop :=
  t.ord.hold = s.ord.hold ∧ t.ord.scanning = s.ord.scanning ∧ t.ord.further = s.ord.further ∧ t.ord.scanDue = s.ord.scanDue

theorem SameMarks.of_eq {s t : State} (h : t.ord = s.ord) : SameMarks s t := by simp [SameMarks, h]

theorem SameMarks.trans {s t u : State} (h : SameMarks s t) (k : SameMarks t u) : SameMarks s u := by
  simp_all [SameMarks]

/-- From `s` to `t` nothing has changed but what the scope allows, no pending cause is lost, lockdown stands, and the
invariants of every step are kept. -/
structure Stays (f : Scope) (s t : State) : Prop where
  blocks : ∀ b, b ∉ f.blocks → Block.same s t b
  memory : Touches f.rows f.ranges s t
  queue : t.pending = s.pending
  causes : ∀ c, s.raised c → t.raised c
  line : s.lineFollows → t.lineFollows
  counts : s.journalCounts → t.journalCounts
  stops : s.stopsFollow → t.stopsFollow
  notices : s.noticesOnce → t.noticesOnce
  lockdown : s.setup.lockdown = true → t.setup.lockdown = true
  setup : f.setup = false → SameSetup s t
  marks : f.marks = false → SameMarks s t
  idle : f.posts = false → ∀ m, s.slotIdle m → t.slotIdle m

theorem Block.same_refl (b : Block) (s : State) : Block.same s s b := by
  cases b <;> simp [Block.same, serviceOf]

theorem serviceOf_eq_iff (u v : Setup) : serviceOf u v = v ↔ u.drives = v.drives ∧ u.zones = v.zones
    ∧ u.bindings = v.bindings ∧ u.ladders = v.ladders ∧ u.texts = v.texts ∧ u.keyed = v.keyed ∧ u.lockdown = v.lockdown
    ∧ u.status = v.status ∧ u.startPlace = v.startPlace := by
  cases v
  simp [serviceOf]

theorem Block.same_trans {b : Block} {s t u : State} (h : Block.same s t b) (k : Block.same t u b) :
    Block.same s u b := by
  cases b
  case rendering => exact fun b => ⟨(k b).1.trans (h b).1, (k b).2.trans (h b).2⟩
  all_goals simp_all only [Block.same, serviceOf_eq_iff, and_self]

variable {f : Scope} {s t u : State}

theorem Stays.refl (s : State) : Stays f s s where
  blocks b _ := b.same_refl s
  memory := .refl
  queue := rfl
  causes _ h := h
  line h := h
  counts h := h
  stops h := h
  notices h := h
  lockdown h := h
  setup _ := .refl s
  marks _ := .of_eq rfl
  idle _ _ h := h

theorem Stays.trans (h : Stays f s t) (k : Stays f t u) : Stays f s u where
  blocks b n := Block.same_trans (h.blocks b n) (k.blocks b n)
  memory := h.memory.trans k.memory
  queue := k.queue.trans h.queue
  causes c x := k.causes c (h.causes c x)
  line x := k.line (h.line x)
  counts x := k.counts (h.counts x)
  stops x := k.stops (h.stops x)
  notices x := k.notices (h.notices x)
  lockdown x := k.lockdown (h.lockdown x)
  setup x := (h.setup x).trans (k.setup x)
  marks x := (h.marks x).trans (k.marks x)
  idle x m y := k.idle x m (h.idle x m y)

/-- What stays in a scope keeps to its footprint. -/
theorem Stays.bounds (h : Stays f s t) : f.toFootprint.bounds s t := bounds_of_touches h.blocks h.memory h.queue

/-- One operation for each element of a list. -/
theorem Stays.thenEach {α : Type} {l : List α} {g : α → State → State} (h : Stays f s t)
    (step : ∀ x ∈ l, ∀ u, Stays f s u → Stays f s (g x u)) : Stays f s (each l g t) := by
  induction l generalizing t with
  | nil => exact h
  | cons x xs ih =>
    exact ih (step x (List.mem_cons_self ..) t h) fun y hy => step y (List.mem_cons_of_mem _ hy)

/-! ### Changes of one block -/

theorem SameSetup.of_eq (setup : t.setup = s.setup) (loop : t.loop = s.loop) (brd : t.brd = s.brd) : SameSetup s t := by
  constructor <;> simp [setup, loop, brd]

/-- The blocks that carry no invariant and no setup may change freely. -/
theorem Stays.of_quiet (blocks : ∀ b, b ∉ f.blocks → Block.same s t b) (win : t.win = s.win)
    (queue : t.pending = s.pending) (irq : t.irq = s.irq) (jrn : t.jrn = s.jrn) (drives : t.drv.drives = s.drv.drives)
    (behind : t.shift.behindList = s.shift.behindList) (recovered : t.shift.recovered = s.shift.recovered)
    (lockdown : s.setup.lockdown = true → t.setup.lockdown = true) (setup : f.setup = false → SameSetup s t)
    (marks : SameMarks s t) : Stays f s t where
  blocks := blocks
  memory := .of_win win
  queue := queue
  causes c h := by simpa only [State.raised, irq] using h
  line h := by simpa only [State.lineFollows, irq] using h
  counts h := by simpa only [State.journalCounts, State.unread, jrn] using h
  stops h := by simpa only [State.stopsFollow, State.drive, drives] using h
  notices h := by simpa only [State.noticesOnce, behind, recovered] using h
  lockdown := lockdown
  setup := setup
  marks _ := marks
  idle _ m h := by simpa only [State.slotIdle, State.slotState, State.readByte, win] using h

theorem Stays.thenTime (h : Stays f s t) (m : .time ∈ f.blocks) (x : Nat) : Stays f s { t with ms := x } :=
  h.trans (.of_quiet (fun b n => by cases b <;> simp_all [Block.same, serviceOf]) rfl rfl rfl rfl rfl rfl rfl id
    (fun _ => .of_eq rfl rfl rfl) (.of_eq rfl))

theorem Stays.thenReach (h : Stays f s t) (m : .time ∈ f.blocks) (x : Nat) : Stays f s (t.reach x) := h.thenTime m _

theorem Stays.thenPart (h : Stays f s t) (m : .part ∈ f.blocks) (x : PartState) : Stays f s { t with part := x } :=
  h.trans (.of_quiet (fun b n => by cases b <;> simp_all [Block.same, serviceOf]) rfl rfl rfl rfl rfl rfl rfl id
    (fun _ => .of_eq rfl rfl rfl) (.of_eq rfl))

theorem Stays.thenFeedbackPin (h : Stays f s t) (m : .feedback ∈ f.blocks) (x : Vector Feedback 8) :
    Stays f s { t with pins := { t.pins with feedback := x } } :=
  h.trans (.of_quiet (fun b n => by cases b <;> simp_all [Block.same, serviceOf]) rfl rfl rfl rfl rfl rfl rfl id
    (fun _ => .of_eq rfl rfl rfl) (.of_eq rfl))

theorem Stays.thenOrd (h : Stays f s t) (m : .orders ∈ f.blocks) (x : OrderUnit) (marks : x.hold = t.ord.hold
    ∧ x.scanning = t.ord.scanning ∧ x.further = t.ord.further ∧ x.scanDue = t.ord.scanDue := by exact ⟨rfl, rfl, rfl, rfl⟩) : Stays f s { t with ord := x } :=
  h.trans (.of_quiet (fun b n => by cases b <;> simp_all [Block.same, serviceOf]) rfl rfl rfl rfl rfl rfl rfl id
    (fun _ => .of_eq rfl rfl rfl) marks)

theorem Stays.thenCalls (h : Stays f s t) (m : .calls ∈ f.blocks) (x : CallTable) : Stays f s { t with calls := x } :=
  h.trans (.of_quiet (fun b n => by cases b <;> simp_all [Block.same, serviceOf]) rfl rfl rfl rfl rfl rfl rfl id
    (fun _ => .of_eq rfl rfl rfl) (.of_eq rfl))

theorem Stays.thenAlerts (h : Stays f s t) (m : .alerts ∈ f.blocks) (x : Vector Nat 8) : Stays f s { t with alerts := x } :=
  h.trans (.of_quiet (fun b n => by cases b <;> simp_all [Block.same, serviceOf]) rfl rfl rfl rfl rfl rfl rfl id
    (fun _ => .of_eq rfl rfl rfl) (.of_eq rfl))

theorem Stays.thenLoop (h : Stays f s t) (m : .loop ∈ f.blocks) (x : CallLoop) (scale : f.setup = false → x.scale = t.loop.scale := by exact fun _ => rfl) :
    Stays f s { t with loop := x } :=
  h.trans (.of_quiet (fun b n => by cases b <;> simp_all [Block.same, serviceOf]) rfl rfl rfl rfl rfl rfl rfl id
    (fun k => { SameSetup.refl t with loopScale := scale k }) (.of_eq rfl))

theorem Stays.thenAttr (h : Stays f s t) (m : .attribution ∈ f.blocks) (x : Attribution) : Stays f s { t with attr := x } :=
  h.trans (.of_quiet (fun b n => by cases b <;> simp_all [Block.same, serviceOf]) rfl rfl rfl rfl rfl rfl rfl id
    (fun _ => .of_eq rfl rfl rfl) (.of_eq rfl))

theorem Stays.thenStore (h : Stays f s t) (m : .store ∈ f.blocks) (x : Store) : Stays f s { t with store := x } :=
  h.trans (.of_quiet (fun b n => by cases b <;> simp_all [Block.same, serviceOf]) rfl rfl rfl rfl rfl rfl rfl id
    (fun _ => .of_eq rfl rfl rfl) (.of_eq rfl))

theorem Stays.thenBuffers (h : Stays f s t) (m : .buffers ∈ f.blocks) (x : Vector Buffer 7) :
    Stays f s { t with drv := { t.drv with buffers := x } } :=
  h.trans (.of_quiet (fun b n => by cases b <;> simp_all [Block.same, serviceOf]) rfl rfl rfl rfl rfl rfl rfl id
    (fun _ => .of_eq rfl rfl rfl) (.of_eq rfl))

theorem Stays.thenDisplay (h : Stays f s t) (m : .display ∈ f.blocks) (x : Vector Display 8) :
    Stays f s { t with drv := { t.drv with display := x } } :=
  h.trans (.of_quiet (fun b n => by cases b <;> simp_all [Block.same, serviceOf]) rfl rfl rfl rfl rfl rfl rfl id
    (fun _ => .of_eq rfl rfl rfl) (.of_eq rfl))

/-- The setup unit's zone service. -/
theorem Stays.thenService (h : Stays f s t) (m : .service ∈ f.blocks) (x : Vector Service 8)
    (y : Vector (Option (Fin 24)) 8) (z : Vector Nat 8) :
    Stays f s { t with setup := { t.setup with service := x, drainSlot := y, drainCalls := z } } :=
  h.trans (.of_quiet (fun b n => by cases b <;> simp_all [Block.same, serviceOf]) rfl rfl rfl rfl rfl rfl rfl id
    (fun _ => { SameSetup.refl t with }) (.of_eq rfl))

/-- The setup unit but for zone service; lockdown may be set but not cleared. -/
theorem Stays.thenSetup (h : Stays f s t) (m : .definitions ∈ f.blocks) (opens : f.setup = true) (x : Setup)
    (service : x.service = t.setup.service ∧ x.drainSlot = t.setup.drainSlot ∧ x.drainCalls = t.setup.drainCalls)
    (lockdown : t.setup.lockdown = true → x.lockdown = true) : Stays f s { t with setup := x } :=
  h.trans (.of_quiet (fun b n => by cases b <;> simp_all [Block.same]) rfl rfl rfl rfl rfl rfl rfl lockdown
    (fun k => by simp [opens] at k) (.of_eq rfl))

/-! ### What a scope holds -/

/-- A footprint as the scope of a command: whether it may change the setup, and whether it posts an order. -/
def Footprint.scope (f : Footprint) (setup posts : Bool := false) : Scope := { f with setup := setup, posts := posts }

@[simp] theorem scope_blocks (f : Footprint) (x y : Bool) : (f.scope x y).blocks = f.blocks := rfl
@[simp] theorem scope_rows (f : Footprint) (x y : Bool) : (f.scope x y).rows = f.rows := rfl
@[simp] theorem scope_ranges (f : Footprint) (x y : Bool) : (f.scope x y).ranges = f.ranges := rfl
@[simp] theorem scope_setup (f : Footprint) (x y : Bool) : (f.scope x y).setup = x := rfl
@[simp] theorem scope_marks (f : Footprint) (x y : Bool) : (f.scope x y).marks = false := rfl
@[simp] theorem scope_posts (f : Footprint) (x y : Bool) : (f.scope x y).posts = y := rfl

@[simp] theorem settled_blocks (f : Footprint) : (settled f).blocks = [.display, .rendering] ++ f.blocks := rfl
@[simp] theorem settled_rows (f : Footprint) : (settled f).rows = zoneRows ++ boardRows ++ f.rows := rfl
@[simp] theorem settled_ranges (f : Footprint) : (settled f).ranges = f.ranges := rfl
@[simp] theorem journaling_blocks (f : Footprint) : (journaling f).blocks = [.journal, .interrupts] ++ f.blocks := rfl
@[simp] theorem journaling_rows (f : Footprint) : (journaling f).rows = .header :: f.rows := rfl
@[simp] theorem journaling_ranges (f : Footprint) : (journaling f).ranges = journalRange :: f.ranges := rfl
@[simp] theorem ordered_blocks (p : Post) (f : Footprint) :
    (ordered p f).blocks = [.display, .rendering] ++ ([.key, .orders, .interrupts] ++ f.blocks) := rfl
@[simp] theorem ordered_rows (p : Post) (f : Footprint) : (ordered p f).rows = zoneRows ++ boardRows ++ f.rows := rfl
@[simp] theorem ordered_ranges (p : Post) (f : Footprint) : (ordered p f).ranges = slotRange p.slot :: f.ranges := rfl

@[simp] theorem mem_zoneRows (r : Row) : r ∈ zoneRows ↔ ∃ z, r = .zone z := by simp [zoneRows, eq_comm]
@[simp] theorem mem_driveRows (r : Row) : r ∈ driveRows ↔ ∃ d, r = .drive d := by simp [driveRows, eq_comm]
@[simp] theorem mem_bufferRows (r : Row) : r ∈ bufferRows ↔ ∃ k, r = .buffer k := by simp [bufferRows, eq_comm]
@[simp] theorem mem_groupRows (r : Row) : r ∈ groupRows ↔ ∃ g, r = .group g := by simp [groupRows, eq_comm]
@[simp] theorem mem_panelRows (r : Row) : r ∈ panelRows ↔ ∃ p, r = .panel p := by simp [panelRows, eq_comm]
@[simp] theorem mem_boardRows (r : Row) : r ∈ boardRows ↔ ∃ b, r = .board b := by simp [boardRows, eq_comm]
@[simp] theorem mem_stationRows (r : Row) : r ∈ stationRows ↔ ∃ n, r = .station n := by simp [stationRows, eq_comm]
@[simp] theorem mem_openRows (r : Row) : r ∈ openRows ↔ ∃ d, r = .openSlot d := by simp [openRows, eq_comm]
@[simp] theorem mem_historyRows (r : Row) : r ∈ historyRows ↔ ∃ i, r = .history i := by simp [historyRows, eq_comm]
@[simp] theorem mem_shiftHistoryRows (r : Row) : r ∈ shiftHistoryRows ↔ ∃ i, r = .shiftHistory i := by
  simp [shiftHistoryRows, eq_comm]

/-- Every block, row and range that a command other than a reset writes: the scope of a scan and of start-up. -/
def everything (setup : Bool) : Scope :=
  { blocks := [.time, .part, .key, .feedback, .orders, .definitions, .service, .calls, .alerts, .loop, .drives, .buffers,
      .display, .attribution, .shift, .boards, .rendering, .journal, .interrupts, .store]
    rows := [.header, .tally, .paceLists] ++ zoneRows ++ driveRows ++ bufferRows ++ groupRows ++ panelRows ++ boardRows
      ++ stationRows ++ openRows ++ historyRows ++ shiftHistoryRows
    ranges := journalRange :: slotsRange :: (List.finRange 64).map textRange
    setup := setup }

@[simp] theorem mem_everything_blocks (x : Bool) (b : Block) : b ∈ (everything x).blocks := by
  cases b <;> simp [everything]

@[simp] theorem mem_everything_rows (x : Bool) (r : Row) : r ∈ (everything x).rows := by
  cases r <;> simp [everything]

@[simp] theorem everything_ranges (x : Bool) :
    (everything x).ranges = journalRange :: slotsRange :: (List.finRange 64).map textRange := rfl

@[simp] theorem everything_setup (x : Bool) : (everything x).setup = x := rfl

/-! ### The exchange memory -/

/-- The footprint covers `n` bytes from `a`. -/
def Footprint.covers (f : Footprint) (a n : Nat) : Prop := ∀ x, outside f.stores x → x < a ∨ a + n ≤ x

theorem Footprint.covers_of_mem {f : Footprint} {r : Nat × Nat} (m : r ∈ f.ranges) : f.covers r.1 r.2 :=
  fun _ o => o r (List.mem_append_right _ m)

theorem Footprint.covers_slot {f : Footprint} (m : slotsRange ∈ f.ranges) (k : Fin 24) : f.covers (slotBase k) 64 := by
  intro x o
  have := o slotsRange (List.mem_append_right _ m)
  simp only [slotsRange, slotBase] at *
  omega

/-- No row reaches into the order slots (section 1.2). -/
theorem Row.ranges_clear (r : Row) : ∀ x ∈ r.ranges, x.1 + x.2 ≤ 0x100 ∨ 0x700 ≤ x.1 := by
  cases r <;> simp [Row.ranges, Row.base, Row.size] <;> omega

/-- A range that leaves the order slots alone. -/
def clearOfSlots (r : Nat × Nat) : Prop := r.1 + r.2 ≤ 0x100 ∨ 0x700 ≤ r.1

/-- A change of the window that touches rows of the footprint and covered ranges; it leaves the slots' states, or makes no
idle slot one to be visited. -/
theorem Stays.of_touches {rows : List Row} {ranges : List (Nat × Nat)} (h : Touches rows ranges s t)
    (only : t = { s with win := t.win }) (mr : rows ⊆ f.rows) (mx : ∀ r ∈ ranges, f.covers r.1 r.2)
    (idle : ∀ m, s.slotIdle m → t.slotIdle m) : Stays f s t := by
  have memory : Touches f.rows f.ranges s t := by
    refine ⟨fun r n => h.1 r fun k => n (mr k), fun a o => h.2.1 a fun x m => ?_, h.2.2⟩
    rcases List.mem_append.1 m with m | m
    · simp only [List.mem_flatten, List.mem_map] at m
      obtain ⟨l, ⟨r, hr, rfl⟩, hx⟩ := m
      exact o x (List.mem_append_left _ (List.mem_flatten.2 ⟨_, List.mem_map_of_mem (mr hr), hx⟩))
    · exact mx x m a o
  rw [only] at memory idle ⊢
  refine ⟨fun b _ => ?_, memory, rfl, fun _ h => h, fun h => h, fun h => h, fun h => h, fun h => h, fun h => h,
    fun _ => .of_eq rfl rfl rfl, fun _ => .of_eq rfl, fun _ => idle⟩
  cases b <;> simp [Block.same, serviceOf]

/-- Ranges clear of the slots leave every slot's state. -/
theorem Touches.slotIdle {rows : List Row} {ranges : List (Nat × Nat)} (h : Touches rows ranges s t)
    (clear : ∀ r ∈ ranges, clearOfSlots r) (m : Fin 24) (idle : s.slotIdle m) : t.slotIdle m := by
  have same : t.slotState m = s.slotState m := by
    refine h.2.1 _ fun x hx => ?_
    have off : clearOfSlots x := by
      rcases List.mem_append.1 hx with hx | hx
      · simp only [List.mem_flatten, List.mem_map] at hx
        obtain ⟨l, ⟨r, -, rfl⟩, hx⟩ := hx
        exact r.ranges_clear x hx
      · exact clear x hx
    simp only [clearOfSlots, slotBase] at *
    omega
  simpa only [State.slotIdle, same] using idle

theorem Stays.thenWriteRow (h : Stays f s t) {r : Row} (m : r ∈ f.rows) : Stays f s (writeRow r t) :=
  h.trans (.of_touches (touches_writeRow r t) rfl (by simpa using m) (by simp)
    fun k => (touches_writeRow r t).slotIdle (by simp) k)

theorem Stays.thenSyncRow (h : Stays f s t) {r : Row} (m : r ∈ f.rows) (old : State) : Stays f s (syncRow old r t) :=
  h.trans (.of_touches (touches_syncRow old r t) rfl (by simpa using m) (by simp)
    fun k => (touches_syncRow old r t).slotIdle (by simp) k)

theorem Stays.thenWriteRows (h : Stays f s t) {rs : List Row} (m : rs ⊆ f.rows) : Stays f s (writeRows rs t) :=
  h.trans (.of_touches (touches_writeRows rs t) rfl m (by simp) fun k => (touches_writeRows rs t).slotIdle (by simp) k)

theorem Stays.thenSyncRows (h : Stays f s t) {rs : List Row} (m : rs ⊆ f.rows) (old : State) :
    Stays f s (syncRows old rs t) :=
  h.trans (.of_touches (touches_syncRows old rs t) rfl m (by simp)
    fun k => (touches_syncRows old rs t).slotIdle (by simp) k)

theorem Stays.thenWriteText (h : Stays f s t) {e : Fin 64} (m : textRange e ∈ f.ranges) : Stays f s (writeText e t) :=
  h.trans (.of_touches (touches_writeText e t) rfl (by simp) (by simpa using Footprint.covers_of_mem m)
    fun k => (touches_writeText e t).slotIdle (by simp [clearOfSlots, textRange, textBase]; omega) k)

/-- Of the state that some operations have led to, the window alone is taken. -/
theorem Stays.winOf (h : Stays f s t) : Stays f s { s with win := t.win } where
  blocks b _ := by cases b <;> simp [Block.same, serviceOf]
  memory := .congr_right rfl h.memory
  queue := rfl
  causes _ h := h
  line h := h
  counts h := h
  stops h := h
  notices h := h
  lockdown h := h
  setup _ := .of_eq rfl rfl rfl
  marks _ := .of_eq rfl
  idle x m i := h.idle x m i

/-! ### The interrupts and the journal (chapter 10) -/

/-- No cause is lost, and the line follows as before. -/
def Raises (s t : State) : Prop := (∀ c, s.raised c → t.raised c) ∧ (s.lineFollows → t.lineFollows)

theorem Raises.of_irq (h : t.irq = s.irq) : Raises s t := by
  constructor <;> simp [State.raised, State.lineFollows, h]

theorem Raises.trans (h : Raises s t) (k : Raises t u) : Raises s u := ⟨fun c x => k.1 c (h.1 c x), fun x => k.2 (h.2 x)⟩

theorem raises_raiseIf (b : Bool) (c : CauseName) (s : State) : Raises s (raiseIf b c s) :=
  ⟨fun d => raiseIf_keeps b c d s, raiseIf_lineFollows b c s⟩

theorem Raises.refl (s : State) : Raises s s := ⟨fun _ h => h, fun h => h⟩

theorem Raises.thenJrn (h : Raises s t) (x : Journal) : Raises s { t with jrn := x } :=
  h.trans (.of_irq (by simp only))

theorem raises_writeRow (r : Row) (s : State) : Raises s (writeRow r s) := .of_irq (writeRow_irq r s)

theorem raises_expireAge (s : State) : Raises s (expireAge s) := (raises_raiseIf _ _ s).thenJrn _

theorem raises_followOldest (s : State) : Raises s (followOldest s) := by
  unfold followOldest
  split
  · exact (Raises.refl s).thenJrn _
  · split
    · exact raises_expireAge s
    · exact (Raises.refl s).thenJrn _

theorem raises_acceptTake (v : Word) (s : State) : Raises s (acceptTake v s) := by
  unfold acceptTake
  split
  · exact .refl s
  · exact ((Raises.refl s).thenJrn _).trans (raises_followOldest _)

theorem raises_writeEntry (e : Entry) (s : State) : Raises s (writeEntry e s) := by
  unfold writeEntry
  refine .trans (.trans ?_ (raises_writeRow .header _)) (raises_raiseIf _ _ _)
  exact .of_irq (by simp only [writeBytes_irq])

theorem raises_closeGap (s : State) : Raises s (closeGap s) := by
  unfold closeGap
  split
  · exact ((raises_writeEntry _ s).thenJrn _).trans (raises_writeRow .header _)
  · exact .refl s

theorem raises_dropEntry (s : State) : Raises s (dropEntry s) := by
  unfold dropEntry
  exact (((Raises.refl s).thenJrn _).trans (raises_writeRow .header _)).trans (raises_raiseIf _ _ _)

theorem raises_readTakeStep (s : State) : Raises s (readTakeStep s) := by
  unfold readTakeStep
  dsimp only
  split
  · exact ((raises_acceptTake _ s).thenJrn _).trans (raises_closeGap _)
  · have closed := (raises_acceptTake s.jrn.put s).trans (raises_closeGap _)
    split
    · exact closed
    · exact (closed.thenJrn _).trans (raises_writeEntry _ _)

theorem raises_journal (e : Entry) (s : State) : Raises s (journal e s) := by
  have append : Raises s (if (readTakeStep s).unread = 512 then dropEntry (readTakeStep s)
      else writeEntry e (readTakeStep s)) := by
    refine (raises_readTakeStep s).trans ?_
    split
    · exact raises_dropEntry _
    · exact raises_writeEntry _ _
  exact append.trans (.of_irq rfl)

theorem Stays.thenRaiseIf (h : Stays f s t) (m : .interrupts ∈ f.blocks) (b : Bool) (c : CauseName) :
    Stays f s (raiseIf b c t) :=
  h.trans
    { Stays.refl t with
      blocks := fun d n => by cases d <;> simp_all [Block.same, serviceOf]
      memory := .of_win rfl
      causes := (raises_raiseIf b c t).1
      line := (raises_raiseIf b c t).2
      setup := fun _ => .of_eq rfl rfl rfl }

theorem Stays.thenRaise (h : Stays f s t) (m : .interrupts ∈ f.blocks) (c : CauseName) : Stays f s (raiseCause c t) :=
  h.thenRaiseIf m true c

/-- What an append to the journal needs of a scope (R155, R158). -/
structure Journals (f : Scope) : Prop where
  journal : .journal ∈ f.blocks := by simp
  interrupts : .interrupts ∈ f.blocks := by simp
  header : .header ∈ f.rows := by simp
  ring : journalRange ∈ f.ranges := by simp

/-- A change of the window, the journal unit and the interrupts, as an append or a read of the take count makes. -/
theorem Stays.of_journal (j : Journals f) (h : Touches [.header] [journalRange] s t) (r : Raises s t)
    (counts : s.jrn.sequence = s.jrn.put + 1 → t.journalCounts)
    (only : t = { s with win := t.win, jrn := t.jrn, irq := t.irq }) : Stays f s t := by
  have window : Stays f s { s with win := t.win } :=
    .of_touches (.congr_right (t := t) rfl h) rfl (by simpa using j.header) (by simpa using Footprint.covers_of_mem j.ring)
      fun m i => h.slotIdle (by simp [clearOfSlots, journalRange]) m i
  obtain ⟨journal, interrupts, -, -⟩ := j
  refine window.trans ?_
  rw [only] at r counts ⊢
  exact
    { Stays.refl ({ s with win := t.win } : State) with
      blocks := fun d n => by
        cases d
        case journal => exact absurd journal n
        case interrupts => exact absurd interrupts n
        all_goals simp only [Block.same, serviceOf, and_self, implies_true]
      memory := .of_win rfl
      causes := r.1
      line := r.2
      counts := fun x => counts x.2
      setup := fun _ => .of_eq rfl rfl rfl }

theorem Stays.thenJournal (h : Stays f s t) (j : Journals f) (e : Entry) : Stays f s (journal e t) :=
  h.trans (.of_journal j (touches_journal e t) (raises_journal e t) (journal_counts e t) rfl)

theorem Stays.thenLog (h : Stays f s t) (j : Journals f) (k x n a b : Nat) : Stays f s (log k x n a b t) :=
  h.thenJournal j _

theorem Stays.thenLogAt (h : Stays f s t) (j : Journals f) (w k x n a b : Nat) : Stays f s (logAt w k x n a b t) :=
  h.thenJournal j _

theorem Stays.thenReadTake (h : Stays f s t) (j : Journals f) : Stays f s (readTake t) :=
  h.trans (.of_journal j (touches_readTake t) ((raises_readTakeStep t).trans (.of_irq rfl)) (readTake_counts t) rfl)

/-! ### Displays and rendering (R102, R145) -/

/-- What follows every change needs of a scope. -/
structure Follows (f : Scope) : Prop where
  display : .display ∈ f.blocks := by simp
  rendering : .rendering ∈ f.blocks := by simp
  zones : ∀ z, .zone z ∈ f.rows := by simp

/-- What closes an event needs of a scope. -/
structure Settles (f : Scope) : Prop extends Follows f where
  boards : ∀ b, .board b ∈ f.rows := by simp

/-- Boards that differ in their rendering alone have the same definitions and entries. -/
theorem boards_of_plain {u v : Vector Board 16} (h : v.map Board.plain = u.map Board.plain) (b : Fin 16) :
    (v[b]).definition = (u[b]).definition ∧ (v[b]).entries = (u[b]).entries := by
  have same : (v[b]).plain = (u[b]).plain := by simpa using congrArg (fun w : Vector Board 16 => w[b]) h
  simp only [Board.plain, Board.mk.injEq] at same
  exact ⟨same.1, same.2.1⟩

/-- A change of the rendering alone. -/
theorem Stays.thenRendering (h : Stays f s t) (m : .rendering ∈ f.blocks) (x : Boards) (links : x.links = t.brd.links)
    (scale : x.scale = t.brd.scale) (refresh : x.refresh = t.brd.refresh)
    (plain : x.boards.map Board.plain = t.brd.boards.map Board.plain) : Stays f s { t with brd := x } :=
  h.trans (.of_quiet (fun b n => by cases b <;> simp_all [Block.same, serviceOf]) rfl rfl rfl rfl rfl rfl rfl id
    (fun _ => { SameSetup.refl t with linkScale := scale, refresh := refresh, boards := boards_of_plain plain }) (.of_eq rfl))

theorem Stays.thenRefreshDisplays (h : Stays f s t) (k : Follows f) : Stays f s (refreshDisplays t) := by
  have each : Stays f t (each (List.finRange 8) refreshDisplay t) := (Stays.refl t).thenEach fun z _ u step => by
    unfold refreshDisplay
    split
    · exact step
    · exact (step.thenDisplay k.display _).thenWriteRow (k.zones z)
  unfold refreshDisplays
  dsimp only
  generalize Machine.each (List.finRange 8) refreshDisplay t = u at each ⊢
  exact h.trans (each.winOf.thenDisplay k.display _)

theorem Stays.thenFollow (h : Stays f s t) (k : Follows f) (old : State) : Stays f s (follow old t) :=
  (h.thenRefreshDisplays k).thenRendering k.rendering (follow old t).brd (by simp) (by simp) (by simp)
    (renderFields_plain false old (refreshDisplays t))

theorem Stays.thenRewriteBoards (h : Stays f s t) (m : ∀ b, .board b ∈ f.rows) (old : State) :
    Stays f s (rewriteBoards old t) :=
  h.thenSyncRows (fun r hr => by
    obtain ⟨b, -, rfl⟩ := List.mem_map.1 hr
    exact m b) old

theorem Stays.thenSettle (h : Stays f s t) (k : Settles f) (old : State) : Stays f s (settle old t) :=
  (h.thenFollow k.toFollows old).thenRewriteBoards k.boards old

end Sys2Proof.Machine
end

section
/-! Proofs for what every command leaves and keeps: the rules of `Stays` for the order unit's answers and for what each family
of events takes of the state its acts have led to. -/

namespace Sys2Proof.Machine

variable {f : Scope} {s t u : State}

/-! ### Answers and ends of orders (R7, R11, R12) -/

/-- A change of one slot that leaves it idle makes no idle slot one to be visited. -/
theorem Touches.slotIdle_of_slot {k : Fin 24} (h : Touches [] [slotRange k] s t) (own : t.slotIdle k) (m : Fin 24)
    (idle : s.slotIdle m) : t.slotIdle m := by
  rcases eq_or_ne m k with rfl | ne
  · exact own
  · have apart : m.val ≠ k.val := fun e => ne (Fin.ext e)
    have same : t.slotState m = s.slotState m := h.2.1 _ (by simp [outside, slotRange, slotBase]; omega)
    simpa only [State.slotIdle, same] using idle

theorem Stays.thenAnswerSlot (h : Stays f s t) {k : Fin 24} (c : f.covers (slotBase k) 64) (m : .interrupts ∈ f.blocks)
    (n : Bool) (g : Half) (a : Answer) : Stays f s (answerSlot k n g a t) := by
  have slot := touches_answerSlot k n g a t
  have window : Stays f t { t with win := (answerSlot k n g a t).win } :=
    .of_touches (.congr_right (t := answerSlot k n g a t) rfl slot) rfl (by simp) (by simpa [slotRange] using c)
      (Touches.slotIdle_of_slot (.congr_right (t := answerSlot k n g a t) rfl slot) (.inr (.inr (answerSlot_shows k n g a t).1)))
  exact h.trans (window.thenRaiseIf m n .orderDone)

/-- A change of the order unit that leaves the hold and the scan alone. -/
theorem Stays.thenDropWork (h : Stays f s t) (m : .orders ∈ f.blocks) (k : Fin 24) : Stays f s (dropWork k t) :=
  h.thenOrd m _

theorem Stays.thenAcceptSlot (h : Stays f s t) {k : Fin 24} (c : f.covers (slotBase k) 64) (m : .orders ∈ f.blocks)
    (n : Bool) (g : Half) : Stays f s (acceptSlot k n g t) := by
  have slot := touches_slotWrite k 0 [2] t (by simp)
  have window : Stays f t (writeBytes (slotBase k) [2] t) :=
    .of_touches slot rfl (by simp) (by simpa [slotRange] using c)
      (slot.slotIdle_of_slot (.inr (.inl (Memory.read_write_inside _ _ 0 [2] (by simp)))))
  exact (h.trans window).thenOrd m _

theorem Stays.thenViolation (h : Stays f s t) (m : .orders ∈ f.blocks) (j : Journals f) (r : Nat) (k : Fin 24) (x v : Byte) :
    Stays f s (violation r k x v t) := by
  unfold violation
  split
  · exact (h.thenOrd m _).thenWriteRow j.header
  · exact (((h.thenOrd m _).thenWriteRow j.header).thenRaise j.interrupts .locked).thenLog j _ _ _ _ _

/-- What the end of a long order needs of a scope (R11, R15). -/
structure Ends (f : Scope) : Prop extends Journals f where
  orders : .orders ∈ f.blocks := by simp
  slots : ∀ k : Fin 24, f.covers (slotBase k) 64 := by exact Footprint.covers_slot (by simp)

theorem Stays.thenEndLong (h : Stays f s t) (e : Ends f) (k : Fin 24) (a : Answer) : Stays f s (endLong k a t) := by
  unfold endLong
  split
  · exact h
  · dsimp only
    split
    · exact (h.thenDropWork e.orders k).thenAnswerSlot (e.slots k) e.interrupts _ _ a
    · exact (h.thenDropWork e.orders k).thenViolation e.orders e.toJournals _ k _ _

theorem Stays.thenAbortLong (h : Stays f s t) (e : Ends f) (w : Work) : Stays f s (abortLong w t) := by
  unfold abortLong
  dsimp only
  split
  · exact (h.thenDropWork e.orders w.slot).thenAnswerSlot (e.slots w.slot) e.interrupts _ _ _
  · exact h.thenDropWork e.orders w.slot

/-! ### What a family of events takes of the state that its acts have led to -/

/-- The rendering is taken from the later state, the rest of the boards from the earlier. -/
theorem followed_same_rendering (s t : State) (h : Block.same s t .rendering) : Block.same s (followed s t) .rendering := by
  intro b
  simpa [followed, Board.withRendering] using h b

theorem followed_boards (s t : State) (b : Fin 16) :
    ((followed s t).brd.boards[b]).definition = (s.brd.boards[b]).definition
      ∧ ((followed s t).brd.boards[b]).entries = (s.brd.boards[b]).entries := boards_of_plain (followed_plain s t) b

theorem Stays.attributionOnly (h : Stays f s t) : Stays f s (attributionOnly s t) :=
  { h with
    blocks := fun b n => by
      have same := h.blocks b n
      cases b
      case rendering => exact followed_same_rendering s t same
      all_goals simp_all [Block.same, serviceOf, Machine.attributionOnly]
    memory := .congr_right rfl h.memory
    queue := rfl
    stops := id, notices := id, lockdown := id, marks := fun _ => .of_eq rfl
    setup := fun _ => { SameSetup.refl s with boards := followed_boards s t } }

theorem Stays.demandOnly (h : Stays f s t) : Stays f s (demandOnly s t) :=
  { h with
    blocks := fun b n => by
      have same := h.blocks b n
      cases b
      case rendering => exact followed_same_rendering s t same
      all_goals simp_all [Block.same, serviceOf, Machine.demandOnly]
    memory := .congr_right rfl h.memory
    queue := rfl
    notices := id, lockdown := id, marks := fun _ => .of_eq rfl
    setup := fun _ => { SameSetup.refl s with boards := followed_boards s t } }

theorem Stays.motionOnly (h : Stays f s t) : Stays f s (motionOnly s t) :=
  { h with
    blocks := fun b n => by
      have same := h.blocks b n
      cases b
      case rendering => exact followed_same_rendering s t same
      all_goals simp_all [Block.same, serviceOf, Machine.motionOnly]
    memory := .congr_right rfl h.memory
    queue := rfl
    notices := id, lockdown := id, marks := fun _ => .of_eq rfl
    setup := fun _ => { SameSetup.refl s with boards := followed_boards s t } }

theorem Stays.shiftOnly (h : Stays f s t) : Stays f s (shiftOnly s t) :=
  { h with
    blocks := fun b n => by
      have same := h.blocks b n
      cases b
      case rendering => exact followed_same_rendering s t same
      all_goals simp_all [Block.same, serviceOf, Machine.shiftOnly]
    memory := .congr_right rfl h.memory
    queue := rfl
    stops := id, lockdown := id, marks := fun _ => .of_eq rfl
    setup := fun _ => { SameSetup.refl s with boards := followed_boards s t } }

theorem Stays.serviceOnly (h : Stays f s t) : Stays f s (serviceOnly s t) :=
  { h with
    blocks := fun b n => by
      have same := h.blocks b n
      cases b
      case rendering => exact followed_same_rendering s t same
      all_goals simp_all [Block.same, serviceOf, Machine.serviceOnly, orderEnds]
    memory := .congr_right rfl h.memory
    queue := rfl
    notices := id, lockdown := id, marks := fun _ => ⟨rfl, rfl, rfl, rfl⟩
    setup := fun _ => { SameSetup.refl s with boards := followed_boards s t } }

theorem Stays.callsOnly (h : Stays f s t) : Stays f s (callsOnly s t) :=
  { h with
    blocks := fun b n => by
      have same := h.blocks b n
      cases b
      case rendering => exact followed_same_rendering s t same
      all_goals simp_all [Block.same, serviceOf, Machine.callsOnly, orderEnds, tallyOf]
    memory := .congr_right rfl h.memory
    queue := rfl
    notices := id, lockdown := id, marks := fun _ => ⟨rfl, rfl, rfl, rfl⟩
    setup := fun _ => { SameSetup.refl s with boards := followed_boards s t } }

theorem Stays.loopOnly (h : Stays f s t) : Stays f s (loopOnly s t) :=
  { h with
    blocks := fun b n => by
      have same := h.blocks b n
      cases b
      case rendering => exact followed_same_rendering s t same
      all_goals simp_all [Block.same, serviceOf, Machine.loopOnly, orderEnds, tallyOf]
    memory := .congr_right rfl h.memory
    queue := rfl
    notices := id, lockdown := id, marks := fun _ => ⟨rfl, rfl, rfl, rfl⟩
    setup := fun _ => { SameSetup.refl s with boards := followed_boards s t } }

theorem Stays.fittingOnly (h : Stays f s t) : Stays f s (fittingOnly s t) :=
  { h with
    blocks := fun b n => by
      have same := h.blocks b n
      cases b
      case rendering => exact followed_same_rendering s t same
      all_goals simp_all [Block.same, serviceOf, Machine.fittingOnly]
    memory := .congr_right rfl h.memory
    queue := rfl
    notices := id, lockdown := id, marks := fun _ => .of_eq rfl
    setup := fun _ => { SameSetup.refl s with boards := followed_boards s t } }

theorem Stays.setupOnly (h : Stays f s t) : Stays f s (setupOnly s t) :=
  { h with
    blocks := fun b n => by
      have same := h.blocks b n
      cases b
      case rendering => exact followed_same_rendering s t same
      all_goals simp_all [Block.same, serviceOf_eq_iff, Machine.setupOnly, Machine.fittingOnly]
    memory := .congr_right rfl h.memory
    queue := rfl
    notices := id, lockdown := id, marks := fun _ => .of_eq rfl
    setup := fun k => { SameSetup.refl s with zones := (h.setup k).zones, boards := followed_boards s t } }

theorem Stays.boardOnly (h : Stays f s t) : Stays f s (boardOnly s t) :=
  { h with
    blocks := fun b n => by
      have same := h.blocks b n
      cases b
      all_goals simp_all [Block.same, serviceOf, Machine.boardOnly, orderEnds]
    memory := .congr_right rfl h.memory
    queue := rfl
    stops := id, notices := id, lockdown := id, marks := fun _ => ⟨rfl, rfl, rfl, rfl⟩
    setup := fun k => { SameSetup.refl s with
      linkScale := (h.setup k).linkScale, refresh := (h.setup k).refresh, boards := (h.setup k).boards } }

theorem Stays.storeOnly (h : Stays f s t) : Stays f s (storeOnly s t) :=
  { h with
    blocks := fun b n => by
      have same := h.blocks b n
      cases b
      all_goals simp_all [Block.same, serviceOf, Machine.storeOnly, orderEnds]
    memory := .congr_right rfl h.memory
    queue := rfl
    stops := id, notices := id, lockdown := id, marks := fun _ => ⟨rfl, rfl, rfl, rfl⟩
    setup := fun _ => { SameSetup.refl s with } }

end Sys2Proof.Machine
end

section
/-! Proofs for what every command leaves and keeps: the rules of `Stays` for the acts of the escalation, attribution and drive
units (chapters 5 to 7). -/

namespace Sys2Proof.Machine

variable {f : Scope} {s t : State}

/-! ### The escalation unit -/

theorem Stays.thenSetCall (h : Stays f s t) (m : .calls ∈ f.blocks) (n : Fin 160) (k : Kind) (c : Option Call) :
    Stays f s (setCall n k c t) := h.thenCalls m _

theorem Stays.thenUpdCall (h : Stays f s t) (m : .calls ∈ f.blocks) (n : Fin 160) (k : Kind) (g : Call → Call) :
    Stays f s (updCall n k g t) := h.thenCalls m _

theorem Stays.thenAlertCounts (h : Stays f s t) (m : .alerts ∈ f.blocks) : Stays f s (reevaluateAlerts t) := h.thenAlerts m _

/-- What the call table and the escalation unit need of a scope. -/
structure Calls (f : Scope) : Prop extends Journals f where
  calls : .calls ∈ f.blocks := by simp
  alerts : .alerts ∈ f.blocks := by simp

theorem Stays.thenClimb (h : Stays f s t) (c : Calls f) (n : Fin 160) (k : Kind) (x w : Nat) : Stays f s (climb n k x w t) := by
  unfold climb
  split
  · exact h
  · exact ((h.thenSetCall c.calls n k _).thenLogAt c.toJournals _ _ _ _ _ _).thenAlertCounts c.alerts

theorem Stays.thenEscalateRepeat (h : Stays f s t) (c : Calls f) (n : Fin 160) (k : Kind) :
    Stays f s (escalateRepeat n k t) := by
  unfold escalateRepeat
  split
  · exact h
  · split
    · exact h
    · exact h.thenClimb c n k _ _

/-! ### The attribution unit -/

/-- What an act on the record of a drive needs of a scope. -/
structure Attributes (f : Scope) (d : Fin 8) : Prop extends Journals f, Follows f where
  attribution : .attribution ∈ f.blocks := by simp
  openSlot : .openSlot d ∈ f.rows := by simp

theorem Stays.thenSetSlot (h : Stays f s t) (m : .attribution ∈ f.blocks) (d : Fin 8) (o : OpenSlot) :
    Stays f s (setSlot d o t) := h.thenAttr m _

theorem Stays.thenAccrue (h : Stays f s t) (m : .attribution ∈ f.blocks) (z : Fin 8) : Stays f s (accrue z t) := h.thenAttr m _

theorem Stays.thenBringZones (h : Stays f s t) (m : .attribution ∈ f.blocks) (rows : ∀ z, .zone z ∈ f.rows)
    (zs : List (Fin 8)) : Stays f s (bringZones zs t) := by
  have brought : Stays f t (each zs bringZone t) :=
    (Stays.refl t).thenEach fun z _ u k => (k.thenAccrue m z).thenWriteRow (rows z)
  exact h.trans (brought.winOf.thenAttr m _)

theorem Stays.thenShowSlot (h : Stays f s t) {d : Fin 8} (m : .attribution ∈ f.blocks) (row : .openSlot d ∈ f.rows) :
    Stays f s (showSlot d t) := by
  unfold showSlot
  split
  · exact (h.thenSetSlot m d _).thenWriteRow row
  · exact h.thenWriteRow row

theorem Stays.thenShowOpen (h : Stays f s t) {d : Fin 8} (m : .attribution ∈ f.blocks) (row : .openSlot d ∈ f.rows) :
    Stays f s (showOpen d t) := by
  unfold showOpen
  split
  · exact h.thenShowSlot m row
  · exact h

theorem Stays.thenChangeCharge (h : Stays f s t) {d : Fin 8} (a : Attributes f d) (c : Charge) :
    Stays f s (changeCharge d c t) := by
  unfold changeCharge
  split
  · exact h
  · exact (((h.thenBringZones a.attribution a.zones _).thenSetSlot a.attribution d _).thenLog a.toJournals _ _ _ _ _).thenShowSlot
      a.attribution a.openSlot

theorem Stays.thenReevaluateStep (h : Stays f s t) {d : Fin 8} (a : Attributes f d) : Stays f s (reevaluateStep d t) := by
  unfold reevaluateStep
  split
  · exact h
  · dsimp only
    split
    · exact h.thenSetSlot a.attribution d _
    · have told := fun r : StopRecord => (h.thenSetSlot a.attribution d (.opened r)).thenFollow a.toFollows t
      generalize (if t.shift.state = .onBreak then Charge.onBreak else .cause (t.evaluate d)) = target
      split
      · exact told _
      · exact (told _).thenChangeCharge a _

theorem Stays.thenReevaluate (h : Stays f s t) {d : Fin 8} (a : Attributes f d) : Stays f s (reevaluate d t) :=
  h.trans ((Stays.refl t).thenReevaluateStep a).attributionOnly

theorem Stays.thenOpenRecordFor (h : Stays f s t) {d : Fin 8} (a : Attributes f d) (n : Nat) (b : Bool) :
    Stays f s (openRecordFor d n b t) := by
  refine h.trans (Stays.attributionOnly ?_)
  unfold openRecordAt
  have brought : Stays f t (each (t.zonesOn d) accrue t) := (Stays.refl t).thenEach fun z _ u k => k.thenAccrue a.attribution z
  exact ((((brought.thenAttr a.attribution _).thenSetSlot a.attribution d _).thenLog a.toJournals _ _ _ _ _).thenFollow
    a.toFollows t).thenWriteRow a.openSlot

/-- What the close of a record needs besides: the rows of the history. -/
structure Files (f : Scope) (d : Fin 8) : Prop extends Attributes f d where
  history : ∀ i, .history i ∈ f.rows := by simp

theorem Stays.thenCountStop (h : Stays f s t) (m : .attribution ∈ f.blocks) {z : Fin 8} (row : .zone z ∈ f.rows) (b : Bool) :
    Stays f s (countStop b z t) := (h.thenAttr m _).thenWriteRow row

theorem Stays.thenFileRecord (h : Stays f s t) (m : .attribution ∈ f.blocks) (rows : ∀ i, .history i ∈ f.rows)
    (r : StopRecord) : Stays f s (fileRecord r t) := (h.thenAttr m _).thenWriteRow (rows _)

theorem Stays.thenCloseRecordStep (h : Stays f s t) {d : Fin 8} (a : Files f d) (how : Closing) :
    Stays f s (closeRecordStep how d t) := by
  unfold closeRecordStep
  split
  · exact h
  · rename_i r _
    dsimp only
    have brought := h.thenBringZones a.attribution a.zones r.zones
    have counted : Stays f s (if (r.outside || (r.closedAs how t.partTime).isCut) = true then bringZones r.zones t
        else each r.zones (countStop (r.closedAs how t.partTime).isShort) (bringZones r.zones t)) := by
      split
      · exact brought
      · exact brought.thenEach fun z _ u k => k.thenCountStop a.attribution (a.zones z) _
    have filed := fun c : StopRecord => counted.thenSetSlot a.attribution d (.closed c)
    refine ((Stays.thenLog ?_ a.toJournals _ _ _ _ _).thenWriteRow a.openSlot).thenFollow a.toFollows t
    split
    · exact filed _
    · exact (filed _).thenFileRecord a.attribution a.history _

theorem Stays.thenCloseRecord (h : Stays f s t) {d : Fin 8} (a : Files f d) (how : Closing) :
    Stays f s (closeRecord how d t) := h.trans ((Stays.refl t).thenCloseRecordStep a how).attributionOnly

theorem Stays.thenDriveStopped (h : Stays f s t) {d : Fin 8} (a : Attributes f d) (n : Nat) : Stays f s (driveStopped d n t) := by
  unfold driveStopped
  split
  · exact h
  · exact h.thenOpenRecordFor a n false

theorem Stays.thenZoneJoins (h : Stays f s t) (a : ∀ d, Attributes f d) (z : Fin 8) : Stays f s (zoneJoins z t) := by
  unfold zoneJoins
  split
  · exact h
  · rename_i d _
    split
    · split
      · exact h
      · exact h.thenSetSlot (a d).attribution d _
    · split
      · exact h.thenOpenRecordFor (a d) 0 false
      · exact h

theorem Stays.thenZoneLeft (h : Stays f s t) (a : ∀ d, Files f d) (z : Fin 8) : Stays f s (zoneLeft z t) := by
  unfold zoneLeft
  split
  · exact h
  · split
    · exact h.thenCloseRecord (a _) .plain
    · exact h

theorem Stays.thenChargeBreak (h : Stays f s t) {d : Fin 8} (a : Attributes f d) : Stays f s (chargeBreak d t) := by
  unfold chargeBreak
  split
  · exact h
  · split
    · exact h
    · exact h.thenChangeCharge a .onBreak

theorem Stays.thenEndBreakCharge (h : Stays f s t) {d : Fin 8} (a : Attributes f d) : Stays f s (endBreakCharge d t) := by
  unfold endBreakCharge
  split
  · exact h
  · split
    · exact h.thenChangeCharge a _
    · exact h

theorem Stays.thenBringAll (h : Stays f s t) (m : .attribution ∈ f.blocks) (zones : ∀ z, .zone z ∈ f.rows)
    (slots : ∀ d, .openSlot d ∈ f.rows) : Stays f s (bringAll t) := by
  have brought : Stays f t (each t.openDrives showSlot (bringZones (List.finRange 8) t)) :=
    ((Stays.refl t).thenBringZones m zones _).thenEach fun d _ u k => k.thenShowSlot m (slots d)
  exact h.trans (brought.winOf.thenAttr m _)

theorem Stays.thenBreakBegins (h : Stays f s t) (a : ∀ d, Attributes f d) (b : Bool) : Stays f s (breakBegins b t) := by
  refine h.trans (Stays.attributionOnly ((Stays.refl t).thenEach fun d _ u k => ?_))
  dsimp only
  split
  · exact (k.thenReevaluate (a d)).thenChargeBreak (a d)
  · exact k.thenReevaluate (a d)

theorem Stays.thenBreakEnds (h : Stays f s t) (a : ∀ d, Attributes f d) : Stays f s (breakEnds t) :=
  h.trans (Stays.attributionOnly ((Stays.refl t).thenEach fun d _ _ k => (k.thenReevaluate (a d)).thenEndBreakCharge (a d)))

theorem Stays.thenAttributionShiftStarts (h : Stays f s t) (a : ∀ d, Files f d) : Stays f s (attributionShiftStarts t) := by
  refine h.trans (Stays.attributionOnly (Stays.thenEach ?_ fun z _ u k =>
    (k.thenAttr (a 0).attribution _).thenWriteRow ((a 0).zones z)))
  exact (Stays.refl t).thenEach fun d _ u k => (k.thenCloseRecord (a d) .continues).thenOpenRecordFor (a d).toAttributes 0 true

theorem Stays.thenAttributionShiftCloses (h : Stays f s t) (a : ∀ d, Files f d) : Stays f s (attributionShiftCloses t) :=
  h.trans (Stays.attributionOnly (((Stays.refl t).thenBringAll (a 0).attribution (a 0).zones fun d => (a d).openSlot).thenEach
    fun d _ _ k => k.thenCloseRecord (a d) .continues))

theorem Stays.thenAttributionReopens (h : Stays f s t) (a : ∀ d, Attributes f d) (ds : List (Fin 8)) :
    Stays f s (attributionReopens ds t) :=
  h.trans (Stays.attributionOnly ((Stays.refl t).thenEach fun d _ _ k => k.thenOpenRecordFor (a d) 0 true))

theorem Stays.thenCutRecords (h : Stays f s t) (a : ∀ d, Files f d) : Stays f s (cutRecords t) :=
  h.trans (Stays.attributionOnly ((Stays.refl t).thenEach fun d _ _ k => k.thenCloseRecord (a d) .cut))

/-! ### The drive unit -/

theorem stopsFollow_updDrive {d : Fin 8} {g : Drive → Drive} (h : t.stopsFollow)
    (own : (g (t.drive d)).stopRequest = true ↔ (g (t.drive d)).demand ≠ []) : (updDrive d g t).stopsFollow := by
  intro e
  simp only [State.drive, updDrive, upd_getElem] at own ⊢
  split
  · next same => exact same ▸ own
  · exact h e

/-- A change of one drive that keeps its stop request with its demand set (R90). -/
theorem Stays.thenUpdDrive (h : Stays f s t) (m : .drives ∈ f.blocks) (d : Fin 8) (g : Drive → Drive)
    (keeps : ((t.drive d).stopRequest = true ↔ (t.drive d).demand ≠ []) →
      ((g (t.drive d)).stopRequest = true ↔ (g (t.drive d)).demand ≠ []) := by exact id) : Stays f s (updDrive d g t) :=
  h.trans
    { Stays.refl t with
      blocks := fun b n => by cases b <;> simp_all [Block.same, serviceOf, updDrive]
      memory := .of_win rfl
      stops := fun x => stopsFollow_updDrive x (keeps (x d))
      setup := fun _ => .of_eq rfl rfl rfl }

theorem updDrive_updDrive (d : Fin 8) (g k : Drive → Drive) (s : State) :
    updDrive d k (updDrive d g s) = updDrive d (fun v => k (g v)) s := by
  simp [updDrive, upd]

theorem updDrive_drive (d : Fin 8) (g : Drive → Drive) (s : State) : (updDrive d g s).drive d = g (s.drive d) := by
  simp [updDrive, State.drive, upd]

theorem Stays.thenUpdBuffer (h : Stays f s t) (m : .buffers ∈ f.blocks) (k : Fin 7) (g : Buffer → Buffer) :
    Stays f s (updBuffer k g t) := h.thenBuffers m _

theorem Stays.thenStartTiming (h : Stays f s t) (m : .drives ∈ f.blocks) (d : Fin 8) : Stays f s (startTiming d t) := by
  unfold startTiming
  split
  · exact h.thenUpdDrive m d _
  · exact h

/-- What a change of a drive's demand set needs of a scope. -/
structure Demands (f : Scope) (d : Fin 8) : Prop extends Attributes f d where
  drives : .drives ∈ f.blocks := by simp

theorem Stays.thenEndSupervision (h : Stays f s t) (m : .drives ∈ f.blocks) (j : Journals f) (d : Fin 8) :
    Stays f s (endSupervision d t) := by
  unfold endSupervision
  split
  · exact (h.thenUpdDrive m d _).thenLog j _ _ _ _ _
  · exact h.thenUpdDrive m d _

/-- The entry that joins an empty set and the assertion of the stop request are one change of the drive (R90). -/
theorem Stays.thenFirstDemand (h : Stays f s t) {d : Fin 8} (a : Demands f d) (e : Demand) (x y : Nat) :
    Stays f s (assertStop d x y (updDrive d (fun v => { v with demand := v.demand ++ [e] }) t)) := by
  unfold assertStop
  rw [updDrive_updDrive]
  have asserted : Stays f s (updDrive d (fun v => { v with demand := v.demand ++ [e], stopRequest := true }) t) :=
    h.thenUpdDrive a.drives d _ (by simp)
  dsimp only
  split
  · exact (asserted.thenLog a.toJournals _ _ _ _ _).thenStartTiming a.drives d
  · exact asserted.thenLog a.toJournals _ _ _ _ _

theorem Stays.thenAddDemand (h : Stays f s t) {d : Fin 8} (a : Demands f d) (e : Demand) (x y : Nat) :
    Stays f s (addDemand d e x y t) := by
  unfold addDemand
  split
  · exact h
  · refine (Stays.thenReevaluate ?_ a.toAttributes).thenFollow a.toFollows t
    split
    · exact h.thenFirstDemand a e x y
    · next held =>
      exact h.thenUpdDrive a.drives d _ fun keeps => by
        have : (t.drive d).demand ≠ [] := by simpa using held
        simp [keeps, this]

theorem keepDemand_demand (v : Drive) (l : List Demand) : (v.keepDemand l).demand = l := by
  unfold Drive.keepDemand; split <;> rfl

theorem keepDemand_stopRequest (v : Drive) (l : List Demand) : (v.keepDemand l).stopRequest = v.stopRequest := by
  unfold Drive.keepDemand; split <;> rfl

/-- The removal that empties a set and the release of the stop request are one change of the drive (R90). -/
theorem Stays.thenLastDemand (h : Stays f s t) {d : Fin 8} (a : Demands f d) (x y : Nat) :
    Stays f s (releaseStop d x y (updDrive d (fun v => v.keepDemand []) t)) := by
  unfold releaseStop
  rw [updDrive_updDrive]
  exact ((h.thenUpdDrive a.drives d _ (by simp [keepDemand_demand])).thenLog a.toJournals _ _ _ _ _).thenEndSupervision
    a.drives a.toJournals d

theorem Stays.thenRemoveDemand (h : Stays f s t) {d : Fin 8} (a : Demands f d) (gone : Demand → Bool) (x : Nat) :
    Stays f s (removeDemand d gone x t) := by
  unfold removeDemand
  dsimp only
  have left : (t.drive d).demand.filter (fun e => !gone e) ≠ [] → (t.drive d).demand ≠ [] := by
    intro some none
    simp [none] at some
  generalize (t.drive d).demand.filter (fun e => !gone e) = kept at left ⊢
  split
  · exact h
  · refine (Stays.thenReevaluate ?_ a.toAttributes).thenFollow a.toFollows t
    split
    · next none =>
      obtain rfl := List.isEmpty_iff.1 none
      exact h.thenLastDemand a x _
    · next some =>
      have some : kept ≠ [] := by simpa using some
      exact h.thenUpdDrive a.drives d _ fun keeps => by
        simp [keepDemand_demand, keepDemand_stopRequest, keeps, some, left some]

theorem Stays.thenAddPanelDemand (h : Stays f s t) (a : ∀ d, Demands f d) (p : Fin 40) (z : Fin 8) :
    Stays f s (addPanelDemand p z t).1 := by
  unfold addPanelDemand
  split
  · exact h
  · exact h.trans ((Stays.refl t).thenAddDemand (a _) _ _ _).demandOnly

theorem Stays.thenRemovePanelDemands (h : Stays f s t) (a : ∀ d, Demands f d) (rows : ∀ d, .drive d ∈ f.rows) (p : Fin 40) :
    Stays f s (removePanelDemands p t).1 :=
  h.trans (Stays.demandOnly ((Stays.refl t).thenEach fun d _ _ k => (k.thenRemoveDemand (a d) _ _).thenSyncRow (rows d) t))

theorem Stays.thenRemoveZoneDemands (h : Stays f s t) (a : ∀ d, Demands f d) (rows : ∀ d, .drive d ∈ f.rows) (z : Fin 8) :
    Stays f s (removeZoneDemands z t) := by
  unfold removeZoneDemands
  split
  · exact h
  · exact h.trans (((Stays.refl t).thenRemoveDemand (a _) _ _).thenSyncRow (rows _) t).demandOnly

theorem Stays.thenAnswerStop (h : Stays f s t) (a : ∀ d, Demands f d) (m : .calls ∈ f.blocks) (r : CallRef) (z : Fin 8) :
    Stays f s (answerStop r z t) := by
  unfold answerStop
  split
  · dsimp only
    split
    · exact h
    · exact h.thenUpdCall m _ _ _
    · split
      · exact h
      · exact (h.thenUpdCall m _ _ _).thenRemoveDemand (a _) _ _
  · exact h

theorem Stays.thenClearStop (h : Stays f s t) (a : ∀ d, Demands f d) (r : CallRef) (z : Fin 8) :
    Stays f s (clearStop r z t) := by
  unfold clearStop
  split
  · exact h.thenRemoveDemand (a _) _ _
  · exact h

/-- What a motion of a drive needs of a scope. -/
structure Moves (f : Scope) (d : Fin 8) : Prop extends Demands f d where
  calls : .calls ∈ f.blocks := by simp
  stations : ∀ n, .station n ∈ f.rows := by simp

theorem Stays.thenMakeDue (h : Stays f s t) {d : Fin 8} (a : Moves f d) (n : Nat) (r : CallRef) :
    Stays f s (makeDue d n r t) := by
  unfold makeDue
  split
  · exact h
  · refine (Stays.thenLog ?_ a.toJournals _ _ _ _ _).thenWriteRow (a.stations _)
    have joined := (h.thenUpdCall a.calls r.station r.kind (fun c => { c with stop := .due t.partTime })).thenAddDemand
      a.toDemands (.call r) 1 (r.serial % 65536)
    split
    · exact joined.thenUpdDrive a.drives d _
    · exact joined

theorem Stays.thenCrossing (h : Stays f s t) {d : Fin 8} (a : Moves f d) (n : Nat) : Stays f s (crossing d n t) :=
  (h.thenUpdDrive a.drives d _).thenEach fun r _ _ k => k.thenMakeDue a n r

theorem Stays.thenCrossings {d : Fin 8} (a : Moves f d) (pitch c : Nat) {n : Nat} {t : State} (h : Stays f s t) :
    Stays f s (crossings d pitch c n t) := by
  induction c generalizing n t with
  | zero => exact h
  | succ c ih => exact ih (h.thenCrossing a n)

theorem Stays.thenAdvanceForward (h : Stays f s t) {d : Fin 8} (a : Moves f d) (pitch k : Nat) :
    Stays f s (advanceForward d pitch k t) := by
  unfold advanceForward
  refine (Stays.thenCrossings a pitch _ ?_).thenUpdDrive a.drives d _
  split
  · exact h.thenUpdDrive a.drives d _
  · exact h

theorem Stays.thenAdvanceReverse (h : Stays f s t) (m : .drives ∈ f.blocks) (d : Fin 8) (k : Nat) :
    Stays f s (advanceReverse d k t) :=
  h.thenUpdDrive m d _ fun keeps => by
    split
    · exact keeps
    · exact keeps

theorem Stays.thenFeedbackStopped (h : Stays f s t) {d : Fin 8} (a : Demands f d) : Stays f s (feedbackStopped d t) :=
  ((h.thenEndSupervision a.drives a.toJournals d).thenUpdDrive a.drives d _).thenDriveStopped a.toAttributes _

theorem Stays.thenFeedbackMoving (h : Stays f s t) {d : Fin 8} (a : Demands f d) (files : Files f d) :
    Stays f s (feedbackMoving d t) := by
  unfold feedbackMoving
  have closed := (h.thenUpdDrive a.drives d (fun v => { v with feedback := .moving })).thenCloseRecord files .plain
  have timed : Stays f s (if (t.drive d).stopRequest = true then
      startTiming d (closeRecord .plain d (updDrive d (fun v => { v with feedback := .moving }) t))
      else closeRecord .plain d (updDrive d (fun v => { v with feedback := .moving }) t)) := by
    split
    · exact closed.thenStartTiming a.drives d
    · exact closed
  dsimp only
  split
  · exact timed
  · exact timed.thenUpdDrive a.drives d _

theorem Stays.thenBufferChanged (h : Stays f s t) (a : ∀ d, Attributes f d) (k : Fin 7) : Stays f s (bufferChanged k t) :=
  h.thenEach fun d _ _ step => step.thenReevaluate (a d)

theorem Stays.thenFillBuffer (h : Stays f s t) (a : ∀ d, Attributes f d) (m : .buffers ∈ f.blocks) {k : Fin 7}
    (row : .buffer k ∈ f.rows) : Stays f s (fillBuffer k t) := by
  unfold fillBuffer
  split
  · exact h
  · refine Stays.thenSyncRow ?_ row t
    split
    · exact (h.thenUpdBuffer m k _).thenBufferChanged a k
    · exact (h.thenUpdBuffer m k _).thenLog (a 0).toJournals _ _ _ _ _

end Sys2Proof.Machine
end

section
/-! Proofs for what every command leaves and keeps: the rules of `Stays` for the acts of the shift unit, zone service and the
call table (chapters 8, 2 and 4). -/

namespace Sys2Proof.Machine

variable {f : Scope} {s t : State}

/-- The rows of some objects, all objects' rows allowed. -/
theorem map_subset_of {n : Nat} {row : Fin n → Row} {rows : List Row} (h : ∀ i, row i ∈ rows) {l : List (Fin n)} :
    l.map row ⊆ rows := fun r hr => by
  obtain ⟨i, -, rfl⟩ := List.mem_map.1 hr
  exact h i

/-! ### The shift unit -/

/-- A change of the shift unit that keeps a zone from standing twice in the notice lists (R133). -/
theorem Stays.thenUpdShift (h : Stays f s t) (m : .shift ∈ f.blocks) (g : Shift → Shift)
    (keeps : (t.shift.behindList ++ t.shift.recovered.map Prod.fst).Nodup →
      ((g t.shift).behindList ++ (g t.shift).recovered.map Prod.fst).Nodup := by exact id) : Stays f s (updShift g t) :=
  h.trans
    { Stays.refl t with
      blocks := fun b n => by cases b <;> simp_all [Block.same, serviceOf, updShift]
      memory := .of_win rfl
      notices := keeps
      setup := fun _ => .of_eq rfl rfl rfl }

theorem Stays.thenBringTally (h : Stays f s t) (m : .shift ∈ f.blocks) : Stays f s (bringTally t) := by
  unfold bringTally
  split
  · exact h.thenUpdShift m _
  · exact h

theorem Stays.thenBringZonePace (h : Stays f s t) (m : .shift ∈ f.blocks) (z : Fin 8) : Stays f s (bringZonePace z t) := by
  unfold bringZonePace
  exact h.thenUpdShift m _

theorem Stays.thenShowShift (h : Stays f s t) (m : .shift ∈ f.blocks) (tally : .tally ∈ f.rows)
    (zones : ∀ z, .zone z ∈ f.rows) (zs : List (Fin 8)) : Stays f s (showShift zs t) :=
  (h.thenBringTally m).thenWriteRows (List.cons_subset.2 ⟨tally, map_subset_of zones⟩)

/-- What the pace of the zones needs of a scope. -/
structure Paces (f : Scope) : Prop extends Journals f where
  shift : .shift ∈ f.blocks := by simp
  paceLists : .paceLists ∈ f.rows := by simp

/-- A crossing zone leaves both notice lists and stands once, last, in one of them (R133). -/
theorem crossed_nodup {b : List (Fin 8)} {r : List (Fin 8 × Bool)} (z : Fin 8) (behind closed : Bool)
    (once : (b ++ r.map Prod.fst).Nodup) :
    ((if behind then b.filter (fun y => y != z) ++ [z] else b.filter (fun y => y != z))
      ++ (if behind then r.filter (fun e => e.1 != z)
          else r.filter (fun e => e.1 != z) ++ [(z, closed)]).map Prod.fst).Nodup := by
  have fst : (r.filter fun e => e.1 != z).map Prod.fst = (r.map Prod.fst).filter fun y => y != z := by
    rw [List.filter_map]; rfl
  have kept : (b.filter (fun y => y != z) ++ (r.map Prod.fst).filter fun y => y != z).Nodup := by
    rw [← List.filter_append]
    exact once.filter _
  have joined : (z :: (b.filter (fun y => y != z) ++ (r.map Prod.fst).filter fun y => y != z)).Nodup :=
    List.nodup_cons.2 ⟨by simp, kept⟩
  cases behind
  · simpa [fst] using (List.perm_append_singleton ..).nodup_iff.2 joined
  · simpa [fst] using List.perm_middle.nodup_iff.2 joined

theorem Stays.thenCrossPace (h : Stays f s t) (p : Paces f) (behind closed : Bool) (z : Fin 8) :
    Stays f s (crossPace behind closed z t) := by
  unfold crossPace
  exact (((h.thenUpdShift p.shift _ (crossed_nodup z behind closed)).thenWriteRow p.paceLists).thenLog p.toJournals _ _ _ _
    _).thenRaise p.interrupts .pace

theorem Stays.thenEvaluateZone (h : Stays f s t) (p : Paces f) (z : Fin 8) : Stays f s (evaluateZone z t) := by
  unfold evaluateZone
  split
  · exact h
  · split
    · exact h
    · dsimp only
      split
      · split
        · exact h.thenCrossPace p false false z
        · exact h
      · split
        · exact h.thenCrossPace p true false z
        · exact h

/-- What a placed plan needs of a scope. -/
structure Plans (f : Scope) : Prop extends Journals f where
  shift : .shift ∈ f.blocks := by simp
  tally : .tally ∈ f.rows := by simp

theorem Stays.thenShowPlans (h : Stays f s t) (p : Plans f) (old : State) : Stays f s (showPlans old t) :=
  ((h.thenBringTally p.shift).thenSyncRow p.header old).thenWriteRow p.tally

theorem Stays.thenPlacePlan (h : Stays f s t) (p : Plans f) (r : Nat) (q : Plan) : Stays f s (placePlan r q t).1 := by
  unfold placePlan
  dsimp only
  split
  · exact ((h.thenUpdShift p.shift _).thenLog p.toJournals _ _ _ _ _).thenShowPlans p t
  · exact ((h.thenUpdShift p.shift _).thenLog p.toJournals _ _ _ _ _).thenShowPlans p t

/-- What the start of a shift needs of a scope. -/
structure Starts (f : Scope) : Prop extends Plans f where
  files : ∀ d, Files f d := by exact fun _ => {}
  calls : .calls ∈ f.blocks := by simp
  stations : ∀ n, .station n ∈ f.rows := by simp

theorem Stays.thenZeroRaisedShift (h : Stays f s t) (m : .calls ∈ f.blocks) (rows : ∀ n, .station n ∈ f.rows) :
    Stays f s (zeroRaisedShift t) := (h.thenCalls m _).thenWriteRows (map_subset_of rows)

theorem Stays.thenStartShift (h : Stays f s t) (p : Starts f) (r late : Nat) : Stays f s (startShift r late t) := by
  refine h.trans (Stays.shiftOnly ?_)
  have taken := ((((Stays.refl t).thenUpdShift p.shift (fun v => { v with current := v.pending, pending := none })).thenSyncRow
    p.header t).thenLog p.toJournals kindShift r ShiftState.running.code t.shift.unplanned late)
  exact ((((taken.thenUpdShift p.shift (·.started t.tenths t.partTime)).thenAttributionShiftStarts p.files).thenZeroRaisedShift
    p.calls p.stations).thenShowShift p.shift p.tally (p.files 0).zones _)

/-- What the close of a shift needs of a scope. -/
structure Closes (f : Scope) : Prop extends Paces f where
  files : ∀ d, Files f d := by exact fun _ => {}
  tally : .tally ∈ f.rows := by simp
  shiftHistory : ∀ i, .shiftHistory i ∈ f.rows := by simp

theorem Stays.thenFileShift (h : Stays f s t) (p : Closes f) (r : CloseReason) : Stays f s (fileShift r t) :=
  (h.thenUpdShift p.shift _).thenSyncRows (map_subset_of p.shiftHistory) t

theorem Stays.thenCloseShift (h : Stays f s t) (p : Closes f) (r : CloseReason) : Stays f s (closeShift r t) := by
  refine h.trans (Stays.shiftOnly ?_)
  unfold closeShiftStep
  dsimp only
  have filed : Stays f t (fileShift r (bringTally (bringPlanCount (attributionShiftCloses t)))) :=
    ((((Stays.refl t).thenAttributionShiftCloses p.files).thenUpdShift p.shift _).thenBringTally p.shift).thenFileShift p r
  generalize fileShift r (bringTally (bringPlanCount (attributionShiftCloses t))) = v at filed ⊢
  have paced : Stays f t (each ((List.finRange 8).filter fun z => v.shift.zoneBehind[z]) (crossPace false true) v) :=
    filed.thenEach fun z _ _ k => k.thenCrossPace p.toPaces false true z
  generalize each ((List.finRange 8).filter fun z => v.shift.zoneBehind[z]) (crossPace false true) v = u at paced ⊢
  generalize (if u.shift.next.isSome then ShiftState.pending else .idle) = after
  have logged := paced.thenLog p.toJournals kindShift (closeFlags r) after.code u.shift.actual u.shift.planCount
  have dropped := logged.thenUpdShift p.shift (fun x =>
    { x with current := none, pending := x.next, next := none, state := after, closeReason := some r })
  have follows := (p.files 0).toFollows
  refine Stays.thenWriteRows (Stays.thenAttributionReopens ?_ (fun d => (p.files d).toAttributes) _)
    (List.cons_subset.2 ⟨p.tally, map_subset_of (p.files 0).zones⟩)
  exact (dropped.thenSyncRow p.header _).thenFollow follows _

theorem Stays.thenCutShift (h : Stays f s t) (j : Journals f) : Stays f s (cutShift t) := by
  unfold cutShift
  split
  · exact h.thenLog j _ _ _ _ _
  · exact h

/-- What a timer of the open shift needs of a scope. -/
structure Breaks (f : Scope) : Prop extends Plans f where
  attributes : ∀ d, Attributes f d := by exact fun _ => {}
  settles : Settles f := by exact {}
  time : .time ∈ f.blocks := by simp

theorem Stays.thenBreakBegin (h : Stays f s t) (p : Breaks f) : Stays f s (breakBegin t) := by
  unfold breakBegin
  split
  · rename_i b _ _
    have reached := h.thenReach p.time (t.instantOfE (600 * b.offset.toNat))
    refine (reached.trans (Stays.shiftOnly ?_)).thenSettle p.settles t
    have brought := ((Stays.refl (t.reach (t.instantOfE (600 * b.offset.toNat)))).thenBringAll (p.attributes 0).attribution
      (p.attributes 0).zones fun d => (p.attributes d).openSlot).thenBringTally p.shift
    exact (((brought.thenUpdShift p.shift _).thenLog p.toJournals _ _ _ _ _).thenBreakBegins p.attributes _).thenWriteRow p.tally
  · exact h

theorem Stays.thenBreakEnd (h : Stays f s t) (p : Breaks f) : Stays f s (breakEnd t) := by
  unfold breakEnd
  split
  · rename_i b _ _
    have reached := h.thenReach p.time (t.instantOfE (600 * (b.offset.toNat + b.length.toNat)))
    refine (reached.trans (Stays.shiftOnly ?_)).thenSettle p.settles t
    have brought := ((Stays.refl (t.reach (t.instantOfE (600 * (b.offset.toNat + b.length.toNat))))).thenBringAll
      (p.attributes 0).attribution (p.attributes 0).zones fun d => (p.attributes d).openSlot).thenBringTally p.shift
    exact (((brought.thenUpdShift p.shift _).thenLog p.toJournals _ _ _ _ _).thenBreakEnds p.attributes).thenWriteRow p.tally
  · exact h

theorem Stays.thenPlannedEnd (h : Stays f s t) (p : Closes f) (k : Settles f) (m : .time ∈ f.blocks) :
    Stays f s (plannedEnd t) := by
  unfold plannedEnd
  split
  · rename_i q _ _
    have reached := h.thenReach m (t.instantOfE (600 * q.block.length.toNat))
    dsimp only
    split
    · exact (reached.thenCloseShift p .plannedEnd).thenSettle k t
    · refine (reached.trans (Stays.shiftOnly ?_)).thenSettle k t
      exact ((((Stays.refl _).thenBringTally p.shift).thenUpdShift p.shift _).thenLog p.toJournals _ _ _ _ _).thenWriteRow p.tally
  · exact h

theorem Stays.thenOvertimeLimit (h : Stays f s t) (p : Closes f) (k : Settles f) (m : .time ∈ f.blocks) :
    Stays f s (overtimeLimit t) := by
  unfold overtimeLimit
  split
  · exact ((h.thenReach m _).thenCloseShift p .overtimeLimit).thenSettle k t
  · exact h

/-- What a rise of the plan count needs of a scope. -/
structure Rises (f : Scope) : Prop extends Paces f, Settles f where
  tally : .tally ∈ f.rows := by simp

theorem Stays.thenRisePlan (h : Stays f s t) (p : Rises f) : Stays f s (risePlan t) := by
  refine h.trans (Stays.shiftOnly (Stays.thenShowShift ?_ p.shift p.tally p.zones _))
  exact (((Stays.refl t).thenUpdShift p.shift _).thenBringTally p.shift).thenEach fun z _ _ k => k.thenEvaluateZone p.toPaces z

theorem Stays.thenPlanRise (h : Stays f s t) (p : Rises f) (m : .time ∈ f.blocks) : Stays f s (planRise t) := by
  unfold planRise
  split
  · dsimp only
    split
    · split
      · exact (h.thenRisePlan p).thenSettle p.toSettles t
      · exact h
    · exact ((h.thenReach m _).thenRisePlan p).thenSettle p.toSettles t
  · exact h

theorem Stays.thenTallySecond (h : Stays f s t) (m : .shift ∈ f.blocks) (tally : .tally ∈ f.rows) (k : Settles f) :
    Stays f s (tallySecond t) := by
  unfold tallySecond
  split
  · exact (h.thenShowShift m tally k.zones _).thenSettle k t
  · exact h

theorem Stays.thenShiftTransfer (h : Stays f s t) (p : Closes f) (z : Fin 8) : Stays f s (shiftTransfer z t) := by
  unfold shiftTransfer
  split
  · have counted (u : State) (k : Stays f s u) : Stays f s
        (if u.shift.state = .overtime ∧ u.target ≤ u.shift.actual then closeShift .targetReached u
         else Machine.shiftOnly u (showShift [z] (evaluateZone z u))) := by
      split
      · exact k.thenCloseShift p .targetReached
      · exact k.trans
          (((Stays.refl _).thenEvaluateZone p.toPaces z).thenShowShift p.shift p.tally (p.files 0).zones _).shiftOnly
    have follows := (p.files 0).toFollows
    refine counted _ ?_
    exact (h.thenUpdShift p.shift _).thenFollow follows t
  · split
    · exact (h.thenUpdShift p.shift _).thenWriteRow p.tally
    · exact h

theorem Stays.thenClockAdvance (h : Stays f s t) (p : Starts f) (k : Settles f) (m : .time ∈ f.blocks) :
    Stays f s (clockAdvance t) := by
  unfold clockAdvance
  split
  · have ticked := ((h.thenReach m t.shift.clock.nextAdvance).thenUpdShift p.shift
      (fun v => { v with clock := v.clock.tick })).thenWriteRow p.header
    have started (due : Bool) {u : State} (k : Stays f s u) : Stays f s (if due then startShift 3 0 u else u) := by
      split
      · exact k.thenStartShift p 3 0
      · exact k
    exact (started _ ticked).thenSettle k t
  · exact h

end Sys2Proof.Machine
end

section
/-! Proofs for what every command leaves and keeps: the rules of `Stays` for zone service, the call table and the call loop
(chapters 2 to 4). -/

namespace Sys2Proof.Machine

variable {f : Scope} {s t : State}

/-! ### Zone service (section 2.7) -/

/-- What a change of a zone's service needs of a scope. -/
structure Services (f : Scope) : Prop where
  demands : ∀ d, Demands f d := by exact fun _ => {}
  service : .service ∈ f.blocks := by simp
  driveRows : ∀ d, .drive d ∈ f.rows := by simp

theorem Services.attributes (v : Services f) (d : Fin 8) : Attributes f d := (v.demands d).toAttributes
theorem Services.journals (v : Services f) : Journals f := (v.attributes 0).toJournals
theorem Services.follows (v : Services f) : Follows f := (v.attributes 0).toFollows

theorem Stays.thenChangeService (h : Stays f s t) (v : Services f) (z : Fin 8) (x : Service) (k : Option (Fin 24)) (n b : Nat) :
    Stays f s (changeService z x k n b t) := by
  have m := (v.attributes 0).attribution
  have shown : Stays f s (match t.zoneDrive z with
      | some d => showOpen d (accrue z t)
      | none => accrue z t) := by
    split
    · exact (h.thenAccrue m z).thenShowOpen m (v.attributes _).openSlot
    · exact h.thenAccrue m z
  exact ((shown.thenService v.service _ _ _).thenWriteRow (v.follows.zones z)).thenLog v.journals _ _ _ _ _

theorem Stays.thenAddLostPanels (h : Stays f s t) (v : Services f) (z : Fin 8) : Stays f s (addLostPanels z t) := by
  unfold addLostPanels
  split
  · exact h
  · split
    · exact h
    · exact h.thenEach fun p _ _ k => k.thenAddPanelDemand v.demands p z

theorem State.driveRow_subset {rows : List Row} (s : State) (z : Fin 8) (h : ∀ d, .drive d ∈ rows) : s.driveRow z ⊆ rows := by
  intro r hr
  simp only [State.driveRow, Option.mem_toList, Option.map_eq_some_iff] at hr
  obtain ⟨d, -, rfl⟩ := hr
  exact h d

theorem Stays.thenEnterService (h : Stays f s t) (v : Services f) (z : Fin 8) (b : Nat) : Stays f s (enterService z b t) :=
  h.trans (Stays.serviceOnly ((((((Stays.refl t).thenChangeService v z .inService none 0 b).thenZoneJoins v.attributes
    z).thenFollow v.follows t).thenAddLostPanels v z).thenSyncRows (t.driveRow_subset z v.driveRows) t))

/-- What a zone that leaves service needs besides: its drive's record may close. -/
structure Leaves (f : Scope) : Prop extends Services f where
  history : ∀ i, .history i ∈ f.rows := by simp

theorem Leaves.files (v : Leaves f) (d : Fin 8) : Files f d := { v.attributes d with history := v.history }

theorem Stays.thenLeaveService (h : Stays f s t) (v : Leaves f) (z : Fin 8) : Stays f s (leaveService z t) :=
  h.trans (Stays.serviceOnly (((((Stays.refl t).thenChangeService v.toServices z .outOfService none 0 2).thenZoneLeft v.files
    z).thenFollow v.follows t).thenRemoveZoneDemands v.demands v.driveRows z))

theorem Stays.thenBeginDrain (h : Stays f s t) (v : Services f) (z : Fin 8) (k : Fin 24) : Stays f s (beginDrain z k t) :=
  h.trans (Stays.serviceOnly ((((Stays.refl t).thenChangeService v z .draining (some k) (t.openIn z) 2).thenFollow v.follows
    t).thenRemoveZoneDemands v.demands v.driveRows z))

/-- What the end of a drain needs besides: its order ends. -/
structure Drains (f : Scope) : Prop extends Leaves f where
  ends : Ends f := by exact {}

theorem Stays.thenReportClosing (h : Stays f s t) (v : Drains f) (z : Fin 8) : Stays f s (reportClosing z t) := by
  unfold reportClosing
  split
  · refine h.trans (Stays.serviceOnly ?_)
    have left := (((Stays.refl t).thenChangeService v.toServices z .outOfService none 0 3).thenZoneLeft v.files
      z).thenFollow v.follows t
    split
    · exact left.thenEndLong v.ends _ _
    · exact left
  · exact h

theorem Stays.thenAbortDrain (h : Stays f s t) (v : Services f) (z : Fin 8) : Stays f s (abortDrain z t) :=
  h.trans (Stays.serviceOnly ((((Stays.refl t).thenChangeService v z .inService none 0 4).thenFollow v.follows
    t).thenAddLostPanels v z))

/-! ### The call table (chapter 4) -/

theorem Stays.thenUpdStation (h : Stays f s t) (m : .calls ∈ f.blocks) (n : Fin 160) (g : Station → Station) :
    Stays f s (updStation n g t) := h.thenCalls m _

/-- What a press of a kind needs of a scope. -/
structure Raising (f : Scope) : Prop extends Calls f where
  follows : Follows f := by exact {}
  shift : .shift ∈ f.blocks := by simp
  tally : .tally ∈ f.rows := by simp

theorem Stays.thenCountRaised (h : Stays f s t) (c : Raising f) (n : Fin 160) : Stays f s (countRaised n t) := by
  unfold countRaised
  split
  · exact ((h.thenUpdStation c.calls n _).thenUpdShift c.shift _).thenShowShift c.shift c.tally c.follows.zones []
  · exact h

theorem Stays.thenOpenCall (h : Stays f s t) (c : Raising f) (n : Fin 160) (z : Fin 8) (k : Kind) (o : Origin) :
    Stays f s (openCall n z k o t) :=
  ((((h.thenSetCall c.calls n k _).thenCalls c.calls _).thenCountRaised c n).thenLog c.toJournals _ _ _ _ _).thenFollow c.follows t

theorem Stays.thenRepeatCall (h : Stays f s t) (c : Raising f) (n : Fin 160) (k : Kind) (o : Origin) (x : Call) :
    Stays f s (repeatCall n k o x t) := by
  unfold repeatCall
  have counted := h.thenUpdCall c.calls n k fun c => { c with repeats := satAdd 255 c.repeats 1 }
  refine (Stays.thenLog ?_ c.toJournals _ _ _ _ _).thenFollow c.follows t
  split
  · exact counted
  · exact counted.thenEscalateRepeat c.toCalls n k

theorem Stays.thenKindPress (h : Stays f s t) (c : Raising f) (n : Fin 160) (z : Fin 8) (k : Kind) (o : Origin) :
    Stays f s (kindPress n z k o t) := by
  unfold kindPress
  split
  · exact h.thenOpenCall c n z k o
  · exact h.thenRepeatCall c n k o _

theorem Stays.thenAnswerOne (h : Stays f s t) (c : Calls f) (a : ∀ d, Demands f d) (n : Fin 160) (z : Fin 8) (k : Kind)
    (x : Nat) (y : Call) : Stays f s (answerOne n z k x y t) :=
  ((((h.thenUpdCall c.calls n k _).thenAlertCounts c.alerts).thenAnswerStop a c.calls _ z).thenLog c.toJournals _ _ _ _
    _).thenFollow (a 0).toFollows t

theorem Stays.thenClearOne (h : Stays f s t) (c : Calls f) (v : Drains f) (n : Fin 160) (z : Fin 8) (k : Kind) (x : Nat)
    (y : Call) : Stays f s (clearOne n z k x y t) :=
  ((((((h.thenClearStop v.demands _ z).thenLog c.toJournals _ _ _ _ _).thenSetCall c.calls n k none).thenCalls c.calls
    _).thenAlertCounts c.alerts).thenFollow v.follows t).thenReportClosing v z

theorem Stays.thenRewriteCallRows (h : Stays f s t) {n : Fin 160} {groups : List Row} (station : .station n ∈ f.rows)
    (m : groups ⊆ f.rows) (rows : ∀ d, .drive d ∈ f.rows) (old : State) (z : Fin 8) :
    Stays f s (rewriteCallRows old n groups z t) :=
  (h.thenWriteRows (List.cons_subset.2 ⟨station, m⟩)).thenSyncRows (old.driveRow_subset z rows) old

theorem groupRow_subset {rows : List Row} (g : Nat) (h : ∀ g, .group g ∈ rows) : groupRow g ⊆ rows := by
  unfold groupRow
  split
  · simpa using h _
  · simp

theorem State.pressGroup_subset {rows : List Row} (s : State) (n : Fin 160) (k : Kind) (h : ∀ g, .group g ∈ rows) :
    s.pressGroup n k ⊆ rows := by
  unfold State.pressGroup
  split
  · exact groupRow_subset _ h
  · split
    · simp
    · exact groupRow_subset _ h

/-- What a press of a panel needs of a scope (R57). -/
structure Presses (f : Scope) : Prop extends Raising f, Settles f where
  drains : Drains f := by exact {}
  stations : ∀ n, .station n ∈ f.rows := by simp
  groups : ∀ g, .group g ∈ f.rows := by simp

theorem Stays.thenIgnorePress (h : Stays f s t) (c : Presses f) (n : Fin 160) : Stays f s (ignorePress n t) :=
  (h.thenUpdStation c.calls n _).thenWriteRow (c.stations n)

theorem Stays.thenKeyPress (h : Stays f s t) (c : Presses f) (n : Fin 160) (z : Fin 8) : Stays f s (keyPress n z t) :=
  h.thenEach fun x _ _ k => by
    split
    · exact k.thenClearOne c.toCalls c.drains n z _ _ _
    · exact k.thenAnswerOne c.toCalls c.drains.demands n z _ _ _

theorem Stays.thenPressStep (h : Stays f s t) (c : Presses f) (n : Fin 160) (i : PressInput) : Stays f s (pressStep n i t) := by
  unfold pressStep
  split
  · exact h.thenIgnorePress c n
  · split
    · exact h.thenIgnorePress c n
    · exact h.thenIgnorePress c n
    · exact (h.thenKindPress c.toRaising n _ _ _).thenRewriteCallRows (c.stations n) (t.pressGroup_subset n _ c.groups)
        c.drains.driveRows t _
    · split
      · exact h.thenIgnorePress c n
      · exact (h.thenKeyPress c n _).thenRewriteCallRows (c.stations n) (map_subset_of c.groups) c.drains.driveRows t _

theorem Stays.thenPress (h : Stays f s t) (c : Presses f) (n : Fin 160) (i : PressInput) : Stays f s (press n i t) :=
  h.trans (((Stays.refl t).thenPressStep c n i).thenSettle c.toSettles t).callsOnly

theorem Stays.thenForceClears (h : Stays f s t) (c : Calls f) (v : Drains f) (stations : ∀ n, .station n ∈ f.rows)
    (groups : ∀ g, .group g ∈ f.rows) (z : Fin 8) : Stays f s (forceClears z t) := by
  refine h.trans (Stays.callsOnly (Stays.thenSyncRows ?_ ?_ t))
  · refine (Stays.refl t).thenEach fun r _ u k => ?_
    unfold clearRef
    split
    · exact k.thenClearOne c v _ z _ _ _
    · exact k
  · exact List.append_subset.2 ⟨List.append_subset.2 ⟨map_subset_of stations, map_subset_of groups⟩,
      t.driveRow_subset z v.driveRows⟩

/-! ### The call loop (chapter 3) -/

theorem Stays.thenUpdPanel (h : Stays f s t) (m : .loop ∈ f.blocks) (p : Fin 40) (g : Panel → Panel) :
    Stays f s (updPanel p g t) := h.thenLoop m _

theorem Stays.thenSetPoll (h : Stays f s t) (m : .loop ∈ f.blocks) (q : Option Poll) : Stays f s (setPoll q t) :=
  h.thenLoop m _

theorem Stays.thenSendAttempt (h : Stays f s t) (m : .loop ∈ f.blocks) (p : Fin 40) (a : Nat) (b : Bool) :
    Stays f s (sendAttempt p a b t) := h.thenSetPoll m _

theorem Stays.thenPollSend (h : Stays f s t) (m : .loop ∈ f.blocks) : Stays f s (pollSend t) := by
  unfold pollSend
  split
  · exact h
  · split
    · exact (h.thenUpdPanel m _ _).thenSendAttempt m _ _ _
    · split
      · exact (h.thenLoop m _).thenSendAttempt m _ _ _
      · exact h

theorem Stays.thenLostPollDue (h : Stays f s t) (m : .loop ∈ f.blocks) (time : .time ∈ f.blocks) (p : Fin 40) :
    Stays f s (lostPollDue p t) := by
  unfold lostPollDue
  dsimp only
  split
  · exact (h.thenReach time _).thenUpdPanel m p _
  · exact h

/-- What a change of a panel's state needs of a scope. -/
structure Panels (f : Scope) : Prop where
  demands : ∀ d, Demands f d := by exact fun _ => {}
  loop : .loop ∈ f.blocks := by simp
  calls : .calls ∈ f.blocks := by simp
  panels : ∀ p, .panel p ∈ f.rows := by simp
  stations : ∀ n, .station n ∈ f.rows := by simp
  driveRows : ∀ d, .drive d ∈ f.rows := by simp

theorem Panels.journals (v : Panels f) : Journals f := (v.demands 0).toJournals

theorem Stays.thenMarkPanelLost (h : Stays f s t) (m : .calls ∈ f.blocks) (p : Fin 40) (b : Bool) :
    Stays f s (markPanelLost p b t) := h.thenEach fun n _ _ k => k.thenUpdStation m n _

theorem Stays.thenSetPanelLost (h : Stays f s t) (m : .calls ∈ f.blocks) (rows : ∀ n, .station n ∈ f.rows) (p : Fin 40)
    (b : Bool) : Stays f s (setPanelLost p b t) := (h.thenMarkPanelLost m p b).thenWriteRows (map_subset_of rows)

theorem Stays.thenAddDemands (h : Stays f s t) (a : ∀ d, Demands f d) (p : Fin 40) (zs : List (Fin 8)) :
    Stays f s (addDemands p zs t).1 := by
  unfold addDemands
  generalize 0 = n
  induction zs generalizing t n with
  | nil => exact h
  | cons z zs ih => exact ih (h.thenAddPanelDemand a p z) _

theorem Stays.thenEnterLost (h : Stays f s t) (v : Panels f) (p : Fin 40) (x : PanelState) : Stays f s (enterLost p x t) :=
  (((((h.thenUpdPanel v.loop p _).thenAddDemands v.demands p _).thenSyncRows (map_subset_of v.driveRows) t).thenSetPanelLost
    v.calls v.stations p true).thenLog v.journals _ _ _ _ _).thenRaise v.journals.interrupts .fault

theorem Stays.thenRecoverPanel (h : Stays f s t) (v : Panels f) (p : Fin 40) (x : PanelState) : Stays f s (recoverPanel p x t) :=
  (((h.thenUpdPanel v.loop p _).thenLog v.journals _ _ _ _ _).thenRemovePanelDemands v.demands v.driveRows p).thenSetPanelLost
    v.calls v.stations p false

theorem Stays.thenJudgePanel (h : Stays f s t) (v : Panels f) (k : Settles f) (p : Fin 40) (b : Bool) :
    Stays f s (judgePanel p b t) := by
  unfold judgePanel
  dsimp only
  split
  · exact h
  · split
    · exact (h.thenEnterLost v p _).thenSettle k t
    · split
      · exact (h.thenRecoverPanel v p _).thenSettle k t
      · exact (h.thenUpdPanel v.loop p _).thenLog v.journals _ _ _ _ _

/-- What an accepted answer needs of a scope: its presses and the change of its panel. -/
structure Answering (f : Scope) : Prop extends Presses f where
  panels : Panels f := by exact {}

theorem Stays.thenTakePress (h : Stays f s t) (v : Answering f) (p : Fin 40) (e : PanelEvent) : Stays f s (takePress p e t) := by
  unfold takePress
  have taken := h.thenUpdPanel v.panels.loop p fun v => { v with last := e.number, base := true }
  dsimp only
  split
  · unfold pressAt
    split
    · exact taken.thenPress v.toPresses _ _
    · exact taken
  · exact taken

theorem Stays.thenTakeEvent (h : Stays f s t) (v : Answering f) (p : Fin 40) (e : PanelEvent) : Stays f s (takeEvent p e t) := by
  unfold takeEvent
  dsimp only
  split
  · exact h.thenTakePress v p e
  · split
    · exact h
    · split
      · exact h.thenTakePress v p e
      · exact ((h.thenUpdPanel v.panels.loop p _).thenLog v.toJournals _ _ _ _ _).thenTakePress v p e

/-- The end of a poll up to its events (R43). -/
theorem Stays.thenFailedPoll (h : Stays f s t) (v : Panels f) (k : Settles f) (q : Poll) : Stays f s (endPoll q none t) := by
  unfold endPoll
  have ended := h.thenSetPoll v.loop none
  dsimp only
  split
  · exact ended
  · exact (((ended.thenUpdPanel v.loop _ _).thenJudgePanel v k _ _).thenUpdPanel v.loop _ _).thenWriteRow (v.panels _)

theorem Stays.thenAcceptedPoll (h : Stays f s t) (v : Answering f) (q : Poll) (a : Accepted) :
    Stays f s (endPoll q (some a) t) := by
  unfold endPoll
  have ended := h.thenSetPoll v.panels.loop none
  dsimp only
  split
  · exact ended
  · have taken := ((ended.thenUpdPanel v.panels.loop q.panel (fun v => v.record true q.lamps)).thenJudgePanel v.panels
      v.toSettles q.panel true).thenEach fun e (_ : e ∈ a.events) _ k => k.thenTakeEvent v q.panel e
    refine (Stays.thenUpdPanel ?_ v.panels.loop _ _).thenWriteRow (v.panels.panels _)
    split
    · exact (taken.thenUpdPanel v.panels.loop _ _).thenLog v.toJournals _ _ _ _ _
    · exact taken

theorem Stays.thenFailAttempt (h : Stays f s t) (v : Panels f) (k : Settles f) (q : Poll) : Stays f s (failAttempt q t) := by
  unfold failAttempt
  split
  · exact h.thenSendAttempt v.loop _ _ _
  · exact h.thenFailedPoll v k q

theorem Stays.thenPanelAnswer (h : Stays f s t) (v : Answering f) (x : PanelFrame) : Stays f s (panelAnswer x t) := by
  unfold panelAnswer
  split
  · split
    · exact h
    · refine h.trans (Stays.loopOnly ?_)
      split
      · exact (Stays.refl t).thenAcceptedPoll v _ _
      · unfold countMismatch
        split
        · exact (Stays.refl t).thenFailAttempt v.panels v.toSettles _
        · exact ((Stays.refl t).thenUpdPanel v.panels.loop _ _).thenFailAttempt v.panels v.toSettles _
  · exact h

theorem Stays.thenResponseTimeout (h : Stays f s t) (v : Panels f) (k : Settles f) (m : .time ∈ f.blocks) :
    Stays f s (responseTimeout t) := by
  unfold responseTimeout
  split
  · exact (h.thenReach m _).trans ((Stays.refl _).thenFailAttempt v k _).loopOnly
  · exact h

theorem Stays.thenFitPanel (h : Stays f s t) (v : Panels f) (p : Fin 40) : Stays f s (fitPanel p t) :=
  ((h.thenUpdPanel v.loop p _).thenLog v.journals _ _ _ _ _).thenWriteRow (v.panels p)

theorem Stays.thenUnfitPanel (h : Stays f s t) (v : Panels f) (p : Fin 40) : Stays f s (unfitPanel p t) := by
  unfold unfitPanel
  have voided := (h.thenUpdPanel v.loop p fun v => { v with state := .unfitted, dueAt := none, due := false }).thenSetPoll
    v.loop ((updPanel p (fun v => { v with state := .unfitted, dueAt := none, due := false }) t).loop.poll.map fun q =>
      if q.panel = p then { q with void := true } else q)
  dsimp only
  split
  · exact (((voided.thenLog v.journals _ _ _ _ _).thenRemovePanelDemands v.demands v.driveRows p).thenMarkPanelLost v.calls p
      false).thenWriteRow (v.panels p)
  · exact (voided.thenLog v.journals _ _ _ _ _).thenWriteRow (v.panels p)

theorem Stays.thenRefitPanels (h : Stays f s t) (v : Panels f) : Stays f s (refitPanels t) := by
  refine h.trans (Stays.fittingOnly ((Stays.refl t).thenEach fun p _ u k => ?_))
  unfold refitPanel
  dsimp only
  split
  · exact k.thenFitPanel v p
  · split
    · exact k.thenUnfitPanel v p
    · exact k

end Sys2Proof.Machine
end

section
/-! Proofs for what every command leaves and keeps: the rules of `Stays` for the setup unit, the boards and the plan store
(chapters 2, 9 and 11). -/

namespace Sys2Proof.Machine

variable {f : Scope} {s t : State}

/-! ### The setup unit (chapter 2) -/

/-- What a setup-changing order needs of a scope. -/
structure Defines (f : Scope) : Prop where
  definitions : .definitions ∈ f.blocks := by simp
  opens : f.setup = true := by simp

theorem Stays.thenUpdSetup (h : Stays f s t) (d : Defines f) (g : Setup → Setup)
    (service : (g t.setup).service = t.setup.service ∧ (g t.setup).drainSlot = t.setup.drainSlot
      ∧ (g t.setup).drainCalls = t.setup.drainCalls := by exact ⟨rfl, rfl, rfl⟩)
    (lockdown : t.setup.lockdown = true → (g t.setup).lockdown = true := by exact id) : Stays f s (updSetup g t) :=
  h.thenSetup d.definitions d.opens _ service lockdown

theorem Stays.thenApplyDrive (h : Stays f s t) (d : Defines f) (m : .drives ∈ f.blocks) {i : Fin 8} (row : .drive i ∈ f.rows)
    (x : DriveDef) : Stays f s (applyDrive i x t) := by
  have defined := h.thenUpdSetup d fun v => { v with drives := upd v.drives i fun _ => some x }
  exact (defined.thenUpdDrive m i _).thenWriteRow row

theorem Stays.thenAdjustBuffer (h : Stays f s t) (a : ∀ d, Attributes f d) (m : .buffers ∈ f.blocks) {k : Fin 7}
    (row : .buffer k ∈ f.rows) (old : State) : Stays f s (adjustBuffer old k t) := by
  unfold adjustBuffer
  have counted := fun n : Nat => h.thenUpdBuffer m k fun b => { b with count := n }
  refine Stays.thenSyncRow ?_ row old
  generalize (if (old.bufferExists k && t.bufferExists k) = true then min (t.bufferCount k) (t.bufferCapacity k) else 0) = n
  split
  · exact counted n
  · exact (counted n).thenBufferChanged a k

/-- What a zone's definition needs of a scope (R26). -/
structure DefinesZone (f : Scope) : Prop extends Defines f where
  panels : Panels f := by exact {}
  shift : .shift ∈ f.blocks := by simp
  buffers : .buffers ∈ f.blocks := by simp
  bufferRows : ∀ k, .buffer k ∈ f.rows := by simp

theorem Stays.thenApplyZone (h : Stays f s t) (d : DefinesZone f) (z : Fin 8) (x : Option ZoneDef) :
    Stays f s (applyZone z x t) := by
  have attributes := fun i => (d.panels.demands i).toAttributes
  have follows := (attributes 0).toFollows
  refine h.trans (Stays.setupOnly (Stays.thenWriteRows ?_ (map_subset_of d.panels.stations)))
  refine Stays.thenRefitPanels (Stays.thenEach ?_ fun k _ _ step => step.thenAdjustBuffer attributes d.buffers (d.bufferRows k) t)
    d.panels
  have defined := (Stays.refl t).thenUpdSetup d.toDefines fun v => { v with zones := upd v.zones z fun _ => x }
  exact (defined.thenWriteRow (follows.zones z)).thenFollow follows t

theorem Stays.thenDefineZone (h : Stays f s t) (d : DefinesZone f) (q : ZoneParams) : Stays f s (defineZone q t).1 := by
  unfold defineZone
  split
  · exact h
  · rename_i z _
    split
    · unfold removeZone dropPace
      split
      · exact h
      · split
        · exact h
        · split
          · exact h
          · have dropped := h.thenUpdShift d.shift fun v => { v with
              zoneBehind := upd v.zoneBehind z fun _ => false, zonePace := upd v.zonePace z fun _ => none }
            exact dropped.thenApplyZone d z none
    · split
      · exact h
      · split
        · exact h
        · split
          · exact h
          · exact (h.thenBringZonePace d.shift z).thenApplyZone d z _

/-- The protection check hands the order on or refuses it (R21); where the setup may not change, lockdown refuses it. -/
theorem Stays.thenGuarded (h : Stays f s t) {perform : Perform} (shut : f.setup = true ∨ t.setup.lockdown = true)
    (k : f.setup = true → Stays f s (perform t).1) : Stays f s (guarded perform t).1 := by
  unfold guarded
  rcases shut with opens | locked
  · split
    · exact h
    · exact k opens
  · simpa only [State.protection, locked, if_true] using h

theorem Stays.thenDefineDrive (h : Stays f s t) (d : Defines f) (m : .drives ∈ f.blocks) {q : DriveParams}
    (rows : rowOf Row.drive q.drive ⊆ f.rows) : Stays f s (defineDrive q t).1 := by
  unfold defineDrive
  split
  · rename_i i _ named
    split
    · exact h
    · exact h.thenApplyDrive d m (rows (by simp [rowOf, named])) _
  · exact h
  · exact h

theorem Stays.thenBindStations (h : Stays f s t) (d : Defines f) {q : BindParams}
    (rows : (stationRun q.first.toNat q.count.toNat).map Row.station ⊆ f.rows) : Stays f s (bindStations q t).1 := by
  unfold bindStations
  split
  · exact h
  · split
    · exact h
    · exact (h.thenUpdSetup d fun v => { v with
        bindings := each (stationRun q.first.toNat q.count.toNat) (fun n b => upd b n fun _ => bindingOf q n) v.bindings }).thenWriteRows
        rows

theorem Stays.thenDefineGroup (h : Stays f s t) (d : Defines f) {q : GroupParams} (rows : rowOf Row.group q.group ⊆ f.rows) :
    Stays f s (defineGroup q t).1 := by
  unfold defineGroup
  split
  · rename_i g _ named
    dsimp only
    split
    · exact h
    · exact (h.thenUpdSetup d fun v => { v with ladders := upd v.ladders g fun _ => ladderOf q }).thenWriteRow
        (rows (by simp [rowOf, named]))
  · exact h
  · exact h

theorem Stays.thenDefineText (h : Stays f s t) (d : Defines f) {q : TextParams}
    (ranges : ((index? 64 q.entry.toNat).map textRange).toList ⊆ f.ranges) : Stays f s (defineText q t).1 := by
  unfold defineText
  split
  · exact h
  · rename_i e named
    split
    · exact h
    · exact (h.thenUpdSetup d fun v => { v with texts := upd v.texts e fun _ => q.chars }).thenWriteText
        (ranges (by simp [named]))

theorem Stays.thenSetLoopTiming (h : Stays f s t) (m : .loop ∈ f.blocks) (opens : f.setup = true) (x : Byte) :
    Stays f s (setLoopTiming x t).1 := by
  unfold setLoopTiming
  split
  · exact h.thenLoop m _ fun closed => by simp [opens] at closed
  · exact h

theorem Stays.thenSetSetupProtection (h : Stays f s t) (d : Defines f) (x : Byte) : Stays f s (setSetupProtection x t).1 := by
  unfold setSetupProtection
  split
  · exact h
  · exact h.thenUpdSetup d fun v => { v with keyed := x == 1 }

theorem Stays.thenLockSetup (h : Stays f s t) (d : Defines f) (j : Journals f) : Stays f s (lockSetup t).1 :=
  Stays.thenLog (h.thenUpdSetup d (fun v => { v with lockdown := true }) ⟨rfl, rfl, rfl⟩ fun _ => rfl) j _ _ _ _ _

/-! ### Boards and links (chapter 9) -/

/-- A change of the display links. -/
theorem Stays.thenBoards (h : Stays f s t) (x : Boards) (m : .boards ∈ f.blocks)
    (rendering : .rendering ∈ f.blocks ∨ Block.same t { t with brd := x } .rendering)
    (setup : f.setup = false → SameSetup t { t with brd := x }) : Stays f s { t with brd := x } := by
  refine h.trans (.of_quiet (fun b n => ?_) rfl rfl rfl rfl rfl rfl rfl id setup (.of_eq rfl))
  cases b
  case rendering => exact rendering.resolve_left n
  all_goals simp_all [Block.same, serviceOf]

theorem updBoard_board (b c : Fin 16) (g : Board → Board) (s : State) :
    (updBoard b g s).brd.boards[c] = if c = b then g s.brd.boards[c] else s.brd.boards[c] := by
  simp only [updBoard, upd_getElem]

/-- A change of one board that leaves its definition and its entries. -/
theorem Stays.thenUpdBoard (h : Stays f s t) (m : .boards ∈ f.blocks) (b : Fin 16) (g : Board → Board)
    (rendering : .rendering ∈ f.blocks ∨ (∀ v, (g v).content = v.content ∧ (g v).stale = v.stale))
    (setup : ∀ v, (g v).definition = v.definition ∧ (g v).entries = v.entries := by exact fun _ => ⟨rfl, rfl⟩) :
    Stays f s (updBoard b g t) := by
  refine h.thenBoards _ m (rendering.imp_right fun keeps c => ?_) fun _ => { SameSetup.refl t with boards := fun c => ?_ }
  · have board := updBoard_board b c g t
    simp only [updBoard] at board
    rw [board]
    split
    · exact keeps _
    · exact ⟨rfl, rfl⟩
  · have board := updBoard_board b c g t
    simp only [updBoard] at board
    show (_ : Option BoardDef) = _ ∧ (_ : Vector (Option FieldEntry) 32) = _
    rw [board]
    split
    · exact setup _
    · exact ⟨rfl, rfl⟩

theorem Stays.thenUpdLink (h : Stays f s t) (m : .boards ∈ f.blocks) (l : Fin 2) (g : Link → Link) :
    Stays f s (updLink l g t) :=
  h.thenBoards _ m (.inr fun _ => ⟨rfl, rfl⟩) fun _ => { SameSetup.refl t with }

/-- What the display links need of a scope. -/
structure Links (f : Scope) : Prop extends Journals f where
  boards : .boards ∈ f.blocks := by simp
  rendering : .rendering ∈ f.blocks := by simp

theorem Stays.thenChangeLinkState (h : Stays f s t) (k : Links f) (b : Fin 16) (x : LinkState) (n : Nat) :
    Stays f s (changeLinkState b x n t) :=
  ((h.thenUpdBoard k.boards b _ (.inl k.rendering)).thenLog k.toJournals _ _ _ _ _).thenRaiseIf k.interrupts _ _

theorem Stays.thenEnterOnline (h : Stays f s t) (k : Links f) (b : Fin 16) (n : Nat) : Stays f s (enterOnline b n t) :=
  (h.thenUpdBoard k.boards b (fun v => { v.allStale with
    refreshAt := some (t.ms + 1000 * t.brd.refresh), probeAt := none, probeDue := false, resetUnsent := false,
    resetSlot := none }) (.inl k.rendering) fun v => by simp only [Board.allStale, and_self]).thenChangeLinkState k b .online n

theorem Stays.thenEnterFault (h : Stays f s t) (k : Links f) (b : Fin 16) (n : Nat) : Stays f s (enterFault b n t) :=
  (h.thenUpdBoard k.boards b _ (.inl k.rendering)).thenChangeLinkState k b .fault n

theorem Stays.thenEnterSearching (h : Stays f s t) (k : Links f) (b : Fin 16) (n : Nat) : Stays f s (enterSearching b n t) :=
  (h.thenUpdBoard k.boards b _ (.inl k.rendering)).thenChangeLinkState k b .searching n

theorem Stays.thenAbandonFrame (h : Stays f s t) (m : .boards ∈ f.blocks) (b : Fin 16) : Stays f s (abandonFrame b t) :=
  h.thenBoards _ m (.inr fun _ => ⟨rfl, rfl⟩) fun _ => { SameSetup.refl t with }

theorem Stays.thenEndFrame (h : Stays f s t) (k : Links f) (l : Fin 2) (b : Fin 16) (x : FrameKind) (ok : Bool) :
    Stays f s (endFrame l b x ok t) := by
  unfold endFrame
  have freed := h.thenUpdLink k.boards l fun v => { v with frame := none }
  dsimp only
  split
  · exact freed.thenUpdBoard k.boards b _ (.inl k.rendering)
  · exact freed.thenEnterFault k b 4
  · exact freed.thenEnterOnline k b 3
  · exact freed.thenUpdBoard k.boards b _ (.inl k.rendering)
  · exact freed

theorem Stays.thenCountSent (h : Stays f s t) (k : Links f) (b : Fin 16) : Stays f s (countSent b t) :=
  h.thenUpdBoard k.boards b _ (.inl k.rendering)

theorem Stays.thenSendFrame (h : Stays f s t) (k : Links f) (l : Fin 2) (b : Fin 16) (x : FrameKind) (n : Nat) :
    Stays f s (sendFrame l b x n t) := (h.thenCountSent k b).thenUpdLink k.boards l _

theorem Stays.thenStartFrame (h : Stays f s t) (k : Links f) (l : Fin 2) (b : Fin 16) (x : FrameKind) :
    Stays f s (startFrame l b x t) := by
  unfold startFrame
  split
  · exact (h.thenCountSent k b).thenEndFrame k l b x true
  · exact h.thenSendFrame k l b x 1

theorem Stays.thenSendReset (h : Stays f s t) (k : Links f) (l : Fin 2) (b : Fin 16) : Stays f s (sendReset l b t) :=
  ((h.thenCountSent k b).thenUpdBoard k.boards b _ (.inl k.rendering)).thenUpdLink k.boards l _

theorem Stays.thenLinkChoose (h : Stays f s t) (k : Links f) (rows : ∀ b, .board b ∈ f.rows) (l : Fin 2) :
    Stays f s (linkChoose l t) := by
  unfold linkChoose
  split
  · exact h
  · refine h.trans (Stays.boardOnly ?_)
    unfold linkChooseStep
    split
    · exact ((Stays.refl t).thenSendReset k l _).thenSyncRow (rows _) t
    · split
      · refine Stays.thenSyncRow (Stays.thenStartFrame ?_ k l _ _) (rows _) t
        exact ((Stays.refl t).thenUpdLink k.boards l _).thenUpdBoard k.boards _ _ (.inl k.rendering)
      · exact Stays.refl t

theorem Stays.thenFailFrame (h : Stays f s t) (k : Links f) (l : Fin 2) (o : Outstanding) : Stays f s (failFrame l o t) := by
  unfold failFrame
  split
  · exact h.thenSendFrame k l _ _ _
  · exact h.thenEndFrame k l _ _ false

theorem Stays.thenEndReset (h : Stays f s t) (e : Ends f) (k : Option (Fin 24)) (a : Answer) : Stays f s (endReset k a t) := by
  unfold endReset
  split
  · exact h.thenEndLong e _ a
  · exact h

theorem Stays.thenResetReady (h : Stays f s t) (k : Links f) (e : Ends f) (l : Fin 2) (b : Fin 16) :
    Stays f s (resetReady l b t) :=
  ((h.thenUpdLink k.boards l _).thenEnterOnline k b 6).thenEndReset e _ _

theorem Stays.thenBoardReply (h : Stays f s t) (k : Links f) (e : Ends f) (rows : ∀ b, .board b ∈ f.rows) (l : Fin 2)
    (x : BoardFrame) : Stays f s (boardReply l x t) := by
  unfold boardReply
  have start := Stays.refl (f := f) t
  split
  · refine h.trans (Stays.boardOnly (Stays.thenSyncRow ?_ (rows _) t))
    split
    · unfold judgeReady
      split
      · exact start.thenUpdBoard k.boards _ _ (.inl k.rendering)
      · split
        · exact start.thenResetReady k e l _
        · exact start
    · unfold judgeReply
      split
      · exact (start.thenUpdBoard k.boards _ _ (.inl k.rendering)).thenFailFrame k l _
      · split
        · exact start.thenEndFrame k l _ _ true
        · exact (start.thenUpdBoard k.boards _ _ (.inl k.rendering)).thenFailFrame k l _
  · exact h

theorem Stays.thenCountNoAnswer (h : Stays f s t) (k : Links f) (b : Fin 16) : Stays f s (countNoAnswer b t) :=
  h.thenUpdBoard k.boards b _ (.inl k.rendering)

theorem Stays.thenLinkWaitExpiry (h : Stays f s t) (k : Links f) (m : .time ∈ f.blocks) (rows : ∀ b, .board b ∈ f.rows)
    (l : Fin 2) : Stays f s (linkWaitExpiry l t) := by
  unfold linkWaitExpiry
  split
  · split
    · exact h
    · exact (h.thenReach m _).trans
        ((((Stays.refl _).thenCountNoAnswer k _).thenFailFrame k l _).thenSyncRow (rows _) _).boardOnly
  · exact h

theorem Stays.thenResetWaitExpiry (h : Stays f s t) (k : Links f) (e : Ends f) (m : .time ∈ f.blocks)
    (rows : ∀ b, .board b ∈ f.rows) (l : Fin 2) : Stays f s (resetWaitExpiry l t) := by
  unfold resetWaitExpiry
  split
  · split
    · refine (h.thenReach m _).trans (Stays.boardOnly (Stays.thenSyncRow ?_ (rows _) _))
      unfold resetUnanswered
      split
      · exact (Stays.refl _).thenResetReady k e l _
      · exact ((((Stays.refl _).thenUpdLink k.boards l _).thenCountNoAnswer k _).thenEnterFault k _ 7).thenEndReset e _ _
    · exact h
  · exact h

theorem Stays.thenProbeDue (h : Stays f s t) (m : .boards ∈ f.blocks) (time : .time ∈ f.blocks) (b : Fin 16) :
    Stays f s (probeDue b t) := by
  unfold probeDue
  split
  · exact (h.thenReach time _).thenUpdBoard m b _ (.inr fun _ => ⟨rfl, rfl⟩)
  · exact h

theorem Stays.thenRefreshTimerExpiry (h : Stays f s t) (m : .boards ∈ f.blocks) (rendering : .rendering ∈ f.blocks)
    (time : .time ∈ f.blocks) {b : Fin 16} (row : .board b ∈ f.rows) : Stays f s (refreshTimerExpiry b t) := by
  unfold refreshTimerExpiry
  split
  · refine (h.thenReach time _).trans (Stays.boardOnly (Stays.thenSyncRow ?_ row _))
    exact (Stays.refl _).thenUpdBoard m b _ (.inl rendering) fun v => by simp only [Board.allStale, and_self]
  · exact h

theorem Stays.thenRenderAll (h : Stays f s t) (rendering : .rendering ∈ f.blocks) (rows : ∀ b, .board b ∈ f.rows) :
    Stays f s (renderAll t) :=
  (h.thenRendering rendering (renderFields true t t).brd rfl rfl rfl (renderFields_plain true t t)).thenRewriteBoards rows t

/-- Definitions of boards change the boards and their rendering (R140, R141). -/
theorem Stays.thenDefineBoard (h : Stays f s t) (m : .boards ∈ f.blocks) (rendering : .rendering ∈ f.blocks)
    (opens : f.setup = true) (q : BoardParams) : Stays f s (defineBoard q t).1 := by
  unfold defineBoard
  split
  · split
    · exact h
    · dsimp only
      split
      · exact h
      · exact h.thenBoards _ m (.inl rendering) fun closed => by simp [opens] at closed
  · exact h
  · exact h

theorem Stays.thenDefineBoardFields (h : Stays f s t) (m : .boards ∈ f.blocks) (rendering : .rendering ∈ f.blocks)
    (opens : f.setup = true) (q : FieldsParams) : Stays f s (defineBoardFields q t).1 := by
  unfold defineBoardFields
  split
  · exact h
  · split
    · exact h
    · split
      · exact h
      · exact h.thenBoards _ m (.inl rendering) fun closed => by simp [opens] at closed

theorem Stays.thenSetLinkTiming (h : Stays f s t) (m : .boards ∈ f.blocks) (opens : f.setup = true) (x y : Byte) :
    Stays f s (setLinkTiming x y t).1 := by
  unfold setLinkTiming
  split
  · exact h
  · split
    · exact h
    · exact h.thenBoards _ m (.inr fun _ => ⟨rfl, rfl⟩) fun closed => by simp [opens] at closed

theorem Stays.thenEnableBoard (h : Stays f s t) (k : Links f) (b : Byte) : Stays f s (enableBoard b t).1 := by
  unfold enableBoard
  split
  · exact h
  · split
    · exact h.trans ((Stays.refl t).thenEnterSearching k _ 1).boardOnly
    · exact h

theorem Stays.thenDisableBoard (h : Stays f s t) (k : Links f) (e : Ends f) (b : Byte) : Stays f s (disableBoard b t).1 := by
  unfold disableBoard
  split
  · exact h
  · split
    · exact h
    · refine h.trans (Stays.boardOnly ?_)
      unfold disableStep
      have disabled (i : Fin 16) := (((Stays.refl t).thenAbandonFrame k.boards i).thenUpdBoard k.boards i (fun v =>
        { v with refreshAt := none, stale := noneStale, probeAt := none, probeDue := false, resetUnsent := false,
                 resetSlot := none }) (.inl k.rendering)).thenChangeLinkState k i .disabled 2
      dsimp only
      split
      · exact (disabled _).thenEndReset e _ _
      · exact disabled _

theorem Stays.thenResetBoard (h : Stays f s t) (k : Links f) (i : Fin 24) (b : Byte) : Stays f s (resetBoard i b t).1 := by
  unfold resetBoard
  split
  · exact h
  · dsimp only
    split
    · exact h
    · exact h
    · exact h.trans ((((Stays.refl t).thenAbandonFrame k.boards _).thenUpdBoard k.boards _ _
        (.inl k.rendering)).thenChangeLinkState k _ .resetting 5).boardOnly

theorem Stays.thenAbortReset (h : Stays f s t) (k : Links f) (b : Fin 16) : Stays f s (abortReset b t) :=
  h.trans (((Stays.refl t).thenAbandonFrame k.boards b).thenEnterFault k b 8).boardOnly

theorem allStale_plain (b : Board) : b.allStale.plain = b.plain := by simp only [Board.plain, Board.allStale]

/-- A refresh changes nothing of the boards but the stale sets (R146). -/
theorem Stays.thenRefreshOne (h : Stays f s t) (m : .rendering ∈ f.blocks) (b : Fin 16) : Stays f s (refreshOne b t) := by
  have plain : (refreshOne b t).brd.boards.map Board.plain = t.brd.boards.map Board.plain := by
    ext1 i hi
    have board := updBoard_board b ⟨i, hi⟩ Board.allStale t
    simp only [Fin.getElem_fin] at board
    rw [Vector.getElem_map, Vector.getElem_map, refreshOne, board]
    split
    · exact allStale_plain _
    · rfl
  exact h.thenRendering m (refreshOne b t).brd rfl rfl rfl plain

theorem Stays.thenRefreshBoard (h : Stays f s t) (m : .rendering ∈ f.blocks) (b : Byte) : Stays f s (refreshBoard b t).1 := by
  unfold refreshBoard
  split
  · exact h.trans ((Stays.refl t).thenEach fun b _ _ k => k.thenRefreshOne m b).boardOnly
  · split
    · exact h
    · split
      · exact h
      · exact h.trans ((Stays.refl t).thenRefreshOne m _).boardOnly

/-! ### The plan store (chapter 11) -/

theorem Stays.thenUpdStore (h : Stays f s t) (m : .store ∈ f.blocks) (g : Store → Store) : Stays f s (updStore g t) :=
  h.thenStore m _

theorem Stays.thenStoreOrder (h : Stays f s t) (m : .store ∈ f.blocks) (header : .header ∈ f.rows) (k : Fin 24) (j : StoreJob)
    (b : Bool) : Stays f s (storeOrder k j b t).1 := by
  unfold storeOrder
  split
  · exact h
  · split
    · exact h
    · exact (h.thenUpdStore m _).thenWriteRow header

theorem Stays.thenSavePlan (h : Stays f s t) (m : .store ∈ f.blocks) (header : .header ∈ f.rows) (k : Fin 24) (x : Byte)
    (b : PlanBlock) : Stays f s (savePlan k x b t).1 := by
  unfold savePlan
  split
  · exact h
  · split
    · exact h
    · exact h.thenStoreOrder m header k _ _

theorem Stays.thenErasePlan (h : Stays f s t) (m : .store ∈ f.blocks) (header : .header ∈ f.rows) (k : Fin 24) (x : Byte) :
    Stays f s (erasePlan k x t).1 := by
  unfold erasePlan
  split
  · exact h
  · exact h.thenStoreOrder m header k _ _

theorem Stays.thenSaveSetup (h : Stays f s t) (m : .store ∈ f.blocks) (header : .header ∈ f.rows) (k : Fin 24) (x : Byte) :
    Stays f s (saveSetup k x t).1 := by
  unfold saveSetup
  split
  · exact h
  · exact h.thenStoreOrder m header k _ _

theorem Stays.thenStoreOperationEnd (h : Stays f s t) (m : .store ∈ f.blocks) (time : .time ∈ f.blocks) (e : Ends f) (b : Bool) :
    Stays f s (storeOperationEnd b t) := by
  unfold storeOperationEnd
  split
  · exact (h.thenReach time _).trans (((((((Stays.refl _).thenUpdStore m _).thenRaiseIf e.interrupts _ _).thenWriteRow
      e.header).thenLog e.toJournals _ _ _ _ _).thenEndLong e _ _).storeOnly)
  · exact h

theorem Stays.thenAbortStore (h : Stays f s t) (m : .store ∈ f.blocks) (j : Journals f) (o : StoreOp) :
    Stays f s (abortStore o t) :=
  h.trans ((((Stays.refl t).thenUpdStore m _).thenWriteRow j.header).thenLog j _ _ _ _ _).storeOnly

end Sys2Proof.Machine
end

section
/-! Proofs for what every command leaves and keeps: what the owner of each order needs of a scope, and the rules of `Stays` for
the orders, their take and the scan (chapter 1). -/

namespace Sys2Proof.Machine

variable {f : Scope} {s t : State}

/-! ### The orders of zone service, drives and calls -/

theorem Stays.thenPlaceZoneInService (h : Stays f s t) (v : Services f) (x : Byte) : Stays f s (placeZoneInService x t).1 := by
  unfold placeZoneInService
  split
  · exact h
  · split
    · exact h
    · split
      · exact h
      · split
        · exact h
        · exact h
        · exact h.thenEnterService v _ 1

theorem Stays.thenTakeZoneOutOfService (h : Stays f s t) (v : Leaves f) (k : Fin 24) (x : Byte) :
    Stays f s (takeZoneOutOfService k x t).1 := by
  unfold takeZoneOutOfService
  split
  · exact h
  · split
    · exact h
    · split
      · exact h
      · exact h
      · split
        · exact h.thenLeaveService v _
        · exact h.thenBeginDrain v.toServices _ k

/-- What FORCE DRAIN needs of a scope. -/
structure ForceDrains (f : Scope) : Prop extends Calls f where
  drains : Drains f := by exact {}
  stations : ∀ n, .station n ∈ f.rows := by simp
  groups : ∀ g, .group g ∈ f.rows := by simp

theorem Stays.thenForceDrain (h : Stays f s t) (v : ForceDrains f) (x : Byte) : Stays f s (forceDrain x t).1 := by
  unfold forceDrain
  split
  · exact h
  · split
    · exact h.thenForceClears v.toCalls v.drains v.stations v.groups _
    · exact h

/-- What HOLD DRIVE and RELEASE DRIVE need of a scope: the drive that the byte names. -/
def NamesDrive (f : Scope) (b : Byte) : Prop := ∀ d, index? 8 b.toNat = some d → Demands f d ∧ .drive d ∈ f.rows

theorem Stays.thenHoldDrive (h : Stays f s t) {b : Byte} (v : NamesDrive f b) : Stays f s (holdDrive b t).1 := by
  unfold holdDrive
  split
  · exact h
  · obtain ⟨demands, row⟩ := v _ (by assumption)
    dsimp only
    split
    · exact h
    · split
      · exact h
      · exact h.trans (((Stays.refl t).thenAddDemand demands _ _ _).thenSyncRow row t).demandOnly

theorem Stays.thenReleaseDrive (h : Stays f s t) {b : Byte} (v : NamesDrive f b) : Stays f s (releaseDrive b t).1 := by
  unfold releaseDrive
  split
  · exact h
  · obtain ⟨demands, row⟩ := v _ (by assumption)
    dsimp only
    split
    · exact h
    · exact h.trans (((Stays.refl t).thenRemoveDemand demands _ _).thenSyncRow row t).demandOnly

/-- What SET BUFFER COUNT needs of a scope. -/
structure SetsBuffer (f : Scope) (b : Byte) : Prop where
  attributes : ∀ d, Attributes f d := by exact fun _ => {}
  buffers : .buffers ∈ f.blocks := by simp
  row : ∀ k, index? 7 b.toNat = some k → .buffer k ∈ f.rows

theorem Stays.thenSetBufferCount (h : Stays f s t) {b : Byte} (v : SetsBuffer f b) (n : Byte) :
    Stays f s (setBufferCount b n t).1 := by
  unfold setBufferCount
  split
  · exact h
  · have row := v.row _ (by assumption)
    split
    · exact h
    · split
      · exact h
      · dsimp only
        split
        · exact h
        · exact h.trans ((((Stays.refl t).thenUpdBuffer v.buffers _ _).thenBufferChanged v.attributes _).thenSyncRow row
            t).demandOnly

theorem Stays.thenResetPanelCounters (h : Stays f s t) (m : .loop ∈ f.blocks) (rows : ∀ p, .panel p ∈ f.rows) (b : Byte) :
    Stays f s (resetPanelCounters b t).1 := by
  unfold resetPanelCounters
  split
  · exact h
  · rename_i l _
    have cleared : Stays f t (each l (fun p t => writeRow (.panel p) (updPanel p (fun v =>
        { v with answered := 0, failed := 0, mismatches := 0, eventsLost := 0 }) t)) t) :=
      (Stays.refl t).thenEach fun p _ _ k => (k.thenUpdPanel m p _).thenWriteRow (rows p)
    exact h.trans (cleared.winOf.thenLoop m _ fun closed => (cleared.setup closed).loopScale)

/-- The station that an order's station byte names has its row in the scope. -/
def NamesStation (f : Scope) (b : Byte) : Prop := ∀ n, index? 160 b.toNat = some n → .station n ∈ f.rows

theorem callParams_station {x y : Byte} {n : Fin 160} {k : Kind} (h : callParams x y = .inl (n, k)) :
    index? 160 x.toNat = some n := by
  unfold callParams at h
  split at h <;> simp_all

/-- What the orders on a call need of a scope. -/
structure CallOrder (f : Scope) (b : Byte) : Prop extends Calls f where
  named : NamesStation f b
  groups : ∀ g, .group g ∈ f.rows := by simp
  driveRows : ∀ d, .drive d ∈ f.rows := by simp

theorem Stays.thenRaiseCall (h : Stays f s t) {b : Byte} (v : CallOrder f b) (r : Raising f) (x : Byte) :
    Stays f s (raiseCall b x t).1 := by
  unfold raiseCall
  split
  · exact h
  · rename_i n k named
    have row := v.named n (callParams_station named)
    split
    · exact h
    · split
      · exact h
      · exact h
      · exact h.trans (((Stays.refl t).thenKindPress r n _ k .order).thenRewriteCallRows row
          (t.pressGroup_subset n k v.groups) v.driveRows t _).callsOnly

theorem Stays.thenAnswerCall (h : Stays f s t) {b : Byte} (v : CallOrder f b) (a : ∀ d, Demands f d) (x : Byte) :
    Stays f s (answerCall b x t).1 := by
  unfold answerCall
  split
  · exact h
  · rename_i n k named
    have row := v.named n (callParams_station named)
    split
    · split
      · exact h
      · exact h.trans (((Stays.refl t).thenAnswerOne v.toCalls a n _ k 1 _).thenRewriteCallRows row
          (groupRow_subset _ v.groups) v.driveRows t _).callsOnly
    · exact h

theorem Stays.thenClearCall (h : Stays f s t) {b : Byte} (v : CallOrder f b) (a : Drains f) (x : Byte) :
    Stays f s (clearCall b x t).1 := by
  unfold clearCall
  split
  · exact h
  · rename_i n k named
    have row := v.named n (callParams_station named)
    split
    · exact h.trans (((Stays.refl t).thenClearOne v.toCalls a n _ k clearOrder _).thenRewriteCallRows row
        (groupRow_subset _ v.groups) v.driveRows t _).callsOnly
    · exact h

/-! ### The orders of the shift -/

theorem Stays.thenSetClock (h : Stays f s t) (p : Starts f) (x : Word) (y : Half) : Stays f s (setClock x y t).1 := by
  unfold setClock
  split
  · exact h
  · have clock := ((h.thenUpdShift p.shift fun v => { v with clock := ⟨true, x.toNat, y.toNat, t.ms + 1000⟩ }).thenWriteRow
      p.header).thenLog p.toJournals kindClockSet (bit (!t.shift.clock.isSet)) y.toNat (x.toNat / 60) (x.toNat % 60)
    dsimp only
    split
    · split
      · exact clock.thenStartShift p 4 _
      · exact clock
    · exact clock

theorem Stays.thenDefineShiftPlan (h : Stays f s t) (p : Plans f) (b : PlanBlock) : Stays f s (defineShiftPlan b t).1 := by
  unfold defineShiftPlan
  split
  · exact h
  · exact h.thenPlacePlan p 1 _

theorem Stays.thenLoadShiftPlan (h : Stays f s t) (p : Plans f) (b : Byte) : Stays f s (loadShiftPlan b t).1 := by
  unfold loadShiftPlan
  split
  · exact h
  · split
    · exact h
    · exact h.thenPlacePlan p 2 _
    · exact h

theorem Stays.thenStartShiftNow (h : Stays f s t) (p : Starts f) : Stays f s (startShiftNow t).1 := by
  unfold startShiftNow
  split
  · exact h.thenStartShift p 5 0
  · exact h

theorem Stays.thenEndShift (h : Stays f s t) (p : Closes f) (q : Plans f) : Stays f s (endShift t).1 := by
  unfold endShift
  split
  · exact h
  · exact h.trans ((((Stays.refl t).thenUpdShift p.shift _).thenLog p.toJournals _ _ _ _ _).thenShowPlans q t).shiftOnly
  · exact h.thenCloseShift p .endShift

theorem Stays.thenCollectPaceNotices (h : Stays f s t) (m : .shift ∈ f.blocks) (row : .paceLists ∈ f.rows) :
    Stays f s (collectPaceNotices t).1 :=
  (h.thenUpdShift m (fun v => { v with behindList := [], recovered := [] }) fun _ => List.nodup_nil).thenWriteRow row

/-! ### The orders of the order unit and of the journal -/

theorem Stays.thenAbortOwner (h : Stays f s t) (v : Services f) (k : Links f) (m : .store ∈ f.blocks) (i : Fin 24) :
    Stays f s (abortOwner i t) := by
  unfold abortOwner
  split
  · exact h.thenAbortDrain v _
  · exact h.thenAbortReset k _
  · split
    · exact h.thenAbortStore m k.toJournals _
    · exact h
  · exact h

/-- What STOP ALL WORK needs of a scope. -/
structure StopsWork (f : Scope) : Prop extends Ends f where
  services : Services f := by exact {}
  links : Links f := by exact {}
  store : .store ∈ f.blocks := by simp

theorem Stays.thenStopAllWork (h : Stays f s t) (v : StopsWork f) (k : Fin 24) : Stays f s (stopAllWork k t).1 := by
  unfold stopAllWork
  have aborted : Stays f s (each t.ord.inWork abortWork t) := h.thenEach fun w _ _ step =>
    (step.thenAbortOwner v.services v.links v.store w.slot).thenAbortLong v.toEnds w
  have unlocked := (aborted.thenSyncRows (map_subset_of v.services.driveRows) t).thenOrd v.orders
    { (syncRows t everyDriveRow (each t.ord.inWork abortWork t)).ord with locked := false }
  dsimp only
  split
  · exact unlocked.thenLog v.toJournals _ _ _ _ _
  · exact unlocked

theorem Stays.thenUnlockOrders (h : Stays f s t) (j : Journals f) (m : .orders ∈ f.blocks) (k : Fin 24) :
    Stays f s (unlockOrders k t).1 := by
  unfold unlockOrders
  split
  · exact h
  · split
    · exact (h.thenOrd m { t.ord with locked := false }).thenLog j _ _ _ _ _
    · exact h

/-- The journal unit's timers and its notice move no count. -/
theorem Stays.thenNotices (h : Stays f s t) (mj : .journal ∈ f.blocks) (mi : .interrupts ∈ f.blocks) (x : Journal)
    (y : Interrupts) (raises : Raises t { t with irq := y })
    (counts : x.put = t.jrn.put ∧ x.sequence = t.jrn.sequence ∧ x.accepted = t.jrn.accepted) :
    Stays f s { t with jrn := x, irq := y } := by
  obtain ⟨put, sequence, accepted⟩ := counts
  exact h.trans
    { Stays.refl t with
      blocks := fun d n => by
        cases d
        case journal => exact absurd mj n
        case interrupts => exact absurd mi n
        all_goals simp only [Block.same, serviceOf, and_self, implies_true]
      memory := .of_win rfl
      causes := raises.1
      line := raises.2
      counts := fun k => by simpa only [State.journalCounts, State.unread, put, sequence, accepted] using k
      setup := fun _ => .of_eq rfl rfl rfl }

theorem followOldest_eq (s : State) : ∃ a y, followOldest s = { s with jrn := { s.jrn with ageTimer := a }, irq := y } := by
  unfold followOldest
  split
  · exact ⟨_, _, rfl⟩
  · split
    · exact ⟨_, _, rfl⟩
    · exact ⟨_, _, rfl⟩

theorem Stays.thenExpireAge (h : Stays f s t) (mj : .journal ∈ f.blocks) (mi : .interrupts ∈ f.blocks) :
    Stays f s (expireAge t) :=
  h.thenNotices mj mi _ _ ((raises_raiseIf _ .journal t).trans (.of_irq rfl)) ⟨rfl, rfl, rfl⟩

theorem Stays.thenFollowOldest (h : Stays f s t) (mj : .journal ∈ f.blocks) (mi : .interrupts ∈ f.blocks) :
    Stays f s (followOldest t) := by
  have raises := raises_followOldest t
  obtain ⟨a, y, eq⟩ := followOldest_eq t
  rw [eq] at raises ⊢
  exact h.thenNotices mj mi _ _ (raises.trans (.of_irq rfl)) ⟨rfl, rfl, rfl⟩

theorem Stays.thenRaiseNotice (h : Stays f s t) (mi : .interrupts ∈ f.blocks) : Stays f s (raiseNotice t) :=
  h.thenRaiseIf mi _ _

theorem Stays.thenSetJournalNotice (h : Stays f s t) (mj : .journal ∈ f.blocks) (mi : .interrupts ∈ f.blocks)
    (row : .header ∈ f.rows) (x y : Half) : Stays f s (setJournalNotice x y t).1 := by
  unfold setJournalNotice
  split
  · exact h
  · split
    · exact h
    · have changed := h.thenNotices mj mi { t.jrn with threshold := x.toNat, ageLimit := y.toNat } t.irq (.of_irq rfl) ⟨rfl, rfl, rfl⟩
      have noticed := ((changed.thenWriteRow row).thenFollowOldest mj mi).thenRaiseNotice mi
      obtain ⟨a, z, eq⟩ := followOldest_eq
        (writeRow .header { t with jrn := { t.jrn with threshold := x.toNat, ageLimit := y.toNat } })
      dsimp only
      rw [eq] at noticed ⊢
      exact noticed

end Sys2Proof.Machine
end

section
/-! Proofs for what every command leaves and keeps: the take of a slot, the orders under the footprints of their commands and
under the scope of a scan, and the visit of a slot. -/

namespace Sys2Proof.Machine

variable {f : Scope} {s t u : State}

/-! ### The take of a slot (R9) -/

/-- What the take of an order from slot `k` needs of a scope. -/
structure Takes (f : Scope) (k : Fin 24) : Prop extends Settles f where
  orders : .orders ∈ f.blocks := by simp
  interrupts : .interrupts ∈ f.blocks := by simp
  slot : f.covers (slotBase k) 64

theorem Stays.thenCarryOut (h : Stays f s t) {k : Fin 24} (v : Takes f k) (n : Bool) (g : Half) (o : Order) {perform : Perform}
    (performs : ∀ u, u.setup = t.setup → Stays f u (perform u).1) : Stays f s (carryOut k n g o perform t) := by
  unfold carryOut
  have taken := h.thenOrd v.orders { t.ord with takePos := k }
  dsimp only
  split
  · exact taken.thenAnswerSlot v.slot v.interrupts n g _
  · refine Stays.thenSettle ?_ v.toSettles t
    have performed := taken.trans (performs { t with ord := { t.ord with takePos := k } } rfl)
    split
    · exact performed.thenAnswerSlot v.slot v.interrupts n g _
    · exact performed.thenAcceptSlot v.slot v.orders n g

theorem stays_postSlot (p : Post) (o : Order) (s : State) (key : .key ∈ f.blocks) (posts : f.posts = true)
    (slot : f.covers (slotBase p.slot) 64) : Stays f s (postSlot p o s) := by
  have memory : Touches f.rows f.ranges s (postSlot p o s) :=
    have post := touches_postSlot p o s
    ⟨fun r _ => post.1 r (by simp), fun a a_out => post.2.1 a (by simpa [outside, slotRange] using slot a a_out), post.2.2⟩
  exact
    { Stays.refl s with
      blocks := fun b n => by cases b <;> simp_all [Block.same, serviceOf]
      memory := memory
      setup := fun _ => .of_eq rfl rfl rfl
      idle := fun x => by simp [posts] at x }

/-- An order command posts its order and may take it: its owner decides what else it may change. -/
theorem Stays.of_order {i : Instr} {p : Post} {o : Order} {F : Footprint} {b : Bool} (s : State)
    (posted : postedOrder i = some (p, o)) (key : .key ∈ F.blocks) (slot : slotRange p.slot ∈ F.ranges)
    (takes : F.covers (slotBase p.slot) 64 → Takes (F.scope b true) p.slot)
    (performs : ∀ u, u.setup = s.setup → Stays (F.scope b true) u (o.perform p.slot u).1) :
    ∀ t, exec i s = .next t → Stays (F.scope b true) s t := by
  intro t eq
  rw [exec_postedOrder s posted] at eq
  obtain rfl := Host.Outcome.next.inj eq
  have cover : F.covers (slotBase p.slot) 64 := Footprint.covers_of_mem slot
  have post := stays_postSlot (f := F.scope b true) p o s key rfl cover
  unfold orderCommand
  dsimp only
  split
  · exact post.thenCarryOut (takes cover) _ _ _ performs
  · exact post

end Sys2Proof.Machine
end

section
/-! Proofs for what every command leaves and keeps: the commands that post no order. -/

namespace Sys2Proof.Machine

variable {f : Scope} {s t u : State}

/-! ### Line events and their timers -/

theorem Stays.thenEscalationExpiry (h : Stays f s t) (c : Calls f) (k : Settles f) {n : Fin 160} (row : .station n ∈ f.rows)
    (groups : ∀ g, .group g ∈ f.rows) (x : Kind) : Stays f s (escalationExpiry n x t) := by
  unfold escalationExpiry
  split
  · exact h
  · split
    · exact h
    · split
      · exact h
      · exact ((h.thenClimb c n x 0 _).thenWriteRows (List.cons_subset.2 ⟨row, groupRow_subset _ groups⟩)).thenSettle k t

theorem Stays.thenTotalsSecond (h : Stays f s t) (m : .attribution ∈ f.blocks) (k : Settles f)
    (rows : ∀ d, .openSlot d ∈ f.rows) : Stays f s (totalsSecond t) := by
  unfold totalsSecond
  dsimp only
  generalize t.openDrives.filter _ = drives
  have shown : Stays f t (each drives (fun d v => showSlot d (bringZones (v.zonesOn d) v)) t) :=
    (Stays.refl t).thenEach fun d _ v step => (step.thenBringZones m k.zones _).thenShowSlot m (rows d)
  exact (h.trans (shown.winOf.thenAttr m _)).thenSettle k t

/-- What closes a motion event. -/
theorem Stays.thenMotion (h : Stays f s t) (k : Settles f) {d : Fin 8} (row : .drive d ∈ f.rows) (moved : Stays f t u) :
    Stays f s (settle t (syncRow t (.drive d) (Machine.motionOnly t u))) :=
  ((h.trans moved.motionOnly).thenSyncRow row t).thenSettle k t

theorem Stays.thenAdvance (h : Stays f s t) {d : Fin 8} (a : Moves f d) (k : Settles f) (row : .drive d ∈ f.rows) (n : Half)
    (dir : Direction) : Stays f s (advance d n dir t) := by
  unfold advance
  split
  · exact h
  · split
    · exact h
    · refine h.thenMotion k row ?_
      split
      · exact (Stays.refl t).thenAdvanceForward a _ _
      · exact (Stays.refl t).thenAdvanceReverse a.drives d _

theorem Stays.thenMarker (h : Stays f s t) {d : Fin 8} (a : Moves f d) (k : Settles f) (row : .drive d ∈ f.rows) :
    Stays f s (marker d t) := by
  unfold marker
  split
  · exact h
  · split
    · exact h
    · refine h.thenMotion k row ?_
      split
      · exact (Stays.refl t).thenCrossing a 0
      · split
        · exact (Stays.refl t).thenUpdDrive a.drives d _
        · exact ((Stays.refl t).thenUpdDrive a.drives d _).thenLog a.toJournals _ _ _ _ _

theorem Stays.thenRunFeedbackChange (h : Stays f s t) {d : Fin 8} (a : Demands f d) (files : Files f d) (k : Settles f)
    (m : .feedback ∈ f.blocks) (row : .drive d ∈ f.rows) (x : Feedback) : Stays f s (runFeedbackChange d x t) := by
  have read : Stays f s (setFeedbackPin d x t) := h.thenFeedbackPin m _
  unfold runFeedbackChange
  dsimp only
  split
  · exact read
  · refine read.thenMotion k row ?_
    split
    · exact (Stays.refl _).thenFeedbackStopped a
    · exact (Stays.refl _).thenFeedbackMoving a files

theorem Stays.thenSupervisionExpiry (h : Stays f s t) (time : .time ∈ f.blocks) (m : .drives ∈ f.blocks) (j : Journals f)
    (k : Settles f) {d : Fin 8} (row : .drive d ∈ f.rows) : Stays f s (supervisionExpiry d t) := by
  unfold supervisionExpiry
  split
  · rename_i entered limit _
    exact (((((h.thenReach time (100 * (entered + 10 * limit))).thenUpdDrive m d
      fun v => { v with supervision := .notStopping entered }).thenLog j _ _ _ _ _).thenRaise j.interrupts .fault).thenSyncRow row
        t).thenSettle k t
  · exact h

theorem Stays.thenBufferRelease (h : Stays f s t) (a : ∀ d, Attributes f d) (k : Settles f) (m : .buffers ∈ f.blocks)
    {b : Fin 7} (row : .buffer b ∈ f.rows) : Stays f s (bufferRelease b t) := by
  unfold bufferRelease
  split
  · exact h
  · refine Stays.thenSettle (Stays.thenSyncRow (h.trans (Stays.motionOnly ?_)) row t) k t
    split
    · exact ((Stays.refl t).thenUpdBuffer m b _).thenBufferChanged a b
    · exact ((Stays.refl t).thenUpdBuffer m b _).thenLog (a 0).toJournals _ _ _ _ _

theorem Stays.thenExitTransfer (h : Stays f s t) (p : Closes f) (a : ∀ d, Attributes f d) (k : Settles f)
    (m : .buffers ∈ f.blocks) {z : Fin 8} (rows : ∀ x : z.val < 7, .buffer ⟨z.val, x⟩ ∈ f.rows) : Stays f s (exitTransfer z t) := by
  unfold exitTransfer
  split
  · exact h
  · refine Stays.thenSettle ?_ k t
    have counted := h.thenShiftTransfer p z
    split
    · exact counted.trans ((Stays.refl _).thenFillBuffer a m (rows _)).motionOnly
    · exact counted

theorem Stays.thenAgeTimerExpiry (h : Stays f s t) (mj : .journal ∈ f.blocks) (mi : .interrupts ∈ f.blocks) :
    Stays f s (ageTimerExpiry t) := by
  unfold ageTimerExpiry
  split
  · split
    · exact h.thenExpireAge mj mi
    · exact h
  · exact h

/-! ### The line computer's writes (R3, R156) -/

theorem touches_hostWrites (writes : List Host.Cell) (s : State) (inside : insideWindow writes = true) :
    Touches [] (writes.map fun c => (c.1, 1)) s (hostWrites writes s) := by
  refine ⟨fun _ _ => rfl, fun a out => ?_, Memory.wf_hostWrites writes s inside⟩
  clear inside
  induction writes generalizing s with
  | nil => rfl
  | cons c cs ih =>
    have rest := ih (writeBytes c.1 [c.2] s) fun r hr => out r (by simp_all)
    refine rest.trans (Memory.read_write_outside _ _ _ _ ?_)
    have := out (c.1, 1) (by simp)
    simpa [or_comm] using this

theorem stays_hostWrites (writes : List Host.Cell) (s : State) (inside : insideWindow writes = true)
    (covers : ∀ c ∈ writes, f.covers c.1 1) (posts : f.posts = true) : Stays f s (hostWrites writes s) := by
  have writ := touches_hostWrites writes s inside
  have memory : Touches f.rows f.ranges s (hostWrites writes s) := by
    refine ⟨fun _ _ => rfl, fun a out => writ.2.1 a fun r hr => ?_, writ.2.2⟩
    obtain ⟨c, hc, rfl⟩ := List.mem_map.1 (show r ∈ writes.map fun c => (c.1, 1) by simpa using hr)
    exact covers c hc a out
  exact
    { Stays.refl s with
      blocks := fun b _ => by cases b <;> simp [Block.same, serviceOf]
      memory := memory
      setup := fun _ => .of_eq rfl rfl rfl
      idle := fun x => by simp [posts] at x }

end Sys2Proof.Machine
end

section
/-! Proofs for what every command leaves and keeps: the orders under the footprints of their commands. -/

namespace Sys2Proof.Machine

/-- The row of the object that an operand byte names. -/
theorem mem_rowOf {n : Nat} {row : Fin n → Row} {b : Byte} {k : Fin n} (named : index? n b.toNat = some k) :
    row k ∈ rowOf row b := by
  simp [rowOf, named]

/-- The owner of an order keeps to the command's footprint; it changes the setup only where that is open. -/
theorem stays_perform {i : Instr} {p : Post} {o : Order} {F : Footprint} (posted : postedOrder i = some (p, o))
    (print : footprint i = some F) (b : Bool) (s : State) (shut : b = true ∨ s.setup.lockdown = true) :
    Stays (F.scope b true) s (o.perform p.slot s).1 := by
  have h : Stays (F.scope b true) s s := .refl s
  cases i <;> cases posted <;> cases print
  case unlockOrders => exact h.thenUnlockOrders {} (by simp) _
  case stopAllWork => exact h.thenStopAllWork {} _
  case defineDrive q => exact h.thenGuarded shut fun x => h.thenDefineDrive { opens := x } (by simp) (by simp)
  case defineZone q => exact h.thenGuarded shut fun x => h.thenDefineZone { opens := x } q
  case bindStations q => exact h.thenGuarded shut fun x => h.thenBindStations { opens := x } (by simp)
  case defineGroup q => exact h.thenGuarded shut fun x => h.thenDefineGroup { opens := x } (by simp)
  case defineText q => exact h.thenGuarded shut fun x => h.thenDefineText { opens := x } (by simp)
  case setLoopTiming q => exact h.thenGuarded shut fun x => h.thenSetLoopTiming (by simp) x q
  case setSetupProtection q => exact h.thenGuarded shut fun x => h.thenSetSetupProtection { opens := x } q
  case lockSetup => exact h.thenGuarded shut fun x => h.thenLockSetup { opens := x } {}
  case placeZoneInService z => exact h.thenPlaceZoneInService {} z
  case takeZoneOutOfService z => exact h.thenTakeZoneOutOfService {} _ z
  case forceDrain z => exact h.thenForceDrain {} z
  case holdDrive d => exact h.thenHoldDrive fun k x => ⟨{ openSlot := by simp [mem_rowOf x] }, by simp [mem_rowOf x]⟩
  case releaseDrive d => exact h.thenReleaseDrive fun k x => ⟨{ openSlot := by simp [mem_rowOf x] }, by simp [mem_rowOf x]⟩
  case setBufferCount x n => exact h.thenSetBufferCount { row := fun k y => by simp [mem_rowOf y] } n
  case resetPanelCounters x => exact h.thenResetPanelCounters (by simp) (by simp) x
  case raiseCall n c => exact h.thenRaiseCall { named := fun k y => by simp [mem_rowOf y] } {} c
  case answerCall n c => exact h.thenAnswerCall { named := fun k y => by simp [mem_rowOf y] } (fun _ => {}) c
  case clearCall n c => exact h.thenClearCall { named := fun k y => by simp [mem_rowOf y] } {} c
  case setClock x y => exact h.thenSetClock {} x y
  case defineShiftPlan q => exact h.thenDefineShiftPlan {} q
  case loadShiftPlan x => exact h.thenLoadShiftPlan {} x
  case startShiftNow => exact h.thenStartShiftNow {}
  case endShift => exact h.thenEndShift {} {}
  case collectPaceNotices => exact h.thenCollectPaceNotices (by simp) (by simp)
  case defineBoard q => exact h.thenGuarded shut fun x => h.thenDefineBoard (by simp) (by simp) x q
  case enableBoard x => exact h.thenEnableBoard {} x
  case disableBoard x => exact h.thenDisableBoard {} {} x
  case resetBoard x => exact h.thenResetBoard {} _ x
  case setLinkTiming x y => exact h.thenGuarded shut fun k => h.thenSetLinkTiming (by simp) k x y
  case refreshBoard x => exact h.thenRefreshBoard (by simp) x
  case defineBoardFields q => exact h.thenGuarded shut fun x => h.thenDefineBoardFields (by simp) (by simp) x q
  case savePlan x q => exact h.thenSavePlan (by simp) (by simp) _ x q
  case erasePlan x => exact h.thenErasePlan (by simp) (by simp) _ x
  case saveSetup x => exact h.thenGuarded shut fun _ => h.thenSaveSetup (by simp) (by simp) _ x
  case setJournalNotice x y => exact h.thenSetJournalNotice (by simp) (by simp) (by simp) x y

theorem footprint_ordered {i : Instr} {p : Post} {o : Order} {F : Footprint} (posted : postedOrder i = some (p, o))
    (print : footprint i = some F) : ∃ G, F = ordered p G := by
  cases i <;> cases posted <;> cases print <;> exact ⟨_, rfl⟩

/-- An order command keeps to its footprint; it changes the setup only where that is open. -/
theorem stays_order {i : Instr} {p : Post} {o : Order} {F : Footprint} {s t : State} (posted : postedOrder i = some (p, o))
    (print : footprint i = some F) (b : Bool) (shut : b = true ∨ s.setup.lockdown = true) (next : exec i s = .next t) :
    Stays (F.scope b true) s t := by
  have performs (u : State) (same : u.setup = s.setup) : Stays (F.scope b true) u (o.perform p.slot u).1 :=
    stays_perform posted print b u (by rwa [same])
  obtain ⟨G, rfl⟩ := footprint_ordered posted print
  exact Stays.of_order s posted (by simp) (by simp) (fun slot => { slot := slot }) performs t next

/-- Settles O57: the orders of codes below 0x20 are some of those that keep to their footprints. -/
theorem framesOfOrderUnitAndSetupOrders : Obligations.FramesOfOrderUnitAndSetupOrders :=
  fun _ _ _ _ _ _ posted _ print next => (stays_order posted print true (.inl rfl) next).bounds

/-- Settles O58: the orders of codes 0x20 to 0x32 are some of those that keep to their footprints. -/
theorem framesOfLineAndCallOrders : Obligations.FramesOfLineAndCallOrders :=
  fun _ _ _ _ _ _ posted _ _ print next => (stays_order posted print true (.inl rfl) next).bounds

/-- Settles O59: the orders of codes 0x40 and above are some of those that keep to their footprints. -/
theorem framesOfShiftBoardStoreAndJournalOrders : Obligations.FramesOfShiftBoardStoreAndJournalOrders :=
  fun _ _ _ _ _ _ posted _ print next => (stays_order posted print true (.inl rfl) next).bounds

end Sys2Proof.Machine
end

section
/-! Proofs for what every command leaves and keeps: the commands that post no order under their footprints. -/

namespace Sys2Proof.Machine

variable {s t : State}

/-- A footprint as the scope of a command that posts no order; the line computer's writes may post one. -/
def Footprint.events (f : Footprint) (setup : Bool) : Scope := { f with setup := setup, marks := true, posts := true }

@[simp] theorem events_blocks (f : Footprint) (x : Bool) : (f.events x).blocks = f.blocks := rfl
@[simp] theorem events_rows (f : Footprint) (x : Bool) : (f.events x).rows = f.rows := rfl
@[simp] theorem events_ranges (f : Footprint) (x : Bool) : (f.events x).ranges = f.ranges := rfl

/-- A change of the order unit where the marks are open. -/
theorem Stays.thenMarks {f : Scope} (h : Stays f s t) (m : .orders ∈ f.blocks) (x : OrderUnit) (open_ : f.marks = true) :
    Stays f s { t with ord := x } :=
  h.trans
    { Stays.refl t with
      blocks := fun b n => by cases b <;> simp_all [Block.same, serviceOf]
      memory := .of_win rfl
      setup := fun _ => .of_eq rfl rfl rfl
      marks := fun shut => by simp [open_] at shut }

theorem Stays.thenSetHold {f : Scope} (h : Stays f s t) (m : .orders ∈ f.blocks) (open_ : f.marks = true) (b : Bool) :
    Stays f s (setHold b t) := by
  unfold setHold
  split
  · exact h
  · dsimp only
    split
    · split
      · exact (h.thenMarks m _ open_).thenMarks m _ open_
      · exact h.thenMarks m _ open_
    · split
      · exact ((h.thenMarks m _ open_).thenMarks m _ open_).thenMarks m _ open_
      · exact h.thenMarks m _ open_

theorem Stays.thenAttention {f : Scope} (h : Stays f s t) (m : .orders ∈ f.blocks) (open_ : f.marks = true) :
    Stays f s (attention t) := by
  unfold attention
  split
  · exact h
  · split
    · exact h.thenMarks m _ open_
    · exact h.thenMarks m _ open_

theorem Stays.thenScanTimerExpiry {f : Scope} (h : Stays f s t) (m : .orders ∈ f.blocks) (time : .time ∈ f.blocks)
    (open_ : f.marks = true) : Stays f s (scanTimerExpiry t) := by
  unfold scanTimerExpiry
  split
  · exact h
  · rename_i w _
    have stopped := (h.thenReach time w).thenMarks m { t.ord with scanDue := none } open_
    dsimp only
    split
    · exact stopped.thenMarks m _ open_
    · exact stopped

/-- A write to CAUSE or MASK (R4). -/
def setsInterrupts : Instr → Bool
  | .causeWrite _ => true
  | .maskWrite _ => true
  | _ => false

theorem next_of_if {c : Prop} [Decidable c] {x y : State} {o : Host.Outcome State Fault Refusal} (stops : ∀ z, o ≠ .next z)
    (h : (if c then .next x else o) = .next y) : c ∧ x = y := by
  split at h
  · exact ⟨by assumption, Host.Outcome.next.inj h⟩
  · exact absurd h (stops y)

/-- A command that posts no order and writes no interrupt register keeps to its footprint and never changes the setup. -/
theorem stays_event {i : Instr} {F : Footprint} (posts : postedOrder i = none) (print : footprint i = some F)
    (quiet : setsInterrupts i = false) (next : exec i s = .next t) : Stays (F.events false) s t := by
  have h : Stays (F.events false) s s := .refl s
  cases i <;> cases posts <;> cases print <;> cases quiet
  case orderHold w =>
    simp only [exec, execOrderHold] at next
    split at next <;> cases next
    exact h.thenSetHold (by simp) rfl _
  case attention w l =>
    obtain ⟨inside, rfl⟩ := next_of_if (by simp) next
    exact (stays_hostWrites l s inside (fun c hc => Footprint.covers_of_mem (r := (c.1, 1)) (List.mem_map_of_mem hc)) rfl).thenAttention
      (by simp) rfl
  case takeCountRead l =>
    obtain ⟨inside, rfl⟩ := next_of_if (by simp) next
    exact (stays_hostWrites l s inside
      (fun c hc => Footprint.covers_of_mem (r := (c.1, 1)) (List.mem_cons_of_mem _ (List.mem_map_of_mem hc))) rfl).thenReadTake {}
  case registerWriteIgnored o w =>
    obtain ⟨-, rfl⟩ := next_of_if (by simp) next
    exact h
  case advance d n x =>
    simp only [exec, execAdvance] at next
    split at next <;> cases next
    exact h.thenAdvance {} {} (by simp) n x
  all_goals obtain rfl := Host.Outcome.next.inj next
  case scanTimerExpiry => exact h.thenScanTimerExpiry (by simp) (by simp) rfl
  case storeOperationEnd v => exact h.thenStoreOperationEnd (by simp) (by simp) {} v
  case pollSend => exact h.thenPollSend (by simp)
  case lostPollDue p => exact h.thenLostPollDue (by simp) (by simp) p
  case panelAnswer x => exact h.thenPanelAnswer {} x
  case responseTimeout => exact h.thenResponseTimeout {} {} (by simp)
  case escalationExpiry n k => exact h.thenEscalationExpiry {} {} (by simp) (by simp) k
  case marker d => exact h.thenMarker {} {} (by simp)
  case runFeedbackChange d x => exact h.thenRunFeedbackChange {} {} {} (by simp) (by simp) x
  case supervisionExpiry d => exact h.thenSupervisionExpiry (by simp) (by simp) {} {} (by simp)
  case exitTransfer z => exact h.thenExitTransfer {} (fun _ => {}) {} (by simp) fun x => by simp [x]
  case bufferRelease k => exact h.thenBufferRelease (fun _ => {}) {} (by simp) (by simp)
  case totalsSecond => exact h.thenTotalsSecond (by simp) {} (by simp)
  case clockAdvance => exact h.thenClockAdvance {} {} (by simp)
  case breakBegin => exact h.thenBreakBegin {}
  case breakEnd => exact h.thenBreakEnd {}
  case plannedEnd => exact h.thenPlannedEnd {} {} (by simp)
  case overtimeLimit => exact h.thenOvertimeLimit {} {} (by simp)
  case planRise => exact h.thenPlanRise {} (by simp)
  case linkChoose l => exact h.thenLinkChoose {} (by simp) l
  case boardReply l x => exact h.thenBoardReply {} {} (by simp) l x
  case linkWaitExpiry l => exact h.thenLinkWaitExpiry {} (by simp) (by simp) l
  case resetWaitExpiry l => exact h.thenResetWaitExpiry {} {} (by simp) (by simp) l
  case probeDue b => exact h.thenProbeDue (by simp) (by simp) b
  case refreshTimerExpiry b => exact h.thenRefreshTimerExpiry (by simp) (by simp) (by simp) (by simp)
  case renderSecond => exact h.thenRenderAll (by simp) (by simp)
  case ageTimerExpiry => exact h.thenAgeTimerExpiry (by simp) (by simp)
  case tallySecond => exact h.thenTallySecond (by simp) (by simp) {}

/-- Settles O60: CAUSE and MASK writes change the interrupts alone, every other command keeps to its footprint. -/
theorem framesOfEvents : Obligations.FramesOfEvents := by
  intro i f s t posts print next
  cases quiet : setsInterrupts i
  case false => exact (stays_event posts print quiet next).bounds
  case true =>
    cases i <;> cases quiet
    all_goals
      cases print
      obtain rfl := Host.Outcome.next.inj next
      exact interrupts_bounds _ s

end Sys2Proof.Machine
end

section
/-! Proofs for what every command leaves and keeps: the visit of a slot and a scan (R8), under the scope that holds every
block, row and range. -/

namespace Sys2Proof.Machine

variable {s t : State}

theorem everything_slots (b : Bool) (k : Fin 24) : (everything b).covers (slotBase k) 64 := Footprint.covers_slot (by simp) k

/-- Whatever the owner of an order does stays in the scope; it changes the setup only where that is open. -/
theorem Stays.thenPerform {b : Bool} (h : Stays (everything b) s t) (k : Fin 24) (o : Order)
    (shut : b = true ∨ t.setup.lockdown = true) : Stays (everything b) s (o.perform k t).1 := by
  cases o
  case unlockOrders => exact h.thenUnlockOrders {} (by simp) _
  case stopAllWork => exact h.thenStopAllWork {} _
  case defineDrive q => exact h.thenGuarded shut fun x => h.thenDefineDrive { opens := x } (by simp) (fun _ _ => by simp)
  case defineZone q => exact h.thenGuarded shut fun x => h.thenDefineZone { opens := x } q
  case bindStations q => exact h.thenGuarded shut fun x => h.thenBindStations { opens := x } (fun _ _ => by simp)
  case defineGroup q => exact h.thenGuarded shut fun x => h.thenDefineGroup { opens := x } (fun _ _ => by simp)
  case defineText q =>
    exact h.thenGuarded shut fun x => h.thenDefineText { opens := x } fun r hr => by
      obtain ⟨e, -, rfl⟩ := by simpa using hr
      simp
  case setLoopTiming q => exact h.thenGuarded shut fun x => h.thenSetLoopTiming (by simp) x q
  case setSetupProtection q => exact h.thenGuarded shut fun x => h.thenSetSetupProtection { opens := x } q
  case lockSetup => exact h.thenGuarded shut fun x => h.thenLockSetup { opens := x } {}
  case placeZoneInService z => exact h.thenPlaceZoneInService {} z
  case takeZoneOutOfService z => exact h.thenTakeZoneOutOfService {} _ z
  case forceDrain z => exact h.thenForceDrain {} z
  case holdDrive d => exact h.thenHoldDrive fun k x => ⟨{}, by simp⟩
  case releaseDrive d => exact h.thenReleaseDrive fun k x => ⟨{}, by simp⟩
  case setBufferCount x n => exact h.thenSetBufferCount { row := fun k y => by simp } n
  case resetPanelCounters x => exact h.thenResetPanelCounters (by simp) (by simp) x
  case raiseCall n c => exact h.thenRaiseCall { named := fun k y => by simp } {} c
  case answerCall n c => exact h.thenAnswerCall { named := fun k y => by simp } (fun _ => {}) c
  case clearCall n c => exact h.thenClearCall { named := fun k y => by simp } {} c
  case setClock x y => exact h.thenSetClock {} x y
  case defineShiftPlan q => exact h.thenDefineShiftPlan {} q
  case loadShiftPlan x => exact h.thenLoadShiftPlan {} x
  case startShiftNow => exact h.thenStartShiftNow {}
  case endShift => exact h.thenEndShift {} {}
  case collectPaceNotices => exact h.thenCollectPaceNotices (by simp) (by simp)
  case defineBoard q => exact h.thenGuarded shut fun x => h.thenDefineBoard (by simp) (by simp) x q
  case enableBoard x => exact h.thenEnableBoard {} x
  case disableBoard x => exact h.thenDisableBoard {} {} x
  case resetBoard x => exact h.thenResetBoard {} _ x
  case setLinkTiming x y => exact h.thenGuarded shut fun k => h.thenSetLinkTiming (by simp) k x y
  case refreshBoard x => exact h.thenRefreshBoard (by simp) x
  case defineBoardFields q => exact h.thenGuarded shut fun x => h.thenDefineBoardFields (by simp) (by simp) x q
  case savePlan x q => exact h.thenSavePlan (by simp) (by simp) _ x q
  case erasePlan x => exact h.thenErasePlan (by simp) (by simp) _ x
  case saveSetup x => exact h.thenGuarded shut fun _ => h.thenSaveSetup (by simp) (by simp) _ x
  case setJournalNotice x y => exact h.thenSetJournalNotice (by simp) (by simp) (by simp) x y

theorem Stays.thenAnswerViolation {f : Scope} (h : Stays f s t) (m : .orders ∈ f.blocks) (j : Journals f) (r n : Nat) {k : Fin 24}
    (c : f.covers (slotBase k) 64) : Stays f s (answerViolation r n k t) :=
  ((h.thenOrd m { t.ord with takePos := k }).thenViolation m j r k _ _).thenAnswerSlot c j.interrupts _ _ _

/-- The visit of a slot stays in the scope of a scan (R8). -/
theorem Stays.thenVisitSlot {b : Bool} (h : Stays (everything b) s t) (k : Fin 24) (shut : b = true ∨ t.setup.lockdown = true) :
    Stays (everything b) s (visitSlot k t) := by
  have violation := fun r n => h.thenAnswerViolation (by simp) {} r n (everything_slots b k)
  unfold visitSlot
  split
  · exact h
  · split
    · unfold takeSlot
      split
      · exact violation _ _
      · exact h.thenCarryOut { slot := everything_slots b k } _ _ _ fun u same =>
          (Stays.refl u).thenPerform k _ (by rwa [same])
    · exact h
    · exact h
    · exact h
    · exact violation _ _

/-- A scan's visits, one after another. -/
theorem stays_visits {b : Bool} (l : List (Fin 24)) (s : State) (shut : b = true ∨ s.setup.lockdown = true) :
    Stays (everything b) s (each l visitSlot s) :=
  (Stays.refl s).thenEach fun k _ _ step => step.thenVisitSlot k (shut.imp_right step.lockdown)

end Sys2Proof.Machine
end

section
/-! Proofs for what every step keeps: start-up and the resets, and the invariants of section 1.2, 6.4, 8.6, 10.2 and 10.5 over
every command. -/

namespace Sys2Proof.Machine

variable {f : Scope} {s t u : State}

/-! ### Start-up (R166) -/

/-- The scope of start-up: everything, the setup and the scan among it. -/
def startScope : Scope := { everything true with marks := true }

@[simp] theorem mem_startScope_blocks (b : Block) : b ∈ startScope.blocks := mem_everything_blocks true b
@[simp] theorem mem_startScope_rows (r : Row) : r ∈ startScope.rows := mem_everything_rows true r
@[simp] theorem startScope_ranges : startScope.ranges = journalRange :: slotsRange :: (List.finRange 64).map textRange := rfl

theorem Stays.thenStoreScan (h : Stays f s t) (m : .store ∈ f.blocks) (row : .header ∈ f.rows) : Stays f s (storeScan t) :=
  (h.thenUpdStore m _).thenWriteRow row

theorem Stays.thenReadFeedback (h : Stays f s t) (m : .drives ∈ f.blocks) : Stays f s (readFeedback t) :=
  h.trans
    { Stays.refl t with
      blocks := fun b n => by cases b <;> simp_all [Block.same, serviceOf, readFeedback]
      memory := .of_win rfl
      stops := fun x d => by simpa [State.drive, readFeedback] using x d
      setup := fun _ => .of_eq rfl rfl rfl }

theorem Stays.thenLoadBoards (h : Stays f s t) (m : .boards ∈ f.blocks) (rendering : .rendering ∈ f.blocks)
    (opens : f.setup = true) (image : Option SetupImage) : Stays f s (loadBoards image t) := by
  have open_ {p : Prop} : f.setup = false → p := fun shut => by simp [opens] at shut
  unfold loadBoards
  split
  · exact (h.thenBoards _ m (.inl rendering) open_).thenBoards _ m (.inl rendering) open_
  · exact h

theorem Stays.thenLoadSetup (h : Stays f s t) (d : Defines f) (x : SetupStatus) (image : Option SetupImage) :
    Stays f s { t with setup := t.setup.load x image } := by
  refine h.thenSetup d.definitions d.opens _ ?_ ?_
  all_goals cases image <;> simp [Setup.load]

/-- What the setup load needs of a scope. -/
structure Loads (f : Scope) : Prop extends Defines f where
  panels : Panels f := by exact {}
  boards : .boards ∈ f.blocks := by simp
  rows : ∀ r, r ∈ f.rows := by simp
  texts : ∀ e, textRange e ∈ f.ranges := by simp

theorem Stays.thenSetupLoad (h : Stays f s t) (v : Loads f) : Stays f s (setupLoad t) := by
  have drives := (v.panels.demands 0).drives
  have attribution := (v.panels.demands 0).attribution
  have rendering := (v.panels.demands 0).rendering
  unfold setupLoad
  have loaded := ((((h.thenLoadSetup v.toDefines (statusOf t.store.setup.state) t.loadedImage).thenAttr attribution
    { t.attr with totals := Vector.replicate 8 (ZoneTotals.initial t.partTime) }).thenReadFeedback drives).thenLoadBoards
    v.boards rendering v.opens t.loadedImage).thenRefitPanels v.panels
  refine Stays.thenRaiseIf (Stays.thenLog (Stays.thenEach (loaded.thenWriteRows fun r _ => v.rows r) ?_) v.panels.journals _ _ _
    _ _) v.panels.journals.interrupts _ _
  exact fun e _ _ step => step.thenWriteText (v.texts e)

theorem Stays.thenAutoService (h : Stays f s t) (v : Services f) (k : Links f) : Stays f s (autoService t) :=
  (h.thenEach fun z _ _ step => step.thenEnterService v z 5).thenEach fun b _ _ step =>
    step.trans ((Stays.refl _).thenEnterSearching k b 9).boardOnly

theorem Stays.thenStartUpPlan (h : Stays f s t) (p : Plans f) : Stays f s (startUpPlan t) := by
  unfold startUpPlan
  split
  · split
    · exact h.thenPlacePlan p _ _
    · exact h
  · exact h

theorem Stays.thenBecomeRunning (h : Stays startScope s t) : Stays startScope s (becomeRunning t) := by
  unfold becomeRunning
  have started := ((h.thenPart (by simp) .running).thenWriteRow (r := .header) (by simp)).thenMarks (by simp)
    { t.ord with scanDue := some (t.ms + Config.scanPeriodMs) } rfl
  dsimp only
  split
  · exact started
  · exact started.thenMarks (by simp) _ rfl

theorem stays_startUp (s : State) : Stays startScope s (startUp s) := by
  unfold startUp
  split
  · exact .refl s
  · have loaded : Stays startScope s (setupLoad (storeScan s)) :=
      ((Stays.refl s).thenStoreScan (by simp) (by simp)).thenSetupLoad { opens := rfl }
    exact (((loaded.thenAutoService {} {}).thenStartUpPlan {}).thenSettle {} _).thenBecomeRunning

/-! ### The invariants -/

/-- What every step keeps. -/
structure Keeps (s t : State) : Prop where
  canonical : s.canonical → t.canonical
  line : s.lineFollows → t.lineFollows
  counts : s.journalCounts → t.journalCounts
  stops : s.stopsFollow → t.stopsFollow
  notices : s.noticesOnce → t.noticesOnce

theorem Stays.keeps (h : Stays f s t) : Keeps s t := ⟨h.memory.2.2, h.line, h.counts, h.stops, h.notices⟩

theorem Keeps.refl (s : State) : Keeps s s := ⟨id, id, id, id, id⟩

theorem Keeps.trans (h : Keeps s t) (k : Keeps t u) : Keeps s u where
  canonical x := k.canonical (h.canonical x)
  line x := k.line (h.line x)
  counts x := k.counts (h.counts x)
  stops x := k.stops (h.stops x)
  notices x := k.notices (h.notices x)

/-- Marks of a scan and interrupt registers that follow their mask touch nothing else of what a step keeps. -/
theorem keeps_interrupts (x m : BitVec 5) (s : State) : Keeps s { s with irq := interruptsOf x m } :=
  { Keeps.refl s with line := fun _ => interruptsOf_line x m }

theorem keeps_hostWrites (l : List Host.Cell) (s : State) (inside : insideWindow l = true) : Keeps s (hostWrites l s) :=
  { Keeps.refl s with canonical := Memory.wf_hostWrites l s inside }

theorem keeps_endScan (s : State) : Keeps s (endScan s) := ⟨id, id, id, id, id⟩

theorem keeps_orderScan (s : State) : Keeps s (orderScan s) := by
  unfold orderScan
  split
  · exact (stays_visits (b := true) _ s (.inl rfl)).keeps.trans (keeps_endScan _)
  · exact .refl s

theorem keeps_powerOn (s : State) : Keeps s (powerOn s) := by
  obtain ⟨canonical, line, stops, counts, notices⟩ := invariantsHoldAtReset
  exact ⟨fun _ => canonical, fun _ => line, fun _ => counts, fun _ => stops, fun _ => notices⟩

theorem wf_clearedAtPartReset (mem : List Host.Cell) (h : Memory.wf mem = true) : Memory.wf (clearedAtPartReset mem) = true :=
  Memory.wf_clear _ _ _ (Memory.wf_clear _ _ _ (Memory.wf_clear _ _ _ (Memory.wf_clear _ _ _ h)))

theorem keeps_resetBlocks (s : State) : Keeps s (resetBlocks s) := by
  obtain ⟨-, line, stops, -, notices⟩ := invariantsHoldAtReset
  exact ⟨wf_clearedAtPartReset _, fun _ => line, id, fun _ => stops, fun _ => notices⟩

/-- The entries of a part reset, before the blocks take their reset values. -/
theorem stays_cuts (s : State) : Stays (everything false) s (cutShift (cutRecords s)) :=
  ((Stays.refl s).thenCutRecords fun _ => {}).thenCutShift {}

theorem keeps_partReset (s : State) : Keeps s (partReset s) :=
  ((stays_cuts s).keeps.trans (keeps_resetBlocks _)).trans
    ((Stays.refl (f := everything false) _).thenWriteRow (by simp)).keeps

/-- The commands of which no footprint is claimed. -/
theorem footprint_none {i : Instr} (h : footprint i = none) :
    i = .powerOnReset ∨ (∃ w, i = .partReset w) ∨ i = .startUp ∨ ∃ k l, i = .orderScan k l := by
  cases i <;> cases h
  case powerOnReset => exact .inl rfl
  case partReset w => exact .inr (.inl ⟨w, rfl⟩)
  case startUp => exact .inr (.inr (.inl rfl))
  case orderScan k l => exact .inr (.inr (.inr ⟨k, l, rfl⟩))

/-- Of a command with a footprint: it posts an order, writes CAUSE or MASK, or is another event. -/
theorem stays_or_interrupts {i : Instr} {F : Footprint} (print : footprint i = some F) (b : Bool)
    (shut : b = true ∨ s.setup.lockdown = true) (next : exec i s = .next t) :
    (∃ f : Scope, f.setup = b ∧ Stays f s t) ∨ ∃ x m, t = { s with irq := interruptsOf x m } := by
  cases posts : postedOrder i with
  | some q => exact .inl ⟨_, rfl, stays_order (p := q.1) (o := q.2) posts print b shut next⟩
  | none =>
    cases quiet : setsInterrupts i
    case false =>
      have h := stays_event posts print quiet next
      exact .inl ⟨{ F.events false with setup := b }, rfl, { h with setup := fun _ => h.setup rfl }⟩
    case true =>
      refine .inr ?_
      cases i <;> cases quiet
      all_goals
        obtain rfl := Host.Outcome.next.inj next
        exact ⟨_, _, rfl⟩

theorem keeps_exec {i : Instr} (next : exec i s = .next t) : Keeps s t := by
  cases print : footprint i with
  | some F =>
    rcases stays_or_interrupts print true (.inl rfl) next with ⟨f, -, h⟩ | ⟨x, m, rfl⟩
    · exact h.keeps
    · exact keeps_interrupts x m s
  | none =>
    rcases footprint_none print with rfl | ⟨w, rfl⟩ | rfl | ⟨k, l, rfl⟩
    · obtain rfl := Host.Outcome.next.inj next
      exact keeps_powerOn s
    · obtain ⟨-, rfl⟩ := next_of_if (by simp) next
      exact keeps_partReset s
    · obtain rfl := Host.Outcome.next.inj next
      exact (stays_startUp s).keeps
    · obtain ⟨inside, rfl⟩ := next_of_if (by simp) next
      have key : Keeps s { s with pins := { s.pins with key := k } } := ⟨id, id, id, id, id⟩
      exact (key.trans (keeps_hostWrites l _ inside)).trans (keeps_orderScan _)

/-- A step carries out the front command on the queue's rest, or lets a millisecond pass. -/
theorem keeps_step (next : step s = .next t) : Keeps s t := by
  unfold step at next
  split at next
  · obtain rfl := Host.Outcome.next.inj next
    exact ⟨id, id, id, id, id⟩
  · rename_i rest _
    exact Keeps.trans (t := { s with pending := rest }) ⟨id, id, id, id, id⟩ (keeps_exec next)

/-- Settles O5: every operation on the memory keeps its canonical form. -/
theorem everyStepKeepsTheMemoryCanonical : Obligations.EveryStepKeepsTheMemoryCanonical :=
  fun _ _ h next => (keeps_step next).canonical h

/-- Settles O6. -/
theorem everyStepKeepsTheInterruptLineAndNotices : Obligations.EveryStepKeepsTheInterruptLineAndNotices :=
  ⟨fun _ _ h next => (keeps_step next).line h, fun _ _ h next => (keeps_step next).notices h⟩

/-- Settles O7: every change of a demand set carries the stop request with it. -/
theorem everyStepKeepsStopRequestsWithDemands : Obligations.EveryStepKeepsStopRequestsWithDemands :=
  fun _ _ h next => (keeps_step next).stops h

/-- Settles O8: every append is preceded by a read of the take count, which brings the unread count to 512 at most. -/
theorem everyStepKeepsTheJournalCounts : Obligations.EveryStepKeepsTheJournalCounts :=
  fun _ _ h next => (keeps_step next).counts h

/-! ### Lockdown -/

/-- Under lockdown the scan changes no definition. -/
theorem orderScan_locked (s : State) (locked : s.setup.lockdown = true) :
    (orderScan s).setup.lockdown = true ∧ SameSetup s (orderScan s) := by
  unfold orderScan
  split
  · have visits := stays_visits (b := false) (scanOrder s.ord.takePos) s (.inr locked)
    exact ⟨visits.lockdown locked, (visits.setup rfl).trans (.of_eq rfl rfl rfl)⟩
  · exact ⟨locked, .refl s⟩

/-- Settles O9: the setup-changing orders are refused under lockdown, and no other order and no event opens the setup. -/
theorem lockdownHoldsUntilPowerOn : Obligations.LockdownHoldsUntilPowerOn := by
  intro i s t locked next notPower
  have same (h : SameSetup s t) := (⟨h.drives, h.zones, h.bindings, h.ladders, h.texts, h.keyed, h.loopScale, h.linkScale,
    h.refresh, h.boards⟩ : _ ∧ _ ∧ _ ∧ _ ∧ _ ∧ _ ∧ _ ∧ _ ∧ _ ∧ ∀ b : Fin 16, (t.brd.boards[b]).definition = _ ∧ _)
  cases print : footprint i with
  | some F =>
    rcases stays_or_interrupts print false (.inr locked) next with ⟨f, shut, h⟩ | ⟨x, m, rfl⟩
    · exact ⟨h.lockdown locked, fun _ _ => same (h.setup shut)⟩
    · exact ⟨locked, fun _ _ => same (.of_eq rfl rfl rfl)⟩
  | none =>
    rcases footprint_none print with rfl | ⟨w, rfl⟩ | rfl | ⟨k, l, rfl⟩
    · exact absurd rfl notPower
    · obtain ⟨-, rfl⟩ := next_of_if (by simp) next
      exact ⟨(stays_cuts s).lockdown locked, fun _ notReset => absurd rfl (notReset w)⟩
    · obtain rfl := Host.Outcome.next.inj next
      exact ⟨(stays_startUp s).lockdown locked, fun notStart => absurd rfl notStart⟩
    · obtain ⟨inside, rfl⟩ := next_of_if (by simp) next
      have scan := orderScan_locked (hostWrites l { s with pins := { s.pins with key := k } }) locked
      have written : SameSetup s (hostWrites l { s with pins := { s.pins with key := k } }) := .of_eq rfl rfl rfl
      exact ⟨scan.1, fun _ _ => same (written.trans scan.2)⟩

end Sys2Proof.Machine
end

section
/-! Proofs for the order unit (sections 1.4, 1.5 and 2.2): scans and requests for them, violations, and the protection check. -/

namespace Sys2Proof.Machine

variable {s t : State}

/-! ### Requests for a scan (R3) -/

/-- A scan that is carried out leaves in progress exactly the further scan that was marked. -/
theorem orderScan_marks (run : s.part = .running) (open_ : s.ord.hold = false) (scan : s.ord.scanning = true) :
    (orderScan s).ord.scanning = s.ord.further ∧ (orderScan s).ord.further = false := by
  rw [orderScan_running s run open_ scan]
  have visits := stays_visits (b := true) (scanOrder s.ord.takePos) s (.inl rfl)
  obtain ⟨-, -, further, -⟩ := visits.marks rfl
  exact ⟨further, rfl⟩

/-- Settles O13: the request by the part's state, the hold and the scan in progress; the scan by what its visits leave. -/
theorem attentionRequestsAScan : Obligations.AttentionRequestsAScan := by
  refine ⟨fun w l s inside => ⟨_, exec_attention w s inside, fun shut => attention_discarded (s := hostWrites l s) shut,
    fun run open_ scan => ?_,
    fun run open_ scan => ?_⟩, fun k l s inside run open_ scan => ⟨_, exec_orderScan k s inside, ?_⟩⟩
  · exact attention_begins (s := hostWrites l s) run open_ scan
  · have marked := attention_marks (s := hostWrites l s) run open_ scan
    refine ⟨marked, (exec_attention w _ rfl).trans ?_⟩
    rw [marked]
    exact congrArg _ (attention_marks (s := { hostWrites l s with ord := { s.ord with further := true } }) run open_ scan)
  · exact orderScan_marks (s := hostWrites l { s with pins := { s.pins with key := k } }) run open_ scan

/-! ### Scans (R8) -/

/-- The rotating order as offsets from the slot after the take position. -/
theorem scanOrder_eq (p : Fin 24) : scanOrder p = (List.finRange 24).map fun i => p + 1 + i := by
  revert p
  decide

theorem visitSlot_passed (k : Fin 24) (x : State)
    (h : x.slotInWork k = true ∨ x.slotState k = 0 ∨ x.slotState k = 2 ∨ x.slotState k = 3) : visitSlot k x = x := by
  unfold visitSlot
  rcases h with work | idle
  · simp [work]
  · rcases idle with h | h | h <;> simp [h]

theorem visitSlot_idle {k : Fin 24} {x : State} (h : x.slotIdle k) : visitSlot k x = x := visitSlot_passed k x (.inr h)

theorem slotIdle_visitSlot (k : Fin 24) {m : Fin 24} {x : State} (h : x.slotIdle m) : (visitSlot k x).slotIdle m :=
  ((Stays.refl (f := everything true) x).thenVisitSlot k (.inl rfl)).idle rfl m h

/-- Visits change nothing while every slot is passed over. -/
theorem visits_passed (l : List (Fin 24)) (x : State)
    (h : ∀ k ∈ l, x.slotInWork k = true ∨ x.slotState k = 0 ∨ x.slotState k = 2 ∨ x.slotState k = 3) :
    each l visitSlot x = x := by
  induction l with
  | nil => rfl
  | cons k ks ih =>
    show each ks visitSlot (visitSlot k x) = x
    rw [visitSlot_passed k x (h k (by simp))]
    exact ih fun m hm => h m (by simp [hm])

/-- Of a scan's visits only those of slots that are not idle count. -/
theorem visits_filter (p : Fin 24 → Bool) (l : List (Fin 24)) (x : State) (h : ∀ m, p m = false → x.slotIdle m) :
    each l visitSlot x = each (l.filter p) visitSlot x := by
  induction l generalizing x with
  | nil => rfl
  | cons k ks ih =>
    cases visited : p k with
    | true =>
      rw [List.filter_cons_of_pos visited]
      exact ih _ fun m hm => slotIdle_visitSlot k (h m hm)
    | false =>
      rw [List.filter_cons_of_neg (by simp [visited])]
      show each ks visitSlot (visitSlot k x) = _
      rw [visitSlot_idle (h k visited)]
      exact ih x h

theorem nodup_scanOrder (p : Fin 24) : (scanOrder p).Nodup := by
  rw [scanOrder_eq]
  exact (List.nodup_finRange 24).map (add_right_injective _)

theorem mem_scanOrder (p k : Fin 24) : k ∈ scanOrder p := by
  simp only [scanOrder, List.mem_append, List.mem_filter, List.mem_finRange, true_and, decide_eq_true_eq]
  exact lt_or_ge p k

theorem scanOrder_filter_one (p k : Fin 24) : (scanOrder p).filter (fun m => m = k) = [k] := by
  have once := List.count_eq_one_of_mem (nodup_scanOrder p) (mem_scanOrder p k)
  calc (scanOrder p).filter (fun m => m = k)
    _ = List.replicate ((scanOrder p).count k) k := List.filter_beq k
    _ = [k] := by rw [once, List.replicate_one]

/-- The two places of the rotating order, in their order. -/
theorem finRange_filter_two {i j : Fin 24} (h : i < j) : (List.finRange 24).filter (fun m => m = i ∨ m = j) = [i, j] := by
  refine List.Perm.eq_of_pairwise (le := (· < ·)) (fun a b _ _ x y => absurd x (lt_asymm y))
    ((List.pairwise_lt_finRange 24).filter _) (by simpa using h) ?_
  refine (List.perm_ext_iff_of_nodup ((List.nodup_finRange 24).filter _) (by simpa using h.ne)).2 fun m => ?_
  simp

theorem scanOrder_filter_two (p : Fin 24) {i j : Fin 24} (h : i < j) :
    (scanOrder p).filter (fun m => m = p + 1 + i ∨ m = p + 1 + j) = [p + 1 + i, p + 1 + j] := by
  rw [scanOrder_eq, List.filter_map]
  simpa [Function.comp_def] using congrArg (List.map fun m => p + 1 + m) (finRange_filter_two h)

/-- The take position is visited last. -/
theorem scanOrder_last (p : Fin 24) : ∃ l, scanOrder p = l ++ [p] ∧ p ∉ l := by
  refine ⟨(scanOrder p).dropLast, ?_⟩
  have last : scanOrder p = (scanOrder p).dropLast ++ [p] := by revert p; decide
  have once := last ▸ nodup_scanOrder p
  exact ⟨last, fun h => (List.disjoint_of_nodup_append once h) (by simp)⟩

/-- The timer's expiry stops it, and begins a scan where one may begin. -/
theorem scanTimerExpiry_of_due {d : Nat} (on : s.ord.scanDue = some d) :
    scanTimerExpiry s = { s with ms := max s.ms d, ord := { s.ord with
      scanDue := none, scanning := s.ord.scanning || (decide (s.part = .running) && !s.ord.hold) } } := by
  unfold scanTimerExpiry
  rw [on]
  dsimp only
  split
  · next begins =>
    have both : (decide (s.part = .running) && !s.ord.hold) = true := by simpa [State.reach] using begins
    simp [beginScan, State.reach, both]
  · next stays =>
    have neither : (decide (s.part = .running) && !s.ord.hold) = false := by simpa [State.reach] using stays
    simp [State.reach, neither]

/-- Settles O24: the scan is the fold of the visits over the rotating order, in which idle slots do not count. -/
theorem scansBeginVisitAndEnd : Obligations.ScansBeginVisitAndEnd := by
  refine ⟨⟨fun s off => ?_, fun s d on => ?_⟩, visitSlot_passed, fun key l s inside run open_ scan => ?_⟩
  · simp [exec, execScanTimerExpiry, scanTimerExpiry, off]
  · exact congrArg _ (scanTimerExpiry_of_due on)
  · intro u passed idle after ended
    have scanned : exec (.orderScan key l) s = .next (ended (each (scanOrder s.ord.takePos) visitSlot u)) :=
      (exec_orderScan key s inside).trans (congrArg _ (orderScan_running u run open_ scan))
    refine ⟨?_, fun all => ?_, fun others => ?_, fun k others => ?_, fun i j lt others => ?_⟩
    · rw [scanned, scanOrder_eq, each, List.foldl_map]
    · rw [scanned, visits_passed _ u fun k _ => all k]
    · obtain ⟨before, last, absent⟩ := scanOrder_last s.ord.takePos
      rw [scanned, last, each, List.foldl_append]
      have none_ : each before visitSlot u = u := visits_passed _ u fun k hk => others k fun e => absent (e ▸ hk)
      exact congrArg (fun x => Host.Outcome.next (ended (visitSlot s.ord.takePos x))) none_
    · rw [scanned, visits_filter (fun m => m = k) _ u fun m hm => others m (by simpa using hm), scanOrder_filter_one]
      rfl
    · rw [scanned, visits_filter (fun m => m = after i ∨ m = after j) _ u fun m hm => others m ?_ ?_,
        scanOrder_filter_two _ lt]
      · rfl
      all_goals simp_all

/-! ### Violations (R12) -/

theorem visitSlot_unknown {k : Fin 24} (idle : s.slotInWork k = false) (posted : s.slotState k = 1)
    (unknown : parseOrder (s.slotKind k) (s.slotParams k) = none) :
    visitSlot k s = answerViolation reasonUnknownOrder reasonUnknownOrder k s := by
  simp [visitSlot, takeSlot, idle, posted, unknown]

theorem visitSlot_bad {k : Fin 24} (idle : s.slotInWork k = false) (bad : 3 < (s.slotState k).toNat) :
    visitSlot k s = answerViolation reasonBadSlotState (s.slotState k).toNat k s := by
  unfold visitSlot
  rw [idle, if_neg Bool.false_ne_true]
  split
  case h_5 => rfl
  all_goals omega

/-- A violation in a READY unit locks it with a new record; in a LOCKED one the record counts a further violation. -/
theorem violation_ready (r : Nat) (k : Fin 24) (x v : Byte) (h : s.ord.locked = false) :
    (violation r k x v s).ord = { s.ord with locked := true, lock := ⟨r, num k, x, v, 0⟩ }
      ∧ (violation r k x v s).raised .locked := by
  unfold violation
  rw [if_neg (by simp [h])]
  exact ⟨rfl, (raises_journal _ _).1 _ (raiseCause_raised .locked _)⟩

theorem violation_locked (r : Nat) (k : Fin 24) (x v : Byte) (h : s.ord.locked = true) :
    violation r k x v s = writeRow .header
      { s with ord := { s.ord with lock := { s.ord.lock with further := satAdd 65535 s.ord.lock.further 1 } } } := by
  unfold violation
  rw [if_pos h]

theorem answerSlot_keeps_raised (k : Fin 24) (n : Bool) (g : Half) (x : Answer) (c : CauseName) (h : s.raised c) :
    (answerSlot k n g x s).raised c := (raises_raiseIf n .orderDone s).1 c h

/-- A slot answered for a violation: the answer, and what becomes of the lock. -/
theorem answerViolation_effect (r n : Nat) (k : Fin 24) (s : State) :
    let t := answerViolation r n k s
    t.shows k (s.slotTag k) (refuse 4 n) ∧ t.ord.takePos = k
    ∧ (s.ord.locked = false →
        t.ord.locked = true ∧ t.ord.lock = ⟨r, num k, s.slotKind k, s.slotState k, 0⟩ ∧ t.raised .locked)
    ∧ (s.ord.locked = true →
        t.ord.lock = { s.ord.lock with further := min (s.ord.lock.further + 1) 65535 } ∧ t.jrn = s.jrn) := by
  have position : (answerViolation r n k s).ord.takePos = k := by
    cases locked : s.ord.locked with
    | false => exact congrArg OrderUnit.takePos (violation_ready r k _ _ (s := atTake k s) locked).1
    | true => exact congrArg (fun x => x.ord.takePos) (violation_locked r k _ _ (s := atTake k s) locked)
  refine ⟨answerSlot_shows .., position, fun ready => ?_, fun locked => ?_⟩
  · obtain ⟨ord, raised⟩ := violation_ready r k (s.slotKind k) (s.slotState k) (s := atTake k s) ready
    exact ⟨congrArg OrderUnit.locked ord, congrArg OrderUnit.lock ord, answerSlot_keeps_raised _ _ _ _ _ raised⟩
  · have counted := violation_locked r k (s.slotKind k) (s.slotState k) (s := atTake k s) locked
    have journal : (violation r k (s.slotKind k) (s.slotState k) (atTake k s)).jrn = s.jrn := by
      rw [counted]
      rfl
    refine ⟨(congrArg (fun x => x.ord.lock) counted).trans ?_, journal⟩
    simp [satAdd, atTake]

/-- Settles O22: both kinds of violation are answered alike, with their own reason and detail. -/
theorem violationsLockTheUnit : Obligations.ViolationsLockTheUnit := by
  intro k s idle found
  rcases found with ⟨posted, unknown⟩ | bad
  · simpa only [posted, if_true, visitSlot_unknown idle posted unknown, reasonUnknownOrder]
      using answerViolation_effect 1 1 k s
  · have other : ¬ s.slotState k = 1 := fun one => by simp [one] at bad
    simpa only [other, if_false, visitSlot_bad idle bad, reasonBadSlotState]
      using answerViolation_effect 2 (s.slotState k).toNat k s

/-! ### Protection (R21) -/

theorem Order.perform_guarded (k : Fin 24) {o : Order} (setup : o.setupChanging = true) :
    ∃ f, o.perform k = guarded f := by
  cases o <;> cases setup <;> exact ⟨_, rfl⟩

/-- Where the protection check does not pass, the order is refused with the mode and the key reading (R21). -/
theorem guarded_refuses (f : Perform) (h : ¬ (s.setup.lockdown = false ∧ (s.setup.keyed = true → s.pins.key = .edit))) :
    guarded f s = (s, some (refuse 10 (if s.setup.lockdown then 1 else 2)
      [if s.setup.keyed then 1 else 0, if s.pins.key = .edit then 1 else 0])) := by
  have data : s.protectionData = [if s.setup.keyed then 1 else 0, if s.pins.key = .edit then 1 else 0] := by
    unfold State.protectionData
    cases s.setup.keyed <;> cases s.pins.key <;> rfl
  have refused : s.protection = some (if s.setup.lockdown then 1 else 2) := by
    unfold State.protection
    cases locked : s.setup.lockdown with
    | true => rfl
    | false =>
      cases keyed : s.setup.keyed <;> cases key : s.pins.key <;> simp_all
  unfold guarded
  rw [refused, data]
  rfl

/-- Settles O23: the check is made before the owner sees the order. -/
theorem protectionRefusesSetupChanges : Obligations.ProtectionRefusesSetupChanges := by
  intro i p o s posted setup ready shut
  obtain ⟨f, perform⟩ := Order.perform_guarded p.slot setup
  have refused := guarded_refuses f (s := atTake p.slot (postSlot p o s)) shut
  refine answers_of_owner (exec_postedOrder s posted) ready (perform ▸ refused) rfl ?_
  exact answered_unchanged_bounds p o _ _ _ s

end Sys2Proof.Machine
end

section
/-! Proofs for the part reset (sections 1.2, 1.6 and the resets of each chapter). -/

namespace Sys2Proof.Machine

variable {s : State}

/-- What cutting the open records and the open shift may change. -/
def cutScope : Scope :=
  { blocks := [.attribution, .journal, .interrupts, .display, .rendering]
    rows := .header :: zoneRows ++ openRows ++ historyRows
    ranges := [journalRange] }

theorem stays_cutScope (s : State) : Stays cutScope s (cutShift (cutRecords s)) :=
  ((Stays.refl s).thenCutRecords fun _ =>
    { journal := by simp [cutScope], interrupts := by simp [cutScope], header := by simp [cutScope], ring := by simp [cutScope],
      display := by simp [cutScope], rendering := by simp [cutScope], zones := by simp [cutScope],
      attribution := by simp [cutScope], openSlot := by simp [cutScope], history := by simp [cutScope] }).thenCutShift
    { journal := by simp [cutScope], interrupts := by simp [cutScope], header := by simp [cutScope], ring := by simp [cutScope] }

/-- Neither a row nor the journal reaches the take count field. -/
theorem cut_readByte_takeField (s : State) {a : Nat} (low : 0x10 ≤ a) (high : a < 0x14) :
    (cutShift (cutRecords s)).readByte a = s.readByte a := by
  refine (stays_cutScope s).bounds.2.2.1 a fun r hr => ?_
  simp only [Footprint.stores, cutScope, zoneRows, openRows, historyRows, List.mem_append, List.mem_flatten, List.mem_map,
    List.mem_cons, List.mem_finRange, true_and, List.not_mem_nil, or_false] at hr
  rcases hr with ⟨l, ⟨q, hq, rfl⟩, hr⟩ | rfl
  · rcases hq with ((rfl | ⟨z, rfl⟩) | ⟨d, rfl⟩) | ⟨i, rfl⟩
    · simp only [Row.ranges, List.mem_cons, List.not_mem_nil, or_false] at hr
      rcases hr with rfl | rfl
      · exact .inr low
      · exact .inl high
    all_goals
      simp only [Row.ranges, Row.base, List.mem_cons, List.not_mem_nil, or_false] at hr
      subst hr
      exact .inl (by simp; omega)
  · exact .inl (by simp [journalRange]; omega)

/-- The ranges that a part reset clears (R5). -/
def clearedRange (a : Nat) : Prop :=
  0x0100 ≤ a ∧ a < 0x0700 ∨ 0x0D70 ≤ a ∧ a < 0x0D80 ∨ 0x1AA0 ≤ a ∧ a < 0x1B00 ∨ 0x6A00 ≤ a ∧ a < 0x7000

theorem read_clearedAtPartReset (mem : List Host.Cell) (a : Nat) :
    (clearedRange a → Memory.read (clearedAtPartReset mem) a = 0)
      ∧ (¬ clearedRange a → Memory.read (clearedAtPartReset mem) a = Memory.read mem a) := by
  simp only [clearedAtPartReset, Memory.read_clear, clearedRange]
  constructor
  · intro cleared
    split_ifs
    case neg => omega
    all_goals rfl
  · intro kept
    rw [if_neg (by omega), if_neg (by omega), if_neg (by omega), if_neg (by omega)]

/-- The header's writing reaches no byte of the take count, and none behind the header. -/
theorem writeRow_header_readByte (s : State) {a : Nat} (off : 0x10 ≤ a ∧ a < 0x14 ∨ 0x100 ≤ a) :
    (writeRow .header s).readByte a = s.readByte a :=
  (touches_writeRow .header s).2.1 a (by simp [outside, Row.ranges]; omega)

theorem partReset_cleared (s : State) {a : Nat} (h : clearedRange a) : (partReset s).readByte a = 0 := by
  refine (writeRow_header_readByte _ (.inr ?_)).trans ((read_clearedAtPartReset _ a).1 h)
  simp only [clearedRange] at h
  omega

theorem partReset_kept (s : State) {a : Nat} (off : 0x10 ≤ a ∧ a < 0x14 ∨ 0x100 ≤ a) (h : ¬ clearedRange a) :
    (partReset s).readByte a = (cutShift (cutRecords s)).readByte a :=
  (writeRow_header_readByte _ off).trans ((read_clearedAtPartReset _ a).2 h)

theorem partReset_takeField (s : State) : (partReset s).takeField = s.takeField :=
  congrArg (wordAt · 0) (readRun_congr fun i hi => by
    have low : 0x10 ≤ takeCountOffset + i := Nat.le_add_right _ _
    have high : takeCountOffset + i < 0x14 := by simp only [takeCountOffset]; omega
    exact (partReset_kept s (.inl ⟨low, high⟩) (by simp only [clearedRange]; omega)).trans
      (cut_readByte_takeField s low high))

/-- With no record and no shift open nothing is journaled. -/
theorem cut_nothing (records : s.openDrives = []) (shift : s.shiftOpen = false) :
    cutShift (cutRecords s) = attributionOnly s s := by
  have none_ : cutRecords s = attributionOnly s s := by rw [cutRecords, records]; rfl
  have same : (attributionOnly s s).shiftOpen = false := by simpa only [State.shiftOpen, attributionOnly_shift] using shift
  unfold cutShift
  rw [none_, if_neg (by simp [same])]

/-- Settles O16: the blocks are those of the reset state but for what is named; the cuts before them journal and file alone. -/
theorem partResetKeepsWhatTheManualKeeps : Obligations.PartResetKeepsWhatTheManualKeeps := by
  intro w s reset
  have cut := (stays_cutScope s).blocks
  have key := cut .key (by simp [cutScope])
  have feedback := cut .feedback (by simp [cutScope])
  have setup := ((serviceOf_eq_iff _ _).1 (cut .definitions (by simp [cutScope]))).2.2.2.2.2.2.1
  have shift : (cutShift (cutRecords s)).shift = s.shift := cut .shift (by simp [cutScope])
  have time : (cutShift (cutRecords s)).ms = s.ms := cut .time (by simp [cutScope])
  have store : (cutShift (cutRecords s)).store = s.store := cut .store (by simp [cutScope])
  have pins : (cutShift (cutRecords s)).pins = s.pins := by
    simp only [Block.same] at key feedback
    generalize (cutShift (cutRecords s)).pins = x at key feedback ⊢
    cases x
    simp_all
  refine ⟨partReset s, if_pos reset, rfl, rfl, rfl, rfl, rfl, rfl, rfl, ?_, ?_, fun d => ?_, time, pins, ?_, rfl, rfl, rfl, rfl,
    fun a h => partReset_cleared s h, partReset_takeField s, fun records closed => ?_⟩
  · exact congrArg (fun x => { Setup.initial with lockdown := x }) setup
  · exact congrArg (fun x : Shift => { Shift.initial with clock := x.clock, history := x.history }) shift
  · exact Vector.getElem_replicate _
  · exact congrArg Store.cut store
  · have nothing := cut_nothing records closed
    refine ⟨congrArg (fun x => x.jrn.put) nothing, congrArg (fun x => x.attr.history) nothing, fun a high => ?_⟩
    rw [partReset_kept s (.inr (by omega)) (by simp only [clearedRange]; omega), nothing]
    simp only [State.readByte, attributionOnly_win]

end Sys2Proof.Machine
end

section
/-! Proofs for STOP ALL WORK (R15): what the owner of a slot's long order gives up, and what every other slot's owner keeps. -/

namespace Sys2Proof.Machine

variable {s t u : State}

/-- What every operation of a list leaves, the list leaves. -/
theorem each_same {α σ β : Type} (g : σ → β) {l : List α} {f : α → σ → σ} {s : σ} (h : ∀ x ∈ l, ∀ t, g (f x t) = g t) :
    g (each l f s) = g s := by
  induction l generalizing s with
  | nil => rfl
  | cons x xs ih => exact (ih fun y hy => h y (List.mem_cons_of_mem _ hy)).trans (h x (List.mem_cons_self ..) s)

/-! ### What the owner of an aborted order does -/

theorem addLostPanels_setup (z : Fin 8) (s : State) : (addLostPanels z s).setup = s.setup := by
  unfold addLostPanels
  split
  · rfl
  · split
    · rfl
    · refine each_same State.setup fun p _ u => ?_
      unfold addPanelDemand
      split <;> rfl

theorem changeService_setup (z : Fin 8) (x : Service) (k : Option (Fin 24)) (n b : Nat) (s : State) :
    (changeService z x k n b s).setup = { s.setup with
      service := upd s.setup.service z fun _ => x, drainSlot := upd s.setup.drainSlot z fun _ => k,
      drainCalls := upd s.setup.drainCalls z fun _ => n } := by
  have shown (d : Fin 8) (t : State) : (showOpen d t).setup = t.setup := by
    unfold showOpen showSlot
    split
    · split <;> rfl
    · rfl
  unfold changeService
  simp only [log_setup, writeRow_setup]
  split
  · rw [shown]; rfl
  · rfl

theorem abortDrain_setup (z : Fin 8) (s : State) :
    (abortDrain z s).setup = { s.setup with
      service := upd s.setup.service z fun _ => .inService, drainSlot := upd s.setup.drainSlot z fun _ => none,
      drainCalls := upd s.setup.drainCalls z fun _ => 0 } := by
  have led : (addLostPanels z (follow s (changeService z .inService none 0 4 s))).setup
      = (changeService z .inService none 0 4 s).setup := by rw [addLostPanels_setup, follow_setup]
  show serviceOf s.setup (addLostPanels z (follow s (changeService z .inService none 0 4 s))).setup = _
  rw [led, changeService_setup]
  rfl

/-- The link state of a board and the slot of its reset. -/
def State.boardReset (s : State) (b : Fin 16) : LinkState × Option (Fin 24) :=
  ((s.brd.boards[b]).state, (s.brd.boards[b]).resetSlot)

theorem abortDrain_boardReset (z : Fin 8) (s : State) (b : Fin 16) : (abortDrain z s).boardReset b = s.boardReset b := by
  simp [State.boardReset, abortDrain, serviceOnly, followed, Board.withRendering]

theorem abandonFrame_boards (b : Fin 16) (s : State) : (abandonFrame b s).brd.boards = s.brd.boards := rfl

theorem abortReset_boardReset (b c : Fin 16) (s : State) :
    (abortReset b s).boardReset c = if c = b then (.fault, none) else s.boardReset c := by
  simp only [State.boardReset, abortReset, boardOnly_brd, enterFault, changeLinkState, raiseIf_brd, log_brd, updBoard_board,
    abandonFrame_boards]
  split <;> rfl

theorem abortStore_store (o : StoreOp) (s : State) :
    (abortStore o s).store.op = none ∧ (abortStore o s).store.stateOf o.job = 2 := by
  refine ⟨rfl, ?_⟩
  show Store.stateOf { s.store.onPlace o.job Place.damage Place.damage with op := none } o.job = 2
  cases o.job <;> simp [Store.stateOf, Store.onPlace, upd, Place.damage, PlaceState.code]

theorem mem_drainOf {k : Fin 24} {z : Fin 8} (h : s.drainOf k = some z) : s.setup.drainSlot[z] = some k := by
  simpa using List.find?_some h

theorem mem_resetOf {k : Fin 24} {b : Fin 16} (h : s.resetOf k = some b) : (s.boardReset b).2 = some k := by
  simpa [State.boardReset] using List.find?_some h

/-! ### Every other slot -/

/-- What the owners may change when they abort. -/
def abortScope : Scope :=
  { blocks := [.service, .drives, .attribution, .boards, .store, .journal, .interrupts, .display, .rendering]
    rows := .header :: zoneRows ++ driveRows ++ openRows
    ranges := [journalRange] }

@[simp] theorem abortScope_blocks : abortScope.blocks
    = [.service, .drives, .attribution, .boards, .store, .journal, .interrupts, .display, .rendering] := rfl
@[simp] theorem abortScope_rows : abortScope.rows = .header :: zoneRows ++ driveRows ++ openRows := rfl
@[simp] theorem abortScope_ranges : abortScope.ranges = [journalRange] := rfl

theorem stays_abortOwner (k : Fin 24) (s : State) : Stays abortScope s (abortOwner k s) :=
  (Stays.refl s).thenAbortOwner {} {} (by simp) k

/-- The bytes of a slot are the same. -/
def SameSlot (k : Fin 24) (s t : State) : Prop := ∀ i < 64, t.readByte (slotBase k + i) = s.readByte (slotBase k + i)

theorem SameSlot.trans {k : Fin 24} (h : SameSlot k s t) (x : SameSlot k t u) : SameSlot k s u :=
  fun i hi => (x i hi).trans (h i hi)

/-- Rows and ranges clear of the slots leave every slot. -/
theorem Touches.sameSlot {rows : List Row} {ranges : List (Nat × Nat)} (h : Touches rows ranges s t) {k : Fin 24}
    (clear : ∀ r ∈ ranges, r.1 + r.2 ≤ slotBase k ∨ slotBase k + 64 ≤ r.1) : SameSlot k s t := by
  refine fun i hi => h.2.1 _ fun x hx => ?_
  rcases List.mem_append.1 hx with hx | hx
  · simp only [List.mem_flatten, List.mem_map] at hx
    obtain ⟨l, ⟨r, -, rfl⟩, hx⟩ := hx
    have := r.ranges_clear x hx
    simp only [slotBase]
    omega
  · have := clear x hx
    omega

theorem slotRange_apart {k m : Fin 24} (ne : m ≠ k) :
    (slotRange m).1 + (slotRange m).2 ≤ slotBase k ∨ slotBase k + 64 ≤ (slotRange m).1 := by
  have apart : m.val ≠ k.val := fun e => ne (Fin.ext e)
  simp only [slotRange, slotBase]
  omega

theorem sameSlot_abortOwner (k m : Fin 24) (s : State) : SameSlot k s (abortOwner m s) :=
  (stays_abortOwner m s).memory.sameSlot fun r hr => by
    obtain rfl : r = journalRange := by simpa using hr
    simp only [journalRange, slotBase]
    omega

/-- An order unit's part of an abort: the slot is in work no more, and one that reads TAKEN is answered ABORTED. -/
theorem abortLong_ord (w : Work) (s : State) :
    (abortLong w s).ord = { s.ord with inWork := s.ord.inWork.filter fun x => x.slot != w.slot } := by
  unfold abortLong
  dsimp only
  split <;> rfl

theorem abortLong_setup (w : Work) (s : State) : (abortLong w s).setup = s.setup := by
  unfold abortLong
  dsimp only
  split <;> rfl

theorem abortLong_brd (w : Work) (s : State) : (abortLong w s).brd = s.brd := by
  unfold abortLong
  dsimp only
  split <;> rfl

theorem abortLong_store (w : Work) (s : State) : (abortLong w s).store = s.store := by
  unfold abortLong
  dsimp only
  split <;> rfl

theorem abortLong_shows {w : Work} (taken : s.slotState w.slot = 2) : (abortLong w s).shows w.slot w.tag (refuse 9 0 []) := by
  unfold abortLong
  dsimp only
  rw [if_pos (show (dropWork w.slot s).slotState w.slot = 2 from taken)]
  exact answerSlot_shows ..

theorem sameSlot_abortLong {k : Fin 24} {w : Work} (ne : w.slot ≠ k) (s : State) : SameSlot k s (abortLong w s) := by
  unfold abortLong
  dsimp only
  split
  · exact (touches_answerSlot w.slot _ _ _ (dropWork w.slot s)).sameSlot fun r hr => by
      obtain rfl : r = slotRange w.slot := by simpa using hr
      exact slotRange_apart ne
  · exact fun i _ => rfl

/-- The order unit after the abort of a list of long orders. -/
theorem each_abortWork_ord (l : List Work) (s : State) :
    (each l abortWork s).ord = { s.ord with inWork := s.ord.inWork.filter fun x => l.all fun w => x.slot != w.slot } := by
  induction l generalizing s with
  | nil => simp [each]
  | cons w ws ih =>
    have first : (abortWork w s).ord = { s.ord with inWork := s.ord.inWork.filter fun x => x.slot != w.slot } := by
      have owner : (abortOwner w.slot s).ord = s.ord := (stays_abortOwner w.slot s).blocks .orders (by simp)
      rw [abortWork, abortLong_ord, owner]
    refine (ih (abortWork w s)).trans ?_
    rw [first]
    simp [List.filter_filter, Bool.and_comm]

/-- The owner of a slot's long order has the same to give up. -/
structure OwnerSame (k : Fin 24) (s t : State) : Prop where
  drain : t.drainOf k = s.drainOf k
  reset : t.resetOf k = s.resetOf k
  store : ∀ o, s.store.op = some o → o.slot = k → t.store.op = some o

/-- The owner of a slot's long order has given it up (R37, R152, R165). -/
structure Released (w : Work) (s t : State) : Prop where
  shown : s.slotState w.slot = 2 → t.shows w.slot w.tag (refuse 9 0 [])
  drain : ∀ z, s.drainOf w.slot = some z → t.setup.service[z] = .inService ∧ t.setup.drainSlot[z] = none
  reset : ∀ b, s.drainOf w.slot = none → s.resetOf w.slot = some b → t.boardReset b = (.fault, none)
  store : ∀ o, s.drainOf w.slot = none → s.resetOf w.slot = none → s.store.op = some o → o.slot = w.slot →
    t.store.op = none ∧ t.store.stateOf o.job = 2

theorem abortOwner_drain {k : Fin 24} {z : Fin 8} (h : s.drainOf k = some z) : abortOwner k s = abortDrain z s := by
  simp [abortOwner, h]

theorem abortOwner_reset {k : Fin 24} {b : Fin 16} (none_ : s.drainOf k = none) (h : s.resetOf k = some b) :
    abortOwner k s = abortReset b s := by
  simp [abortOwner, none_, h]

theorem abortOwner_store {k : Fin 24} {o : StoreOp} (none_ : s.drainOf k = none) (noReset : s.resetOf k = none)
    (h : s.store.op = some o) (own : o.slot = k) : abortOwner k s = abortStore o s := by
  simp [abortOwner, none_, noReset, h, own]

theorem abortOwner_other {k : Fin 24} (none_ : s.drainOf k = none) (noReset : s.resetOf k = none)
    (h : ∀ o, s.store.op = some o → o.slot ≠ k) : abortOwner k s = s := by
  unfold abortOwner
  rw [none_, noReset]
  cases op : s.store.op with
  | none => rfl
  | some o => exact if_neg (h o op)

/-- The four things an abort's owner may do. -/
theorem abortOwner_cases (k : Fin 24) (s : State) :
    (∃ z, s.drainOf k = some z ∧ abortOwner k s = abortDrain z s)
    ∨ (∃ b, s.drainOf k = none ∧ s.resetOf k = some b ∧ abortOwner k s = abortReset b s)
    ∨ (∃ o, s.drainOf k = none ∧ s.resetOf k = none ∧ s.store.op = some o ∧ o.slot = k ∧ abortOwner k s = abortStore o s)
    ∨ abortOwner k s = s := by
  cases drain : s.drainOf k with
  | some z => exact .inl ⟨z, rfl, abortOwner_drain drain⟩
  | none =>
    cases reset : s.resetOf k with
    | some b => exact .inr (.inl ⟨b, rfl, rfl, abortOwner_reset drain reset⟩)
    | none =>
      by_cases own : ∃ o, s.store.op = some o ∧ o.slot = k
      · obtain ⟨o, op, slot⟩ := own
        exact .inr (.inr (.inl ⟨o, rfl, rfl, op, slot, abortOwner_store drain reset op slot⟩))
      · exact .inr (.inr (.inr (abortOwner_other drain reset fun o op slot => own ⟨o, op, slot⟩)))

theorem drainOf_congr {k : Fin 24} (h : ∀ z : Fin 8, t.setup.drainSlot[z] = some k ↔ s.setup.drainSlot[z] = some k) :
    t.drainOf k = s.drainOf k := by
  refine congrArg (fun p => List.find? p (List.finRange 8)) (funext fun z => ?_)
  simpa using h z

theorem resetOf_congr {k : Fin 24} (h : ∀ b : Fin 16, (t.boardReset b).2 = some k ↔ (s.boardReset b).2 = some k) :
    t.resetOf k = s.resetOf k := by
  refine congrArg (fun p => List.find? p (List.finRange 16)) (funext fun b => ?_)
  simpa [State.boardReset] using h b

/-- The abort of one slot's order leaves the owner of another slot's. -/
theorem abortOwner_ownerSame {k m : Fin 24} (ne : m ≠ k) (s : State) : OwnerSame k s (abortOwner m s) := by
  rcases abortOwner_cases m s with ⟨z, drain, eq⟩ | ⟨b, -, reset, eq⟩ | ⟨o, -, -, op, slot, eq⟩ | eq <;> rw [eq]
  · refine ⟨drainOf_congr fun x => ?_, resetOf_congr fun b => by rw [abortDrain_boardReset], fun o op _ => op⟩
    rw [abortDrain_setup, upd_getElem]
    split
    · next same => simp [same, mem_drainOf drain, ne]
    · rfl
  · refine ⟨rfl, resetOf_congr fun c => ?_, fun o op _ => op⟩
    rw [abortReset_boardReset]
    split
    · next same => simp [same, mem_resetOf reset, ne]
    · rfl
  · exact ⟨rfl, rfl, fun x other own => absurd (slot.symm.trans ((congrArg StoreOp.slot (Option.some.inj (op.symm.trans other))).trans own)) ne⟩
  · exact ⟨rfl, rfl, fun _ op _ => op⟩

theorem abortLong_ownerSame (k : Fin 24) (w : Work) (s : State) : OwnerSame k s (abortLong w s) :=
  ⟨drainOf_congr fun _ => by rw [abortLong_setup], resetOf_congr fun _ => by rw [State.boardReset, abortLong_brd]; rfl,
    fun o op _ => by rwa [abortLong_store]⟩

theorem OwnerSame.trans {k : Fin 24} (h : OwnerSame k s t) (x : OwnerSame k t u) : OwnerSame k s u :=
  ⟨x.drain.trans h.drain, x.reset.trans h.reset, fun o op own => x.store o (h.store o op own) own⟩

theorem abortWork_ownerSame {k : Fin 24} {w : Work} (ne : w.slot ≠ k) (s : State) : OwnerSame k s (abortWork w s) :=
  (abortOwner_ownerSame ne s).trans (abortLong_ownerSame k w _)

theorem sameSlot_abortWork {k : Fin 24} {w : Work} (ne : w.slot ≠ k) (s : State) : SameSlot k s (abortWork w s) :=
  (sameSlot_abortOwner k w.slot s).trans (sameSlot_abortLong ne _)

/-- The abort of a slot's order releases what its owner held. -/
theorem abortWork_released (w : Work) (s : State) : Released w s (abortWork w s) where
  shown taken := abortLong_shows ((sameSlot_abortOwner w.slot w.slot s 0 (by decide)).trans taken)
  drain z drain := by
    rw [abortWork, abortLong_setup, abortOwner_drain drain, abortDrain_setup]
    simp [upd]
  reset b none_ reset := by
    rw [abortWork, State.boardReset, abortLong_brd, abortOwner_reset none_ reset]
    exact (abortReset_boardReset b b s).trans (if_pos rfl)
  store o none_ noReset op own := by
    rw [abortWork, abortLong_store, abortOwner_store none_ noReset op own]
    exact abortStore_store o s

/-- What one slot's owner has given up stays given up while another slot's order is aborted. -/
theorem Released.thenAbortWork {w x : Work} (h : Released w s t) (ne : x.slot ≠ w.slot) : Released w s (abortWork x t) where
  shown taken := (h.shown taken).congr (sameSlot_abortWork ne t)
  drain z drain := by
    have free := h.drain z drain
    rw [abortWork, abortLong_setup]
    rcases abortOwner_cases x.slot t with ⟨y, held, eq⟩ | ⟨b, -, -, eq⟩ | ⟨o, -, -, -, -, eq⟩ | eq <;> rw [eq]
    · have other : z ≠ y := fun same => by
        subst same
        simp [mem_drainOf held] at free
      rw [abortDrain_setup, upd_getElem, upd_getElem, if_neg other, if_neg other]
      exact free
    · exact free
    · exact free
    · exact free
  reset b none_ reset := by
    have free := h.reset b none_ reset
    rw [abortWork, State.boardReset, abortLong_brd]
    rcases abortOwner_cases x.slot t with ⟨y, -, eq⟩ | ⟨c, -, held, eq⟩ | ⟨o, -, -, -, -, eq⟩ | eq <;> rw [eq]
    · exact (abortDrain_boardReset y t b).trans free
    · have other : b ≠ c := fun same => by
        subst same
        simpa [free] using mem_resetOf held
      exact ((abortReset_boardReset c b t).trans (if_neg other)).trans free
    · exact free
    · exact free
  store o none_ noReset op own := by
    have free := h.store o none_ noReset op own
    rw [abortWork, abortLong_store]
    rcases abortOwner_cases x.slot t with ⟨y, -, eq⟩ | ⟨b, -, -, eq⟩ | ⟨q, -, -, held, -, eq⟩ | eq <;> rw [eq]
    · exact free
    · exact free
    · simp [free.1] at held
    · exact free

theorem Released.of_same {w : Work} (h : Released w t u) (own : OwnerSame w.slot s t) (slot : SameSlot w.slot s t) :
    Released w s u where
  shown taken := h.shown ((slot 0 (by decide)).trans taken)
  drain z drain := h.drain z (own.drain.trans drain)
  reset b none_ reset := h.reset b (own.drain.trans none_) (own.reset.trans reset)
  store o none_ noReset op slot := h.store o (own.drain.trans none_) (own.reset.trans noReset) (own.store o op slot) slot

theorem Released.thenEach {w : Work} {xs : List Work} (h : Released w s t) (apart : ∀ x ∈ xs, x.slot ≠ w.slot) :
    Released w s (each xs abortWork t) := by
  induction xs generalizing t with
  | nil => exact h
  | cons x xs ih => exact ih (h.thenAbortWork (apart x (by simp))) fun y hy => apart y (by simp [hy])

/-- With each slot in work once, every owner of an aborted order releases what it held. -/
theorem each_abortWork_released {l : List Work} (once : (l.map Work.slot).Nodup) {w : Work} (mem : w ∈ l) (s : State) :
    Released w s (each l abortWork s) := by
  induction l generalizing s with
  | nil => simp at mem
  | cons x xs ih =>
    obtain ⟨fresh, once⟩ := List.nodup_cons.1 once
    rcases List.mem_cons.1 mem with rfl | mem
    · exact (abortWork_released w s).thenEach fun y hy same => fresh (same ▸ List.mem_map_of_mem hy)
    · have ne : x.slot ≠ w.slot := fun same => fresh (same ▸ List.mem_map_of_mem mem)
      exact (ih once mem (abortWork x s)).of_same (abortWork_ownerSame ne s) (sameSlot_abortWork ne s)

/-! ### The order -/

theorem Released.congr {w : Work} (h : Released w s t) (setup : u.setup = t.setup) (boards : ∀ b, u.boardReset b = t.boardReset b)
    (store : u.store = t.store) (slot : SameSlot w.slot t u) : Released w s u where
  shown taken := (h.shown taken).congr slot
  drain z drain := by rw [setup]; exact h.drain z drain
  reset b none_ reset := (boards b).trans (h.reset b none_ reset)
  store o none_ noReset op own := by rw [store]; exact h.store o none_ noReset op own

theorem boardReset_of_plain (h : t.brd.boards.map Board.plain = s.brd.boards.map Board.plain) (b : Fin 16) :
    t.boardReset b = s.boardReset b := by
  have same : (t.brd.boards[b]).plain = (s.brd.boards[b]).plain := by
    simpa using congrArg (fun w : Vector Board 16 => w[b]) h
  simp only [Board.plain, Board.mk.injEq] at same
  simp only [State.boardReset, same]

/-- The drives' rows rewritten and the unit READY, once the long orders are aborted (R15). -/
def afterAborts (s v : State) : State := { syncRows s everyDriveRow v with ord := { v.ord with locked := false } }

/-- The release of the unit, journaled where it was LOCKED. -/
def releasedFrom (b : Bool) (k : Fin 24) (s v : State) : State := if b then logReleased k (afterAborts s v) else afterAborts s v

theorem afterAborts_win (s v : State) : (afterAborts s v).win = (syncRows s everyDriveRow v).win := rfl

theorem sameSlot_afterAborts (m : Fin 24) (s v : State) : SameSlot m v (afterAborts s v) := by
  have synced : SameSlot m v (syncRows s everyDriveRow v) := (touches_syncRows s everyDriveRow v).sameSlot (by simp)
  intro i hi
  have same := synced i hi
  simpa only [State.readByte, afterAborts_win] using same

theorem releasedFrom_spec (b : Bool) (k : Fin 24) (s v : State) :
    (releasedFrom b k s v).ord = { v.ord with locked := false } ∧ (releasedFrom b k s v).setup = v.setup
      ∧ (releasedFrom b k s v).brd = v.brd ∧ (releasedFrom b k s v).store = v.store
      ∧ ∀ m, SameSlot m v (releasedFrom b k s v) := by
  have ord : (afterAborts s v).ord = { v.ord with locked := false } := by simp only [afterAborts]
  have setup : (afterAborts s v).setup = v.setup := by simp only [afterAborts, syncRows_setup]
  have brd : (afterAborts s v).brd = v.brd := by simp only [afterAborts, syncRows_brd]
  have store : (afterAborts s v).store = v.store := by simp only [afterAborts, syncRows_store]
  cases b with
  | false =>
    rw [show releasedFrom false k s v = afterAborts s v from if_neg Bool.false_ne_true]
    exact ⟨ord, setup, brd, store, fun m => sameSlot_afterAborts m s v⟩
  | true =>
    have logged (m : Fin 24) (t : State) : SameSlot m t (logReleased k t) :=
      (touches_journal _ t).sameSlot fun r hr => by
        obtain rfl : r = journalRange := by simpa using hr
        simp only [journalRange, slotBase]
        omega
    rw [show releasedFrom true k s v = logReleased k (afterAborts s v) from if_pos rfl]
    exact ⟨(log_ord ..).trans ord, (log_setup ..).trans setup, (log_brd ..).trans brd, (log_store ..).trans store, fun m => (sameSlot_afterAborts m s v).trans (logged m _)⟩

theorem stopAllWork_eq (k : Fin 24) (s : State) :
    stopAllWork k s = (releasedFrom s.ord.locked k s (each s.ord.inWork abortWork s), some (done s.ord.inWork.length [])) := rfl

/-- No long order is left in work. -/
theorem aborted_ord (s : State) : (each s.ord.inWork abortWork s).ord = { s.ord with inWork := [] } := by
  have none_ : s.ord.inWork.filter (fun x => s.ord.inWork.all fun w => x.slot != w.slot) = [] :=
    List.filter_eq_nil_iff.2 fun x hx all => by simpa using List.all_eq_true.1 all x hx
  rw [each_abortWork_ord, none_]

/-- The closing of the order's event leaves every other slot. -/
theorem sameSlot_closing {p : Post} {k : Fin 24} (ne : p.slot ≠ k) (n : Bool) (g : Half) (x : Answer) (old t : State) :
    SameSlot k t (settle old (answerSlot p.slot n g x t)) := by
  refine SameSlot.trans (Touches.sameSlot (touches_answerSlot p.slot n g x t) fun r hr => ?_)
    (Touches.sameSlot (touches_settle old _) (by simp))
  obtain rfl : r = slotRange p.slot := by simpa using hr
  exact slotRange_apart ne

/-- What STOP ALL WORK leaves: a READY unit with nothing in work, and every owner's part given up. -/
theorem stopAllWork_spec (k : Fin 24) (s : State) : ∃ t, stopAllWork k s = (t, some (done s.ord.inWork.length []))
    ∧ t.ord = { s.ord with locked := false, inWork := [] }
    ∧ ((s.ord.inWork.map Work.slot).Nodup → ∀ w ∈ s.ord.inWork, Released w s t) := by
  have aborted := aborted_ord s
  have released := fun (once : (s.ord.inWork.map Work.slot).Nodup) w (mem : w ∈ s.ord.inWork) =>
    each_abortWork_released once mem s
  refine ⟨_, stopAllWork_eq k s, ?_⟩
  generalize each s.ord.inWork abortWork s = v at aborted released
  obtain ⟨ord, setup, brd, store, slots⟩ := releasedFrom_spec s.ord.locked k s v
  refine ⟨?_, fun once w mem => (released once w mem).congr setup (fun b => by simp only [State.boardReset, brd]) store (slots _)⟩
  rw [ord, aborted]

/-- Settles O26: the aborts go through the slots in work one after another; each releases its own and leaves the others. -/
theorem stopAllWorkAbortsEveryLongOrder : Obligations.StopAllWorkAbortsEveryLongOrder := by
  intro p s taken
  have idle : s.slotInWork p.slot = false := by simp_all [State.takes]
  obtain ⟨t, owner, ord, released⟩ := stopAllWork_spec p.slot (atTake p.slot (postSlot p .stopAllWork s))
  have command : exec (.stopAllWork p) s = .next (settle (postSlot p .stopAllWork s) (answerSlot p.slot (notifySet p.notify) p.tag
      (done s.ord.inWork.length []) t)) := by
    show Host.Outcome.next (orderCommand p .stopAllWork (stopAllWork p.slot) s) = _
    rw [orderCommand_taken _ _ _ _ taken, carryOut_performed _ _ _ _ _ _ _ _ (.inr rfl) owner]
    rfl
  refine ⟨_, command, settle_answerSlot_answered p _ _ t (by rw [ord]; rfl), ?_, fun once w mem => ?_⟩
  · rw [settle_ord, answerSlot_ord, ord]
    rfl
  · have ne : p.slot ≠ w.slot := fun same => by
      have := List.any_eq_false.1 idle w mem
      simp [same] at this
    have posted : SameSlot w.slot s (atTake p.slot (postSlot p .stopAllWork s)) :=
      Touches.sameSlot (.congr_right (t := postSlot p .stopAllWork s) rfl (touches_postSlot p .stopAllWork s)) fun r hr => by
        obtain rfl : r = slotRange p.slot := by simpa using hr
        exact slotRange_apart ne
    have kept := ((released once w mem).of_same (s := s) ⟨rfl, rfl, fun _ op _ => op⟩ posted).congr
      (u := settle (postSlot p .stopAllWork s) (answerSlot p.slot (notifySet p.notify) p.tag (done s.ord.inWork.length []) t))
      (by simp) (boardReset_of_plain (by simp)) (by simp) (sameSlot_closing ne _ _ _ _ t)
    exact ⟨kept.shown, kept.drain, fun b none_ reset => Prod.ext_iff.1 (kept.reset b none_ reset), kept.store⟩

end Sys2Proof.Machine
end

section
/-! Proofs for start-up (section 11.4). -/

namespace Sys2Proof.Machine

variable {s t u : State}

/-! ### The scopes of start-up's parts -/

/-- Every row and range, and the blocks named. -/
def Scope.onBlocks (bs : List Block) (setup : Bool) : Scope := { everything setup with blocks := bs }

@[simp] theorem onBlocks_blocks (bs : List Block) (b : Bool) : (Scope.onBlocks bs b).blocks = bs := rfl
@[simp] theorem mem_onBlocks_rows (bs : List Block) (b : Bool) (r : Row) : r ∈ (Scope.onBlocks bs b).rows := mem_everything_rows b r
@[simp] theorem onBlocks_ranges (bs : List Block) (b : Bool) :
    (Scope.onBlocks bs b).ranges = journalRange :: slotsRange :: (List.finRange 64).map textRange := rfl
@[simp] theorem onBlocks_setup (bs : List Block) (b : Bool) : (Scope.onBlocks bs b).setup = b := rfl

/-- The blocks that the setup load may change, those of the automatic service, and those of the start-up plan. -/
def loadBlocks : List Block :=
  [.definitions, .calls, .loop, .drives, .attribution, .boards, .journal, .interrupts, .display, .rendering]
def autoBlocks : List Block := [.service, .drives, .attribution, .boards, .journal, .interrupts, .display, .rendering]
def planBlocks : List Block := [.shift, .journal, .interrupts, .display, .rendering]

theorem stays_setupLoad (s : State) : Stays (Scope.onBlocks loadBlocks true) s (setupLoad s) := by
  unfold loadBlocks
  exact (Stays.refl s).thenSetupLoad {}

theorem stays_autoService (s : State) : Stays (Scope.onBlocks autoBlocks false) s (autoService s) := by
  unfold autoBlocks
  exact (Stays.refl s).thenAutoService {} {}

/-- The start-up plan and the closing of the event. -/
theorem stays_planSettle (old s : State) : Stays (Scope.onBlocks planBlocks false) s (settle old (startUpPlan s)) := by
  unfold planBlocks
  exact ((Stays.refl s).thenStartUpPlan {}).thenSettle {} old

/-! ### The setup load -/

theorem setupLoad_setup (s : State) : (setupLoad s).setup = s.setup.load (statusOf s.store.setup.state) s.loadedImage := by
  have boards (i : Option SetupImage) (t : State) : (loadBoards i t).setup = t.setup := by cases i <;> rfl
  have texts (t : State) : (each (List.finRange 64) writeText t).setup = t.setup := each_same State.setup fun _ _ _ => rfl
  unfold setupLoad
  simp only [raiseIf_setup, log_setup, texts, writeRows_setup, refitPanels, fittingOnly_setup, boards]
  rfl

theorem loadBoards_definition (g : SetupImage) (s : State) (b : Fin 16) :
    ((loadBoards (some g) s).brd.boards[b]).definition = (g.boards[b]).definition := by
  have plain (t : State) (v : Board) : (renderBoard true t t v).definition = v.definition := by
    have same := renderBoard_plain true t t v
    simp only [Board.plain, Board.mk.injEq] at same
    exact same.1
  simp [loadBoards, plain]

theorem setupLoad_definition {g : SetupImage} (image : s.loadedImage = some g) (b : Fin 16) :
    ((setupLoad s).brd.boards[b]).definition = (g.boards[b]).definition := by
  have texts (t : State) : (each (List.finRange 64) writeText t).brd = t.brd := each_same State.brd fun _ _ _ => rfl
  unfold setupLoad
  simp only [raiseIf_brd, log_brd, texts, writeRows_brd, refitPanels, fittingOnly_brd_boards, image]
  exact (followed_boards _ _ b).1.trans (loadBoards_definition g _ b)

theorem setupLoad_fault (s : State) (damaged : statusOf s.store.setup.state = .damaged) : (setupLoad s).raised .fault := by
  unfold setupLoad
  rw [damaged]
  exact raiseCause_raised .fault _

/-! ### Automatic service -/

theorem serviceOnly_service (s t : State) : (serviceOnly s t).setup.service = t.setup.service := rfl

theorem enterService_service (z x : Fin 8) (n : Nat) (s : State) :
    (enterService z n s).setup.service[x] = if x = z then .inService else s.setup.service[x] := by
  have joined (t : State) : (zoneJoins z t).setup = t.setup := by
    unfold zoneJoins
    split
    · rfl
    · split
      · split
        · rfl
        · exact setSlot_setup ..
      · split
        · exact attributionOnly_setup ..
        · rfl
  have led : (addLostPanels z (follow s (zoneJoins z (changeService z .inService none 0 n s)))).setup
      = (changeService z .inService none 0 n s).setup := by rw [addLostPanels_setup, follow_setup, joined]
  rw [enterService, serviceOnly_service, syncRows_setup, led, changeService_setup]
  exact upd_getElem ..

theorem each_enterService {l : List (Fin 8)} {x : Fin 8} (n : Nat) (s : State)
    (h : x ∈ l ∨ s.setup.service[x] = .inService) : (each l (enterService · n) s).setup.service[x] = .inService := by
  induction l generalizing s with
  | nil => simpa [each] using h
  | cons z zs ih =>
    refine ih (enterService z n s) ?_
    rw [enterService_service]
    by_cases same : x = z
    · simp [same]
    · simpa [same] using h

theorem enterSearching_boardReset (b c : Fin 16) (n : Nat) (s : State) :
    ((enterSearching b n s).boardReset c).1 = if c = b then .searching else (s.boardReset c).1 := by
  simp only [State.boardReset, enterSearching, changeLinkState, raiseIf_brd, log_brd, updBoard_board]
  split <;> rfl

theorem each_enterSearching {l : List (Fin 16)} {c : Fin 16} (n : Nat) (s : State)
    (h : c ∈ l ∨ (s.boardReset c).1 = .searching) :
    ((each l (fun b t => boardOnly t (enterSearching b n t)) s).boardReset c).1 = .searching := by
  induction l generalizing s with
  | nil => simpa [each] using h
  | cons b bs ih =>
    refine ih (boardOnly s (enterSearching b n s)) ?_
    have own : ((boardOnly s (enterSearching b n s)).boardReset c).1 = ((enterSearching b n s).boardReset c).1 := rfl
    rw [own, enterSearching_boardReset]
    by_cases same : c = b
    · simp [same]
    · simpa [same] using h

theorem autoService_service {z : Fin 8} (auto : z ∈ s.autoZones) : (autoService s).setup.service[z] = .inService := by
  have boards (l : List (Fin 16)) (t : State) : (each l (fun b t => boardOnly t (enterSearching b 9 t)) t).setup = t.setup :=
    each_same State.setup fun _ _ _ => rfl
  unfold autoService
  dsimp only
  rw [boards]
  exact each_enterService 5 s (.inl auto)

theorem autoService_searching {b : Fin 16} (enabled : b ∈ enabledIn s.loadedImage) :
    ((autoService s).boardReset b).1 = .searching := by
  have store : (each s.autoZones (enterService · 5) s).store = s.store := each_same State.store fun _ _ _ => rfl
  exact each_enterSearching 9 _ (.inl enabled)

/-! ### The start-up plan -/

theorem bringTally_plan (s : State) :
    (bringTally s).shift.state = s.shift.state ∧ (bringTally s).shift.pending = s.shift.pending := by
  unfold bringTally
  split
  · exact ⟨rfl, rfl⟩
  · exact ⟨rfl, rfl⟩

theorem placePlan_pending (r : Nat) (p : Plan) (closed : s.shiftOpen = false) :
    (placePlan r p s).1.shift.state = .pending ∧ (placePlan r p s).1.shift.pending = some p := by
  unfold placePlan
  dsimp only
  rw [if_neg (by simp [closed])]
  exact bringTally_plan _

theorem index?_num {n : Nat} (i : Fin n) : index? n (num i) = some i := by
  have : i.val + 1 ≤ n := i.isLt
  simp [index?, num, this]

theorem startUpPlan_eq {g : SetupImage} {i : Fin 16} {b : PlanBlock} (image : s.loadedImage = some g)
    (place : g.startPlace = num i) (valid : (s.store.plans[i]).state = .valid) (good : (s.store.plans[i]).stored = .good b) :
    startUpPlan s = (placePlan 2 ⟨b, num i⟩ s).1 := by
  have index : index? 16 ((s.loadedImage.map SetupImage.startPlace).getD 0) = some i := by
    rw [image]
    exact (congrArg (index? 16) place).trans (index?_num i)
  unfold startUpPlan
  rw [index]
  dsimp only
  rw [valid, good]

/-! ### The scan of the store -/

theorem storeScan_plan (s : State) (i : Fin 16) : (storeScan s).store.plans[i] = (s.store.plans[i]).scan := by
  simp [storeScan, updStore]

theorem scan_state {α : Type} (p : Place α) : p.scan.state = if p.marked then .damaged
    else match p.stored with
      | .erased => .empty
      | .good _ => .valid
      | .bad => .damaged := rfl

/-- The setup status that the scan of the setup place gives (R166, step 3). -/
theorem statusOf_scan {α : Type} (p : Place α) :
    (statusOf p.scan.state = .loaded ↔ p.marked = false ∧ ∃ g, p.stored = .good g)
      ∧ (statusOf p.scan.state = .absent ↔ p.marked = false ∧ p.stored = .erased) := by
  rw [scan_state]
  cases p.marked <;> cases p.stored <;> simp [statusOf]

theorem loadedImage_scan {g : SetupImage} (clean : s.store.setup.marked = false) (good : s.store.setup.stored = .good g) :
    (storeScan s).loadedImage = some g := by
  simp [State.loadedImage, storeScan, updStore, Place.scan, clean, good]

/-! ### The whole -/

theorem becomeRunning_spec (s : State) :
    (becomeRunning s).part = .running ∧ (becomeRunning s).ord.scanDue = some (s.ms + 50)
      ∧ (s.ord.hold = false → (becomeRunning s).ord.scanning = true) ∧ (becomeRunning s).store = s.store
      ∧ (becomeRunning s).setup = s.setup ∧ (becomeRunning s).brd = s.brd ∧ (becomeRunning s).shift = s.shift
      ∧ (becomeRunning s).irq = s.irq := by
  unfold becomeRunning
  dsimp only
  split
  · next on =>
    have held : s.ord.hold = true := on
    exact ⟨rfl, rfl, fun off => absurd (held.symm.trans off) (by decide), rfl, rfl, rfl, rfl, rfl⟩
  · exact ⟨rfl, rfl, fun _ => rfl, rfl, rfl, rfl, rfl, rfl⟩

/-- The state in which start-up becomes RUNNING. -/
def served (s : State) : State := settle (setupLoad (storeScan s)) (startUpPlan (autoService (setupLoad (storeScan s))))

theorem startUp_eq (h : s.part = .starting) : startUp s = becomeRunning (served s) := if_neg (by simp [h])

theorem status_of_same (h : Block.same s t .definitions) : t.setup.status = s.setup.status := by
  obtain ⟨-, -, -, -, -, -, -, status, -⟩ := (serviceOf_eq_iff _ _).1 h
  exact status

/-- What the automatic service and the plan leave of the load. -/
theorem served_same (s : State) :
    (served s).ms = s.ms ∧ (served s).ord.hold = s.ord.hold ∧ (served s).store = (storeScan s).store
      ∧ (served s).setup.status = statusOf (storeScan s).store.setup.state
      ∧ SameSetup (setupLoad (storeScan s)) (served s)
      ∧ ∀ c, (setupLoad (storeScan s)).raised c → (served s).raised c := by
  have load := stays_setupLoad (storeScan s)
  have auto := stays_autoService (setupLoad (storeScan s))
  have plan := stays_planSettle (setupLoad (storeScan s)) (autoService (setupLoad (storeScan s)))
  have status := status_of_same (auto.blocks .definitions (by simp [autoBlocks]))
  have status' := status_of_same (plan.blocks .definitions (by simp [planBlocks]))
  refine ⟨?_, ?_, ?_, ?_, (auto.setup rfl).trans (plan.setup rfl), fun c h => plan.causes c (auto.causes c h)⟩
  · exact (plan.blocks .time (by simp [planBlocks])).trans
      ((auto.blocks .time (by simp [autoBlocks])).trans (load.blocks .time (by simp [loadBlocks])))
  · exact (plan.marks rfl).1.trans ((auto.marks rfl).1.trans (load.marks rfl).1)
  · exact (plan.blocks .store (by simp [planBlocks])).trans
      ((auto.blocks .store (by simp [autoBlocks])).trans (load.blocks .store (by simp [loadBlocks])))
  · have loaded : (setupLoad (storeScan s)).setup.status = statusOf (storeScan s).store.setup.state := by
      rw [setupLoad_setup]
      cases (storeScan s).loadedImage <;> rfl
    exact (status'.trans status).trans loaded

/-- What a loaded image gives: definitions, zones in service, boards searching. -/
theorem served_image {g : SetupImage} (clean : s.store.setup.marked = false) (good : s.store.setup.stored = .good g) :
    (served s).setup.drives = g.drives ∧ (served s).setup.zones = g.zones ∧ (served s).setup.bindings = g.bindings
      ∧ (served s).setup.ladders = g.ladders ∧ (served s).setup.texts = g.texts ∧ (served s).setup.keyed = g.keyed
      ∧ (∀ (z : Fin 8) (f : ZoneDef), g.zones[z] = some f → f.auto = true → (g.drives[f.drive]).isSome →
          (served s).setup.service[z] = .inService)
      ∧ ∀ b : Fin 16, ((served s).brd.boards[b]).definition = (g.boards[b]).definition
          ∧ ((g.boards[b]).definition.isSome → (g.boards[b]).enabled = true → ((served s).boardReset b).1 = .searching) := by
  have image := loadedImage_scan clean good
  obtain ⟨-, -, -, -, same, -⟩ := served_same s
  have setup : (setupLoad (storeScan s)).setup = (storeScan s).setup.load _ (some g) := image ▸ setupLoad_setup (storeScan s)
  have plan := stays_planSettle (setupLoad (storeScan s)) (autoService (setupLoad (storeScan s)))
  have service := plan.blocks .service (by simp [planBlocks])
  have boards := plan.blocks .boards (by simp [planBlocks])
  refine ⟨same.drives.trans (by rw [setup]; rfl), same.zones.trans (by rw [setup]; rfl),
    same.bindings.trans (by rw [setup]; rfl), same.ladders.trans (by rw [setup]; rfl), same.texts.trans (by rw [setup]; rfl),
    same.keyed.trans (by rw [setup]; rfl), fun z f zone auto drive => ?_, fun b => ⟨?_, fun defined enabled => ?_⟩⟩
  · have zoned : z ∈ (setupLoad (storeScan s)).autoZones := by
      have own : (setupLoad (storeScan s)).zone z = some f := by rw [State.zone, setup]; exact zone
      have drives : (setupLoad (storeScan s)).setup.drives = g.drives := by rw [setup]; rfl
      simp only [State.autoZones, List.mem_filter, List.mem_finRange, true_and, own, drives, auto, drive, Bool.and_self]
    obtain ⟨stays, -, -⟩ := service
    exact (congrArg (fun v : Vector Service 8 => v[z]) stays).trans (autoService_service zoned)
  · exact (same.boards b).1.trans (setupLoad_definition image b)
  · have store : (setupLoad (storeScan s)).store = (storeScan s).store := (stays_setupLoad _).blocks .store (by simp [loadBlocks])
    have searching : b ∈ enabledIn (setupLoad (storeScan s)).loadedImage := by
      rw [State.loadedImage, store, ← State.loadedImage, image]
      simpa [enabledIn] using ⟨defined, enabled⟩
    obtain ⟨-, -, -, plain⟩ := boards
    exact (congrArg Prod.fst (boardReset_of_plain plain b)).trans (autoService_searching searching)

/-- The plan of a VALID start-up place is PENDING (R166, step 5). -/
theorem served_plan {g : SetupImage} {i : Fin 16} {b : PlanBlock} (clean : s.store.setup.marked = false)
    (good : s.store.setup.stored = .good g) (idle : s.shift.state = .idle) (place : g.startPlace = num i)
    (unmarked : (s.store.plans[i]).marked = false) (stored : (s.store.plans[i]).stored = .good b) :
    (served s).shift.state = .pending ∧ (served s).shift.pending = some ⟨b, num i⟩ := by
  have load := stays_setupLoad (storeScan s)
  have auto := stays_autoService (setupLoad (storeScan s))
  have store : (autoService (setupLoad (storeScan s))).store = (storeScan s).store :=
    (auto.blocks .store (by simp [autoBlocks])).trans (load.blocks .store (by simp [loadBlocks]))
  have shift : (autoService (setupLoad (storeScan s))).shift = s.shift :=
    (auto.blocks .shift (by simp [autoBlocks])).trans (load.blocks .shift (by simp [loadBlocks]))
  have image : (autoService (setupLoad (storeScan s))).loadedImage = some g := by
    rw [State.loadedImage, store, ← State.loadedImage, loadedImage_scan clean good]
  have planned := startUpPlan_eq image place (i := i) (b := b)
    (by rw [store, storeScan_plan, scan_state, unmarked, stored]; rfl) (by rw [store, storeScan_plan]; exact stored)
  have closed : (autoService (setupLoad (storeScan s))).shiftOpen = false := by
    rw [State.shiftOpen, shift, idle]; rfl
  rw [served, settle_shift, planned]
  exact placePlan_pending 2 ⟨b, num i⟩ closed

/-- Settles O17: start-up is the load, the automatic service, the plan and the change to RUNNING; each leaves what the ones
before it have made. -/
theorem startUpLoadsAndRuns : Obligations.StartUpLoadsAndRuns := by
  intro s
  refine ⟨startUp s, rfl, fun running => if_pos running, fun starting => ?_⟩
  rw [startUp_eq starting]
  obtain ⟨part, due, scanning, store, setup, brd, shift, irq⟩ := becomeRunning_spec (served s)
  obtain ⟨ms, hold, stored, status, -, causes⟩ := served_same s
  obtain ⟨loaded, absent⟩ := statusOf_scan s.store.setup
  rw [setup, status, store, stored, brd, shift]
  refine ⟨part, due.trans (by rw [ms]), fun off => scanning (hold.trans off), fun i => ?_, loaded, absent, fun damaged => ?_,
    fun g clean good => ?_⟩
  · rw [storeScan_plan, scan_state]
    cases (s.store.plans[i]).stored <;> rfl
  · have raised := causes .fault (setupLoad_fault (storeScan s) damaged)
    simpa only [State.raised, irq] using raised
  · obtain ⟨drives, zones, bindings, ladders, texts, keyed, service, boards⟩ := served_image clean good
    exact ⟨drives, zones, bindings, ladders, texts, keyed, service, boards,
      fun i b idle place unmarked held => served_plan clean good idle place unmarked held⟩

end Sys2Proof.Machine
end

section
/-! Proofs for what an order changes: the state in which its owner begins, the state that the closing of its event leaves, and
which of the owner's changes reach it (sections 1.4 and 2.2). -/

namespace Sys2Proof.Machine

/-! ### The owner's state and the closed event -/

/-- The state in which the owner of a posted order begins. -/
def handed (p : Post) (o : Order) (s : State) : State := atTake p.slot (postSlot p o s)

/-- The state after an answered order: the owner's, with the slot answered and the event closed. -/
def answered (p : Post) (o : Order) (s : State) (x : Answer) (t : State) : State :=
  settle (postSlot p o s) (answerSlot p.slot (notifySet p.notify) p.tag x t)

/-- The state after an accepted long order. -/
def accepted (p : Post) (o : Order) (s t : State) : State :=
  settle (postSlot p o s) (acceptSlot p.slot (notifySet p.notify) p.tag t)

section Fields

variable (p : Post) (o : Order) (s : State) (x : Answer) (t : State)

@[simp] theorem handed_ms : (handed p o s).ms = s.ms := rfl
@[simp] theorem handed_part : (handed p o s).part = s.part := rfl
@[simp] theorem handed_key : (handed p o s).pins.key = p.key := rfl
@[simp] theorem handed_feedback : (handed p o s).pins.feedback = s.pins.feedback := rfl
@[simp] theorem handed_ord : (handed p o s).ord = { s.ord with takePos := p.slot } := rfl
@[simp] theorem handed_setup : (handed p o s).setup = s.setup := rfl
@[simp] theorem handed_calls : (handed p o s).calls = s.calls := rfl
@[simp] theorem handed_alerts : (handed p o s).alerts = s.alerts := rfl
@[simp] theorem handed_loop : (handed p o s).loop = s.loop := rfl
@[simp] theorem handed_drv : (handed p o s).drv = s.drv := rfl
@[simp] theorem handed_attr : (handed p o s).attr = s.attr := rfl
@[simp] theorem handed_shift : (handed p o s).shift = s.shift := rfl
@[simp] theorem handed_brd : (handed p o s).brd = s.brd := rfl
@[simp] theorem handed_jrn : (handed p o s).jrn = s.jrn := rfl
@[simp] theorem handed_irq : (handed p o s).irq = s.irq := rfl
@[simp] theorem handed_store : (handed p o s).store = s.store := rfl
@[simp] theorem handed_takeField : (handed p o s).takeField = s.takeField := postSlot_takeField p o s

@[simp] theorem answered_ms : (answered p o s x t).ms = t.ms := by simp [answered]
@[simp] theorem answered_part : (answered p o s x t).part = t.part := by simp [answered]
@[simp] theorem answered_ord : (answered p o s x t).ord = t.ord := by simp [answered]
@[simp] theorem answered_setup : (answered p o s x t).setup = t.setup := by simp [answered]
@[simp] theorem answered_calls : (answered p o s x t).calls = t.calls := by simp [answered]
@[simp] theorem answered_loop : (answered p o s x t).loop = t.loop := by simp [answered]
@[simp] theorem answered_drives : (answered p o s x t).drv.drives = t.drv.drives := by simp [answered]
@[simp] theorem answered_buffers : (answered p o s x t).drv.buffers = t.drv.buffers := by simp [answered]
@[simp] theorem answered_attr : (answered p o s x t).attr = t.attr := by simp [answered]
@[simp] theorem answered_shift : (answered p o s x t).shift = t.shift := by simp [answered]
@[simp] theorem answered_links : (answered p o s x t).brd.links = t.brd.links := by simp [answered]
@[simp] theorem answered_scale : (answered p o s x t).brd.scale = t.brd.scale := by simp [answered]
@[simp] theorem answered_refresh : (answered p o s x t).brd.refresh = t.brd.refresh := by simp [answered]
@[simp] theorem answered_plain : (answered p o s x t).brd.boards.map Board.plain = t.brd.boards.map Board.plain := by
  simp [answered]
@[simp] theorem answered_jrn : (answered p o s x t).jrn = t.jrn := by simp [answered]
@[simp] theorem answered_store : (answered p o s x t).store = t.store := by simp [answered]
@[simp] theorem answered_drive (d : Fin 8) : (answered p o s x t).drive d = t.drive d := by simp [State.drive]

@[simp] theorem accepted_ms : (accepted p o s t).ms = t.ms := by simp [accepted, acceptSlot]
@[simp] theorem accepted_setup : (accepted p o s t).setup = t.setup := by simp [accepted, acceptSlot]
@[simp] theorem accepted_calls : (accepted p o s t).calls = t.calls := by simp [accepted, acceptSlot]
@[simp] theorem accepted_drives : (accepted p o s t).drv.drives = t.drv.drives := by simp [accepted, acceptSlot]
@[simp] theorem accepted_links : (accepted p o s t).brd.links = t.brd.links := by simp [accepted, acceptSlot]
@[simp] theorem accepted_plain : (accepted p o s t).brd.boards.map Board.plain = t.brd.boards.map Board.plain := by
  simp [accepted, acceptSlot]
@[simp] theorem accepted_store : (accepted p o s t).store = t.store := by simp [accepted, acceptSlot]
@[simp] theorem accepted_drive (d : Fin 8) : (accepted p o s t).drive d = t.drive d := by simp [State.drive]

theorem answered_readByte {a : Nat} (high : 0x1980 ≤ a) : (answered p o s x t).readByte a = t.readByte a :=
  settle_answerSlot_readByte _ _ _ _ _ _ high

end Fields

variable {p : Post} {o : Order} {s t u : State} {x : Answer}

theorem handed_hasRoom {n : Nat} (room : s.hasRoom n) : (handed p o s).hasRoom n := room.congr (handed_takeField p o s) rfl

/-- Entries that the owner writes stand when the event is closed. -/
theorem Journaled.answered {es : List Entry} (h : Journaled es (handed p o s) t) : Journaled es s (answered p o s x t) :=
  h.congr rfl (answered_jrn ..) fun _ high => answered_readByte _ _ _ _ _ (by omega)

/-! ### Orders taken in a READY unit -/

/-- An order that its owner answers, leaving the order unit as it found it. -/
theorem Answers.intro {i : Instr} {f : Perform} {effect : State → Prop} (command : exec i s = .next (orderCommand p o f s))
    (ready : s.ready p) (owner : f (handed p o s) = (t, some x)) (ord : t.ord = (handed p o s).ord)
    (h : effect (answered p o s x t)) : Answers i p s x effect :=
  answers_of_owner command ready owner (congrArg OrderUnit.takePos ord) h

/-- A long order that its owner accepts. -/
theorem Accepts.intro {i : Instr} {f : Perform} {effect : State → Prop} (command : exec i s = .next (orderCommand p o f s))
    (ready : s.ready p) (owner : f (handed p o s) = (t, none)) (ord : t.ord = (handed p o s).ord)
    (h : effect (accepted p o s t)) : Accepts i p s effect := by
  have takes := ready.takes
  obtain ⟨-, -, unlocked, -⟩ := ready
  refine ⟨accepted p o s t, ?_, ⟨?_, ?_, ?_⟩, h⟩
  · rw [command, orderCommand_taken _ _ _ _ takes, carryOut_accepted (s := postSlot p o s) (h := unlocked) (hf := owner)]
    rfl
  · exact (settle_readByte _ _ _ (by simp only [slotBase]; omega)).trans (Memory.read_write_inside _ _ 0 [2] (by decide))
  · simp [accepted, acceptSlot, ord]
  · simp [accepted, acceptSlot, ord]

/-- Past the protection check the owner sees the order (R21). -/
theorem guarded_passes (f : Perform) (open_ : s.unguarded p) : guarded f (handed p o s) = f (handed p o s) := by
  obtain ⟨unlocked, key⟩ := open_
  have passed : (handed p o s).protection = none := by
    unfold State.protection
    cases keyed : s.setup.keyed with
    | false => simp [unlocked, keyed]
    | true => simp [unlocked, key keyed]
  simp only [guarded, passed]

theorem Answers.guarded {i : Instr} {f : Perform} {effect : State → Prop}
    (command : exec i s = .next (orderCommand p o (Machine.guarded f) s)) (ready : s.ready p) (open_ : s.unguarded p)
    (owner : f (handed p o s) = (t, some x)) (ord : t.ord = (handed p o s).ord) (h : effect (Machine.answered p o s x t)) :
    Answers i p s x effect :=
  .intro command ready ((guarded_passes f open_).trans owner) ord h

theorem index?_of_eq {n v : Nat} {i : Fin n} (h : v = num i) : index? n v = some i := h ▸ index?_num i

end Sys2Proof.Machine
end

section
/-! Proofs for the definitions of drives, stations, groups and texts, and for the timing and protection orders (sections 2.2,
2.3, 2.5, 3.8 and 9.6). -/

namespace Sys2Proof.Machine

variable {p : Post} {s t : State}

/-! ### Checks -/

theorem within_iff {lo hi n : Nat} : within lo hi n = true ↔ lo ≤ n ∧ n ≤ hi := by simp [within]

theorem firstFailure_none {l : List (Nat × Bool)} : firstFailure l = none ↔ ∀ c ∈ l, c.2 = true := by
  simp [firstFailure]

/-! ### DEFINE DRIVE (R24) -/

theorem workingZones_nil {d : Fin 8} (h : ∀ z : Fin 8, s.zoneDrive z = some d → s.setup.service[z] = .outOfService) :
    s.workingZones d = [] := by
  refine List.filter_eq_nil_iff.2 fun z hz => ?_
  have on : s.zoneDrive z = some d := by simpa [State.zonesOn] using hz
  simp [State.works, h z on]

theorem defineDrive_eq {q : DriveParams} {d : Fin 8} (named : q.drive.toNat = num d)
    (checks : firstFailure (driveChecks q) = none) (free : s.workingZones d = []) :
    defineDrive q s = (applyDrive d (driveDefinition q) s, some (done 0 [])) := by
  simp [defineDrive, checks, index?_of_eq named, free]

theorem applyDrive_drive (d e : Fin 8) (x : DriveDef) (s : State) :
    (applyDrive d x s).drive e = if e = d then { s.drive e with pitch := 0, count := 0, reverse := 0 } else s.drive e := by
  simp only [applyDrive, State.drive, writeRow_drv, updDrive, updSetup, upd_getElem]

/-! ### BIND STATIONS (R29) -/

theorem bindStations_eq {q : BindParams} (checks : firstFailure (bindChecks q) = none)
    (free : ∀ n ∈ stationRun q.first.toNat q.count.toNat, s.stationWorks n = false) :
    bindStations q s = (applyBindings q s, some (done 0 [])) := by
  have none_ : (stationRun q.first.toNat q.count.toNat).find? s.stationWorks = none :=
    List.find?_eq_none.2 fun n hn => by simp [free n hn]
  simp [bindStations, checks, none_]

/-- Each element of a list is rewritten by what the list's function gives it. -/
theorem each_upd_getElem {α : Type} {n : Nat} (g : Fin n → α) (l : List (Fin n)) (v : Vector α n) (i : Fin n) :
    (each l (fun j w => upd w j fun _ => g j) v)[i] = if i ∈ l then g i else v[i] := by
  induction l generalizing v with
  | nil => simp [each]
  | cons j js ih =>
    refine (ih (upd v j fun _ => g j)).trans ?_
    rw [upd_getElem]
    by_cases later : i ∈ js
    · simp [later]
    · by_cases same : i = j
      · subst same; simp [later]
      · simp [later, same]

theorem mem_stationRun {first count : Nat} {n : Fin 160} : n ∈ stationRun first count ↔ first ≤ num n ∧ num n < first + count := by
  simp [stationRun]

/-! ### DEFINE GROUP (R30) -/

theorem groupChecks_pass {q : GroupParams} {g : Fin 24} (named : q.group.toNat = num g) (count : q.count.toNat ≤ 3)
    (levels : ∀ i : Fin 3, i.val < q.count.toNat → 5 ≤ (groupLevels q)[i].delay.toNat ∧ (groupLevels q)[i].delay.toNat ≤ 3600
      ∧ (groupLevels q)[i].output.toNat ≤ 8 ∧ (groupLevels q)[i].flash.toNat ≤ 1) : firstFailure (groupChecks q) = none := by
  refine firstFailure_none.2 fun c hc => ?_
  have group : q.group.toNat ≤ 24 ∧ 1 ≤ q.group.toNat := by rw [named, num]; omega
  rcases List.mem_append.1 hc with head | tail
  · simp only [List.mem_cons, List.not_mem_nil, or_false] at head
    rcases head with rfl | rfl
    · exact within_iff.2 ⟨group.2, group.1⟩
    · exact within_iff.2 ⟨Nat.zero_le _, count⟩
  · simp only [List.mem_flatten, List.mem_map, List.mem_filter, List.mem_finRange, true_and, decide_eq_true_eq] at tail
    obtain ⟨l, ⟨i, read, rfl⟩, hc⟩ := tail
    obtain ⟨low, high, output, flash⟩ := levels i (by simp only [num] at read; omega)
    simp only [levelChecks, List.mem_cons, List.not_mem_nil, or_false] at hc
    rcases hc with rfl | rfl | rfl
    · exact within_iff.2 ⟨low, high⟩
    · exact within_iff.2 ⟨Nat.zero_le _, output⟩
    · exact within_iff.2 ⟨Nat.zero_le _, flash⟩

theorem group_empty {g : Fin 24} (none_ : ∀ c ∈ s.openCalls, c.group ≠ num g) : s.groupRaised g = [] ∧ s.groupAnswered g = [] := by
  constructor <;> exact List.filter_eq_nil_iff.2 fun c hc => by simp [none_ c hc]

theorem defineGroup_eq {q : GroupParams} {g : Fin 24} (named : q.group.toNat = num g)
    (checks : firstFailure (groupChecks q) = none) (none_ : ∀ c ∈ s.openCalls, c.group ≠ num g) :
    defineGroup q s = (applyGroup g (ladderOf q) s, some (done 0 [])) := by
  obtain ⟨raised, answered⟩ := group_empty none_
  simp [defineGroup, checks, index?_of_eq named, raised, answered]

/-! ### DEFINE TEXT (R31) -/

theorem defineText_eq {q : TextParams} {e : Fin 64} (named : q.entry.toNat = num e)
    (chars : ∀ i : Fin 16, 0x20 ≤ q.chars[i].toNat ∧ q.chars[i].toNat ≤ 0x7E) :
    defineText q s = (applyText e q.chars s, some (done 0 [])) := by
  have good : badChar q.chars = none := by
    simp only [badChar, Option.map_eq_none_iff, List.find?_eq_none, List.mem_finRange, true_imp_iff]
    exact fun i => by simpa using within_iff.2 (chars i)
  simp [defineText, index?_of_eq named, good]

/-- The text table shows the entry as given. -/
theorem applyText_shows (e : Fin 64) (cs : Vector Byte 16) (s : State) :
    (applyText e cs s).readRun (0x6600 + 16 * e.val) 16 = cs.toList := by
  have own : (upd s.setup.texts e fun _ => cs)[e].toList = cs.toList := by rw [upd_getElem, if_pos rfl]
  have written := Memory.readRun_write_same s.win.mem (textBase e) cs.toList
  rw [Vector.length_toList] at written
  calc (applyText e cs s).readRun (0x6600 + 16 * e.val) 16
    _ = Memory.readRun (Memory.write s.win.mem (textBase e) (upd s.setup.texts e fun _ => cs)[e].toList) (textBase e) 16 := rfl
    _ = cs.toList := by rw [own, written]

/-- Settles O27, order by order: the checks pass, the owner applies the definition, and the closing of the event changes no
definition and no byte of the text table. -/
theorem drivesStationsGroupsAndTextsAreDefined : Obligations.DrivesStationsGroupsAndTextsAreDefined := by
  refine ⟨⟨fun p q s d ready open_ named pitch pitch' notice tolerance response response' short free => ?_,
    fun p q s ready open_ first count count' run group base free => ?_⟩,
    fun p q s g ready open_ named count levels none_ => ?_, fun p q s e ready open_ named chars => ?_⟩
  · have checks : firstFailure (driveChecks q) = none := firstFailure_none.2 fun c hc => by
      have drive : 1 ≤ q.drive.toNat ∧ q.drive.toNat ≤ 8 := by rw [named, num]; omega
      simp only [driveChecks, List.mem_cons, List.not_mem_nil, or_false] at hc
      rcases hc with rfl | rfl | rfl | rfl | rfl | rfl
      · exact within_iff.2 drive
      · exact within_iff.2 ⟨pitch, pitch'⟩
      · exact within_iff.2 ⟨Nat.zero_le _, by omega⟩
      · exact within_iff.2 ⟨Nat.zero_le _, tolerance⟩
      · exact within_iff.2 ⟨response, response'⟩
      · exact within_iff.2 ⟨Nat.zero_le _, short⟩
    refine .guarded rfl ready open_ (defineDrive_eq named checks (workingZones_nil (s := handed p _ s) free)) rfl ⟨?_, ?_, fun e ne => ?_⟩
    · simp only [answered_setup]
      rfl
    · rw [answered_drive, applyDrive_drive, if_pos rfl]
      rfl
    · rw [answered_drive, applyDrive_drive, if_neg ne]
      rfl
  · have checks : firstFailure (bindChecks q) = none := firstFailure_none.2 fun c hc => by
      simp only [bindChecks, List.mem_cons, List.not_mem_nil, or_false] at hc
      rcases hc with rfl | rfl | rfl | rfl
      · exact within_iff.2 ⟨first, by omega⟩
      · simp [within]; omega
      · exact within_iff.2 ⟨Nat.zero_le _, group⟩
      · rcases base with zero | named
        · simp [zero, within]
        · simp [within]; omega
    have idle : ∀ n ∈ stationRun q.first.toNat q.count.toNat, (handed p (.bindStations q) s).stationWorks n = false := by
      intro n hn
      obtain ⟨low, high⟩ := mem_stationRun.1 hn
      show ((s.stationZone n).map s.works).getD false = false
      cases zone : s.stationZone n with
      | none => rfl
      | some z => simp [State.works, free n low high z zone]
    refine .guarded rfl ready open_ (bindStations_eq checks idle) rfl fun n => ?_
    simp only [answered_setup, applyBindings, writeRows_setup, updSetup, handed_setup, each_upd_getElem, mem_stationRun]
    rfl
  · refine .guarded rfl ready open_ (defineGroup_eq named (groupChecks_pass named count levels) none_) rfl
      ⟨?_, fun i read => ?_, fun h ne => ?_⟩
    all_goals simp only [answered_setup, applyGroup, writeRow_setup, updSetup, handed_setup, upd_getElem, if_true]
    · rfl
    · have low : num i ≤ q.count.toNat := read
      simp [ladderOf, low]
    · rw [if_neg ne]
  · refine .guarded rfl ready open_ (defineText_eq named chars) rfl ⟨?_, ?_⟩
    · simp only [answered_setup]
      rfl
    · refine (readRun_congr fun i _ => answered_readByte _ _ _ _ _ (by omega)).trans (applyText_shows e q.chars _)

/-! ### The timing and protection orders (R22, R23, R51, R153) -/

theorem setLoopTiming_eq {b : Byte} (low : 1 ≤ b.toNat) (high : b.toNat ≤ 32) :
    setLoopTiming b s = ({ s with loop := { s.loop with scale := b.toNat } }, some (done 0 [BitVec.ofNat 8 s.loop.scale])) :=
  if_pos (within_iff.2 ⟨low, high⟩)

theorem setLinkTiming_eq {b c : Byte} (low : 1 ≤ b.toNat) (high : b.toNat ≤ 32) (low' : 1 ≤ c.toNat) (high' : c.toNat ≤ 60) :
    setLinkTiming b c s = ({ s with brd := { s.brd with scale := b.toNat, refresh := c.toNat } },
      some (done 0 [BitVec.ofNat 8 s.brd.scale, BitVec.ofNat 8 s.brd.refresh])) := by
  simp [setLinkTiming, within_iff.2 ⟨low, high⟩, within_iff.2 ⟨low', high'⟩]

theorem setSetupProtection_eq {b : Byte} (high : b.toNat ≤ 1) :
    setSetupProtection b s
      = (updSetup (fun v => { v with keyed := b == 1 }) s, some (done 0 [if s.setup.keyed then 1 else 0])) := by
  have byte : BitVec.ofNat 8 (bit s.setup.keyed) = if s.setup.keyed then 1 else 0 := by cases s.setup.keyed <;> rfl
  simp only [setSetupProtection, if_neg (Nat.not_lt.2 high), byte]

/-- The lockdown flag set. -/
def locked (s : State) : State := updSetup (fun v => { v with lockdown := true }) s

theorem lockSetup_eq (s : State) : lockSetup s = (log kindSetupStatus 0 0 4 0 (locked s), some (done 0 [])) := rfl

theorem locked_journaled (room : s.hasRoom 1) :
    Journaled [⟨s.partTime, 0x43, 0, 0, 4, 0⟩] s (log kindSetupStatus 0 0 4 0 (locked s)) :=
  (journal_journaled _ (locked s) (room.congr (t := locked s) rfl rfl)).congr rfl rfl fun _ _ => rfl

/-- Settles O29: past the protection check and in range, each order takes its value and answers with the one before. -/
theorem timingAndProtectionOrdersTakeEffect : Obligations.TimingAndProtectionOrdersTakeEffect := by
  refine ⟨fun p b s ready open_ low high => ?_, fun p b c s ready open_ low high low' high' => ?_,
    fun p b s ready open_ high => ?_, fun p s ready open_ => ?_⟩
  · refine .guarded rfl ready open_ (setLoopTiming_eq low high) rfl ?_
    simp
  · refine .guarded rfl ready open_ (setLinkTiming_eq low high low' high') rfl ?_
    simp
  · refine .guarded rfl ready open_ (setSetupProtection_eq high) rfl ?_
    simp [updSetup, Bool.beq_eq_decide_eq]
  · refine .guarded rfl ready open_ (lockSetup_eq _) rfl ⟨?_, fun room => Journaled.answered ?_⟩
    · simp [locked, updSetup]
    · exact locked_journaled (handed_hasRoom room)

end Sys2Proof.Machine
end

section
/-! Proofs for DEFINE ZONE (section 2.4): its consequences, and the order of its checks. -/

namespace Sys2Proof.Machine

variable {p : Post} {s t : State}

/-! ### What depends on the zones alone -/

theorem bufferExists_congr (h : t.setup.zones = s.setup.zones) (k : Fin 7) : t.bufferExists k = s.bufferExists k := by
  simp only [State.bufferExists, State.capacityAfter, State.zone, h]

theorem bufferCapacity_congr (h : t.setup.zones = s.setup.zones) (k : Fin 7) : t.bufferCapacity k = s.bufferCapacity k := by
  simp only [State.bufferCapacity, bufferExists_congr h, State.capacityAfter, State.zone, h]

theorem fitted_congr (h : t.setup.zones = s.setup.zones) (b : Fin 40) : t.fitted b = s.fitted b := by
  have serves : t.serves b = s.serves b := funext fun z => by simp only [State.serves, State.zoneHolds, State.zone, h]
  simp only [State.fitted, serves]

/-! ### Buffers at a definition (R26) -/

theorem bufferChanged_same (k : Fin 7) (s : State) :
    (bufferChanged k s).setup = s.setup ∧ (bufferChanged k s).drv.buffers = s.drv.buffers :=
  ⟨each_same State.setup fun _ _ _ => reevaluate_setup .., each_same (fun s : State => s.drv.buffers) fun _ _ _ =>
    reevaluate_drv_buffers ..⟩

theorem adjustBuffer_setup (old : State) (k : Fin 7) (s : State) : (adjustBuffer old k s).setup = s.setup := by
  unfold adjustBuffer
  dsimp only
  rw [syncRow_setup]
  generalize (if (old.bufferExists k && s.bufferExists k) = true then min (s.bufferCount k) (s.bufferCapacity k) else 0) = n
  split
  · rfl
  · exact (bufferChanged_same ..).1

theorem adjustBuffer_count (old : State) (k j : Fin 7) (s : State) :
    (adjustBuffer old k s).bufferCount j = if j = k then
      (if old.bufferExists k && s.bufferExists k then min (s.bufferCount k) (s.bufferCapacity k) else 0) else s.bufferCount j := by
  have counted (n : Nat) : (updBuffer k (fun b => { b with count := n }) s).bufferCount j = if j = k then n else s.bufferCount j := by
    simp only [State.bufferCount, updBuffer, upd_getElem]
    split <;> rfl
  unfold adjustBuffer
  dsimp only
  rw [State.bufferCount, syncRow_drv]
  generalize (if (old.bufferExists k && s.bufferExists k) = true then min (s.bufferCount k) (s.bufferCapacity k) else 0) = n
  split
  · exact counted _
  · exact (congrArg (fun v : Vector Buffer 7 => v[j].count) (bufferChanged_same ..).2).trans (counted _)

theorem each_adjustBuffer_count (old : State) {l : List (Fin 7)} (once : l.Nodup) (j : Fin 7) (s : State) :
    (each l (adjustBuffer old) s).bufferCount j = if j ∈ l then
      (if old.bufferExists j && s.bufferExists j then min (s.bufferCount j) (s.bufferCapacity j) else 0) else s.bufferCount j := by
  induction l generalizing s with
  | nil => simp [each]
  | cons k ks ih =>
    obtain ⟨fresh, once⟩ := List.nodup_cons.1 once
    refine (ih once (adjustBuffer old k s)).trans ?_
    have zones : (adjustBuffer old k s).setup.zones = s.setup.zones := by rw [adjustBuffer_setup]
    rw [bufferExists_congr zones, bufferCapacity_congr zones, adjustBuffer_count]
    by_cases same : j = k
    · subst same; simp [fresh]
    · simp [same]

theorem nodup_buffersAt (z : Fin 8) : (buffersAt z).Nodup := by
  revert z
  decide

/-! ### Panels at a definition (R28) -/

theorem removePanelDemands_loop (b : Fin 40) (s : State) : (removePanelDemands b s).1.loop = s.loop := by
  exact demandOnly_loop ..

theorem removePanelDemands_setup (b : Fin 40) (s : State) : (removePanelDemands b s).1.setup = s.setup := by
  exact demandOnly_setup ..

theorem logPanel_loop (b : Fin 40) (x y : PanelState) (n : Nat) (s : State) : (logPanel b x y n s).loop = s.loop := rfl

theorem logPanel_setup (b : Fin 40) (x y : PanelState) (n : Nat) (s : State) : (logPanel b x y n s).setup = s.setup := rfl

theorem voidPoll_panels (b : Fin 40) (s : State) : (voidPoll b s).loop.panels = s.loop.panels := rfl

theorem markPanelLost_loop (b : Fin 40) (x : Bool) (s : State) : (markPanelLost b x s).loop = s.loop :=
  each_same State.loop fun _ _ _ => rfl

theorem markPanelLost_setup (b : Fin 40) (x : Bool) (s : State) : (markPanelLost b x s).setup = s.setup :=
  each_same State.setup fun _ _ _ => rfl

theorem unfitPanel_panels (b : Fin 40) (s : State) : (unfitPanel b s).loop.panels
    = upd s.loop.panels b fun v => { v with state := .unfitted, dueAt := none, due := false } := by
  unfold unfitPanel
  dsimp only
  split
  · simp only [writeRow_loop, markPanelLost_loop, removePanelDemands_loop, logPanel_loop, voidPoll_panels]
    rfl
  · simp only [writeRow_loop, logPanel_loop, voidPoll_panels]
    rfl

theorem unfitPanel_setup (b : Fin 40) (s : State) : (unfitPanel b s).setup = s.setup := by
  unfold unfitPanel
  dsimp only
  split
  · rw [writeRow_setup, markPanelLost_setup, removePanelDemands_setup, logPanel_setup]
    rfl
  · rw [writeRow_setup, logPanel_setup]
    rfl

theorem refitPanel_setup (b : Fin 40) (s : State) : (refitPanel b s).setup = s.setup := by
  unfold refitPanel
  dsimp only
  split
  · rfl
  · split
    · exact unfitPanel_setup ..
    · rfl

/-- A refitted panel is UNFITTED exactly when it serves no defined zone; the others stand. -/
theorem refitPanel_state (b c : Fin 40) (s : State) :
    ((refitPanel b s).loop.panels[c]).state = .unfitted ↔ if c = b then s.fitted c = false else (s.loop.panels[c]).state = .unfitted := by
  unfold refitPanel
  dsimp only
  split
  · next fits =>
    show ((upd s.loop.panels b _)[c]).state = .unfitted ↔ _
    rw [upd_getElem]
    split
    · next same => subst same; simp_all
    · rfl
  · next stays =>
    split
    · next leaves =>
      have panels : ((unfitPanel b s).loop.panels[c]).state
          = ((upd s.loop.panels b fun v => { v with state := .unfitted, dueAt := none, due := false })[c]).state :=
        congrArg (fun v : Vector Panel 40 => v[c].state) (unfitPanel_panels b s)
      rw [panels, upd_getElem]
      split
      · next same => subst same; simp_all
      · rfl
    · next keeps =>
      split
      · next same =>
        subst same
        by_cases unfit : (s.loop.panels[c]).state = .unfitted
        · exact iff_of_true unfit (by simpa [unfit, -Fin.getElem_fin] using stays)
        · exact iff_of_false unfit (by simpa [unfit, -Fin.getElem_fin] using keeps)
      · rfl

theorem each_refitPanel_state {l : List (Fin 40)} (once : l.Nodup) (c : Fin 40) (s : State) :
    ((each l refitPanel s).loop.panels[c]).state = .unfitted
      ↔ if c ∈ l then s.fitted c = false else (s.loop.panels[c]).state = .unfitted := by
  induction l generalizing s with
  | nil => simp [each]
  | cons b bs ih =>
    obtain ⟨fresh, once⟩ := List.nodup_cons.1 once
    refine (ih once (refitPanel b s)).trans ?_
    have fits : (refitPanel b s).fitted c = s.fitted c := fitted_congr (by rw [refitPanel_setup]) c
    rw [fits, refitPanel_state]
    by_cases same : c = b
    · subst same; simp [fresh]
    · simp [same]

theorem fittingOnly_panels (s t : State) : (fittingOnly s t).loop.panels = t.loop.panels := rfl

theorem setupOnly_panels (s t : State) : (setupOnly s t).loop.panels = t.loop.panels := rfl

theorem setupOnly_setup (s t : State) : (setupOnly s t).setup = { s.setup with zones := t.setup.zones } := rfl

theorem refitPanels_state (c : Fin 40) (s : State) :
    ((refitPanels s).loop.panels[c]).state = .unfitted ↔ s.fitted c = false := by
  have compared := each_refitPanel_state (List.nodup_finRange 40) c s
  rw [if_pos (List.mem_finRange c)] at compared
  refine Iff.trans (iff_of_eq ?_) compared
  exact congrArg (fun v : Vector Panel 40 => v[c].state = .unfitted) (fittingOnly_panels ..)

/-! ### The consequences of a definition (R26, R27) -/

/-- The state in which a definition refits the panels. -/
def zoned (z : Fin 8) (x : Option ZoneDef) (s : State) : State :=
  each (buffersAt z) (adjustBuffer s) (follow s (writeRow (.zone z) (updSetup (fun v => { v with zones := upd v.zones z fun _ => x }) s)))

theorem applyZone_eq (z : Fin 8) (x : Option ZoneDef) (s : State) : applyZone z x s = setupOnly s
    (writeRows ((movedStations s (refitPanels (zoned z x s))).map Row.station) (refitPanels (zoned z x s))) := rfl

theorem zoned_setup (z : Fin 8) (x : Option ZoneDef) (s : State) :
    (zoned z x s).setup = { s.setup with zones := upd s.setup.zones z fun _ => x } := by
  rw [zoned, each_same State.setup fun _ _ _ => adjustBuffer_setup .., follow_setup]
  rfl

theorem refitPanels_setup (s : State) : (refitPanels s).setup = s.setup := fittingOnly_setup ..

theorem applyZone_setup (z : Fin 8) (x : Option ZoneDef) (s : State) :
    (applyZone z x s).setup = { s.setup with zones := upd s.setup.zones z fun _ => x } := by
  rw [applyZone_eq, setupOnly_setup, writeRows_setup, refitPanels_setup, zoned_setup]

/-- After a definition exactly the panels that serve a defined zone are fitted. -/
theorem applyZone_fitted (z : Fin 8) (x : Option ZoneDef) (s : State) (b : Fin 40) :
    ((applyZone z x s).loop.panels[b]).state = .unfitted ↔ (applyZone z x s).fitted b = false := by
  have fits : (applyZone z x s).fitted b = (zoned z x s).fitted b := fitted_congr (by rw [applyZone_setup, zoned_setup]) b
  rw [fits, ← refitPanels_state]
  refine iff_of_eq ?_
  refine congrArg (fun v : Vector Panel 40 => v[b].state = .unfitted) ?_
  rw [applyZone_eq, setupOnly_panels, writeRows_loop]

theorem refitPanels_buffers (s : State) : (refitPanels s).drv.buffers = s.drv.buffers := by
  have stays : Stays (Scope.onBlocks [.drives, .attribution, .boards, .journal, .interrupts, .display, .rendering, .loop, .calls] false) s
      (refitPanels s) := (Stays.refl s).thenRefitPanels {}
  exact stays.blocks .buffers (by simp)

/-- The buffers beside a zone keep their counts where they exist before and after (R26). -/
theorem applyZone_count (z : Fin 8) (x : Option ZoneDef) (s : State) (k : Fin 7) :
    (applyZone z x s).bufferCount k = if k ∈ buffersAt z then
      (if s.bufferExists k && (applyZone z x s).bufferExists k then min (s.bufferCount k) ((applyZone z x s).bufferCapacity k)
        else 0) else s.bufferCount k := by
  have zones : (applyZone z x s).setup.zones
      = (follow s (writeRow (.zone z) (updSetup (fun v => { v with zones := upd v.zones z fun _ => x }) s))).setup.zones := by
    rw [applyZone_setup, follow_setup]; rfl
  have counts : (applyZone z x s).bufferCount k = (zoned z x s).bufferCount k := by
    refine congrArg (fun v : Vector Buffer 7 => v[k].count) ?_
    rw [applyZone_eq, setupOnly_drv, writeRows_drv, refitPanels_buffers]
  rw [counts, zoned, each_adjustBuffer_count _ (nodup_buffersAt z), bufferExists_congr zones, bufferCapacity_congr zones]
  have same : (follow s (writeRow (.zone z) (updSetup (fun v => { v with zones := upd v.zones z fun _ => x }) s))).bufferCount k
      = s.bufferCount k := by
    refine congrArg (fun v : Vector Buffer 7 => v[k].count) ?_
    rw [follow_drv_buffers, writeRow_drv, updSetup_drv]
  rw [same]


/-! ### The checks of a definition (R25) -/

theorem firstFailure_append (l m : List (Nat × Bool)) : firstFailure (l ++ m) = (firstFailure l).or (firstFailure m) := by
  simp only [firstFailure, List.find?_append]
  cases l.find? fun c => !c.2 <;> rfl

theorem firstFailure_cons (n : Nat) (b : Bool) (l : List (Nat × Bool)) :
    firstFailure ((n, b) :: l) = if b then firstFailure l else some n := by
  cases b <;> rfl

/-- Another defined zone's range meets the range of a definition (check 4). -/
def State.meets (s : State) (z : Fin 8) (q : ZoneParams) (y : Fin 8) : Bool :=
  y != z && (s.zone y).any fun f => decide (q.first.toNat ≤ f.last ∧ f.first ≤ q.last.toNat)

/-- The checks of the definition itself, in the words of R25. -/
def State.ownChecks (s : State) (z : Fin 8) (q : ZoneParams) : List (Nat × Bool) :=
  [(3, decide (1 ≤ q.first.toNat ∧ q.first.toNat ≤ 160 ∧ q.first.toNat ≤ q.last.toNat ∧ q.last.toNat ≤ q.first.toNat + 39
      ∧ q.last.toNat ≤ 160)),
    (4, (List.finRange 8).all fun y => !s.meets z q y),
    (5, decide (q.capacity.toNat ≤ 30 ∧ (num z = 8 → q.capacity = 0))),
    (6, decide (q.assist.toNat ≤ 2 ∧ q.material.toNat ≤ 2 ∧ q.quality.toNat ≤ 2 ∧ q.maint.toNat ≤ 2
      ∧ q.extension.toNat ≤ 3 ∧ q.lossPolicy.toNat ≤ 1 ∧ q.auto.toNat ≤ 1 ∧ q.name.toNat ≤ 64))]

/-- The checks against the zone before. -/
def beforeChecks (z : Fin 8) (drive : Nat) (previous : Option ZoneDef) : List (Nat × Bool) :=
  [(7, decide (num z = 1) || previous.isSome), (8, previous.all fun f => decide (num f.drive ≤ drive)),
    (9, previous.all fun f => decide (drive = num f.drive) == decide (f.capacity = 0))]

/-- The checks against the zone after. -/
def afterChecks (drive : Nat) (capacity : Byte) (following : Option ZoneDef) : List (Nat × Bool) :=
  [(10, following.all fun f => decide (drive ≤ num f.drive)),
    (11, following.all fun f => decide (drive = num f.drive) == decide (capacity = 0))]

theorem stationRangeFits_eq (q : ZoneParams) : stationRangeFits q
    = decide (1 ≤ q.first.toNat ∧ q.first.toNat ≤ 160 ∧ q.first.toNat ≤ q.last.toNat ∧ q.last.toNat ≤ q.first.toNat + 39
      ∧ q.last.toNat ≤ 160) := by
  rw [Bool.eq_iff_iff, decide_eq_true_iff, stationRangeFits, Bool.and_eq_true, within_iff, within_iff]
  omega

theorem overlapped_eq (z : Fin 8) (q : ZoneParams) :
    s.overlapped z q.first.toNat q.last.toNat = (List.finRange 8).find? (s.meets z q) := by
  refine congrArg (fun r => List.find? r _) (funext fun y => ?_)
  rw [State.meets]
  cases s.zone y with
  | none => rfl
  | some f => simp [and_comm]

theorem capacityFits_eq (z : Fin 8) (q : ZoneParams) :
    capacityFits z q = decide (q.capacity.toNat ≤ 30 ∧ (num z = 8 → q.capacity = 0)) := by
  have eighth : num z = 8 ↔ ¬ z.val < 7 := by simp only [num]; omega
  simp only [capacityFits, within, Nat.zero_le, decide_true, Bool.true_and, eighth, Bool.decide_and]
  by_cases last : z.val < 7 <;> simp [last, Bool.beq_eq_decide_eq]

theorem policiesFit_eq (q : ZoneParams) : policiesFit q = decide (q.assist.toNat ≤ 2 ∧ q.material.toNat ≤ 2 ∧ q.quality.toNat ≤ 2
    ∧ q.maint.toNat ≤ 2 ∧ q.extension.toNat ≤ 3 ∧ q.lossPolicy.toNat ≤ 1 ∧ q.auto.toNat ≤ 1 ∧ q.name.toNat ≤ 64) := by
  rw [Bool.eq_iff_iff]
  simp [policiesFit, within, and_assoc]

theorem ownChecks_eq (z : Fin 8) (q : ZoneParams) : s.ownChecks z q
    = [(3, stationRangeFits q), (4, (s.overlapped z q.first.toNat q.last.toNat).isNone), (5, capacityFits z q), (6, policiesFit q)] := by
  have apart : (s.overlapped z q.first.toNat q.last.toNat).isNone = (List.finRange 8).all fun y => !s.meets z q y := by
    rw [overlapped_eq, Bool.eq_iff_iff]
    simp
  rw [stationRangeFits_eq, apart, capacityFits_eq, policiesFit_eq, State.ownChecks]

theorem agree_eq (p q : Prop) [Decidable p] [Decidable q] :
    (if p then decide q else decide (¬ q)) = (decide p == decide q) := by
  by_cases p <;> by_cases q <;> simp [*]

theorem beforeChecks_failure (z : Fin 8) (drive : Nat) :
    firstFailure (beforeChecks z drive ((zonePrev z).bind s.zone)) = firstFailure (s.previousChecks z drive) := by
  unfold State.previousChecks beforeChecks zonePrev
  by_cases first : 0 < z.val
  · have notOne : ¬ num z = 1 := by simp only [num]; omega
    simp only [first, dite_true, Option.bind_some, notOne, decide_false, Bool.false_or]
    cases s.zone ⟨z.val - 1, by omega⟩ with
    | none => rfl
    | some f => simp only [Option.isSome_some, Option.all_some, firstFailure_cons, if_true, ← agree_eq, ne_eq]
  · have one : num z = 1 := by simp only [num]; omega
    simp [first, one, firstFailure_cons]

theorem afterChecks_failure (z : Fin 8) (drive : Nat) (capacity : Byte) :
    firstFailure (afterChecks drive capacity ((zoneNext z).bind s.zone)) = firstFailure (s.nextChecks z drive capacity.toNat) := by
  unfold State.nextChecks afterChecks
  cases (zoneNext z).bind s.zone with
  | none => rfl
  | some f =>
    have zero : capacity.toNat = 0 ↔ capacity = 0 := by simp [← BitVec.toNat_inj]
    simp only [Option.all_some, firstFailure_cons, ← agree_eq, zero, ne_eq]

/-- The checks of R25 written out fail first where the model's do, after the check of the drive number. -/
theorem writtenChecks_failure (z : Fin 8) (q : ZoneParams) :
    firstFailure ((2, decide (q.drive.toNat ≤ 8)) :: (s.ownChecks z q
      ++ (beforeChecks z q.drive.toNat ((zonePrev z).bind s.zone) ++ afterChecks q.drive.toNat q.capacity ((zoneNext z).bind s.zone))))
      = if q.drive.toNat ≤ 8 then firstFailure (s.zoneChecks z q) else some 2 := by
  rw [firstFailure_cons, firstFailure_append, firstFailure_append, beforeChecks_failure, afterChecks_failure, State.zoneChecks,
    firstFailure_append, firstFailure_append, ownChecks_eq, Option.or_assoc]
  simp only [decide_eq_true_eq]

/-! ### DEFINE ZONE (R25 to R27) -/

theorem defineZone_defines {q : ZoneParams} {z d : Fin 8} (named : q.zone.toNat = num z) (driven : q.drive.toNat = num d)
    (checks : firstFailure (s.zoneChecks z q) = none) (idle : s.setup.service[z] = .outOfService) :
    defineZone q s = (applyZone z (some (zoneDefinition q d)) (bringZonePace z s), some (done 0 [])) := by
  have drive : q.drive ≠ 0 := fun zero => by simp [zero, num] at driven
  simp only [defineZone, index?_of_eq named, index?_of_eq driven, if_neg drive, checks, idle, ne_eq, not_true_eq_false, if_false]

theorem defineZone_removes {q : ZoneParams} {z : Fin 8} (named : q.zone.toNat = num z) (drive : q.drive = 0)
    (last : (zoneNext z).bind s.zone = none) (idle : s.setup.service[z] = .outOfService) (defined : (s.zone z).isSome) :
    defineZone q s = (applyZone z none (dropPace z s), some (done 0 [])) := by
  have some_ : (s.zone z).isNone = false := by simpa using defined
  simp only [defineZone, index?_of_eq named, drive, if_true, removeZone, last, idle, some_]
  rfl

theorem defineZone_unnamed {q : ZoneParams} (outside : q.zone.toNat < 1 ∨ 8 < q.zone.toNat) :
    defineZone q s = (s, some (refuse resRange 1)) := by
  have unnamed : index? 8 q.zone.toNat = none := dif_neg (by omega)
  simp only [defineZone, unnamed]

theorem defineZone_refused {q : ZoneParams} {z : Fin 8} {n : Nat} (named : q.zone.toNat = num z) (drive : q.drive ≠ 0)
    (fails : (if q.drive.toNat ≤ 8 then firstFailure (s.zoneChecks z q) else some 2) = some n) :
    defineZone q s = (s, some (refuse resRange n (if n = 4 then
      ((List.finRange 8).filter (s.meets z q)).head?.toList.map fun y => BitVec.ofNat 8 (num y) else []))) := by
  have met : ((List.finRange 8).filter (s.meets z q)).head?.toList.map (fun y => BitVec.ofNat 8 (num y))
      = ((s.overlapped z q.first.toNat q.last.toNat).map fun y => BitVec.ofNat 8 (num y)).toList := by
    rw [overlapped_eq, List.head?_filter]
    cases (List.finRange 8).find? (s.meets z q) <;> rfl
  rw [met]
  by_cases low : q.drive.toNat ≤ 8
  · obtain ⟨d, driven, -⟩ := index?_of_le (fun zero => drive (by simpa [← BitVec.toNat_inj] using zero)) low
    rw [if_pos low] at fails
    simp only [defineZone, index?_of_eq named, driven, if_neg drive, fails]
  · rw [if_neg low] at fails
    cases fails
    simp only [defineZone, index?_of_eq named, index?_of_lt (Nat.lt_of_not_le low), if_neg drive]
    rfl

theorem defineZone_busy {q : ZoneParams} {z d : Fin 8} (named : q.zone.toNat = num z) (driven : q.drive.toNat = num d)
    (checks : firstFailure (s.zoneChecks z q) = none) (busy : s.setup.service[z] ≠ .outOfService) :
    defineZone q s = (s, some (refuse resState s.setup.service[z].code)) := by
  have drive : q.drive ≠ 0 := fun zero => by simp [zero, num] at driven
  simp only [defineZone, index?_of_eq named, index?_of_eq driven, if_neg drive, checks, if_pos busy]

/-- A definition that passed its checks takes the policies that its bytes name, a 0 the default of the kind. -/
theorem zoneDefinition_eq {q : ZoneParams} (d : Fin 8) (fits : policiesFit q = true) : zoneDefinition q d
    = { drive := d, first := q.first.toNat, last := q.last.toNat, capacity := q.capacity.toNat,
        stopping := #v[q.assist.toNat ≠ 2, q.material.toNat = 1, q.quality.toNat ≠ 2, q.maint.toNat ≠ 2],
        extension := q.extension.toNat, ignoreLoss := q.lossPolicy == 1, auto := q.auto == 1, name := q.name.toNat } := by
  have byte (b : Byte) (low : b.toNat ≤ 2) : policyOf true b = decide (b.toNat ≠ 2) ∧ policyOf false b = decide (b.toNat = 1) := by
    have cases_ : b = 0 ∨ b = 1 ∨ b = 2 := by bv_omega
    rcases cases_ with rfl | rfl | rfl <;> decide
  obtain ⟨assist, material, quality, maint, -⟩ := of_decide_eq_true ((policiesFit_eq q).symm.trans fits)
  rw [zoneDefinition, (byte _ assist).1, (byte _ material).2, (byte _ quality).1, (byte _ maint).1]

theorem policiesFit_of_checks {q : ZoneParams} {z : Fin 8} (checks : firstFailure (s.zoneChecks z q) = none) : policiesFit q = true :=
  firstFailure_none.1 checks (6, policiesFit q) (by simp [State.zoneChecks])

/-- Settles O28: the definition replaces the zone's entry alone and hands its consequences to buffers and panels; the checks
written out fail where the model's do. -/
theorem zonesAreDefinedAndRemoved : Obligations.ZonesAreDefinedAndRemoved := by
  have fitted (p : Post) (o : Order) (s : State) (a : Answer) (z : Fin 8) (x : Option ZoneDef) (u : State) (b : Fin 40) :
      ((answered p o s a (applyZone z x u)).loop.panels[b]).state = .unfitted
        ↔ (answered p o s a (applyZone z x u)).fitted b = false := by
    rw [fitted_congr (congrArg Setup.zones (answered_setup p o s a _)), ← applyZone_fitted]
    exact iff_of_eq (congrArg (fun v : CallLoop => v.panels[b].state = .unfitted) (answered_loop ..))
  refine ⟨fun p q s z d ready open_ named driven checks idle => ?_, fun p q s z ready open_ named drive last idle defined => ?_,
    fun p q s ready open_ => ⟨fun outside => ?_, fun z named drive' => ?_⟩⟩
  · refine .guarded rfl ready open_ (defineZone_defines (s := handed p _ s) named driven checks idle) rfl
      ⟨?_, fun k => ?_, fun b => fitted ..⟩
    · rw [answered_setup, applyZone_setup, zoneDefinition_eq d (policiesFit_of_checks checks)]
      rfl
    · have zones := congrArg Setup.zones (answered_setup p (.defineZone q) s (done 0 [])
        (applyZone z (some (zoneDefinition q d)) (bringZonePace z (handed p (.defineZone q) s))))
      rw [bufferExists_congr zones, bufferCapacity_congr zones]
      refine (congrArg (fun v : Vector Buffer 7 => v[k].count) (answered_buffers ..)).trans ?_
      exact applyZone_count ..
  · refine .guarded rfl ready open_ (defineZone_removes (s := handed p _ s) named drive last idle defined) rfl
      ⟨?_, ?_, fun b => fitted ..⟩
    · rw [answered_setup, applyZone_setup]
      rfl
    · refine (congrArg (fun v : Shift => v.zoneBehind[z]) (answered_shift ..)).trans ?_
      refine (congrArg (fun v : Shift => v.zoneBehind[z]) (setupOnly_shift ..)).trans ?_
      exact (upd_getElem ..).trans (if_pos rfl)
  · refine .guarded rfl ready open_ (defineZone_unnamed outside) rfl (answered_setup ..)
  · intro first last drive overlaps previous following checks
    have written : checks = (2, decide (q.drive.toNat ≤ 8)) :: (s.ownChecks z q
        ++ (beforeChecks z q.drive.toNat ((zonePrev z).bind s.zone)
          ++ afterChecks q.drive.toNat q.capacity ((zoneNext z).bind s.zone))) := by
      have before : (zonePrev z).bind s.zone = previous := by
        by_cases low : 0 < z.val <;> simp [zonePrev, previous, low]
      have after : (zoneNext z).bind s.zone = following := by
        by_cases high : z.val < 7 <;> simp [zoneNext, following, high]
      rw [before, after]
      rfl
    have failure : firstFailure checks = if q.drive.toNat ≤ 8 then firstFailure (s.zoneChecks z q) else some 2 :=
      (congrArg firstFailure written).trans (writtenChecks_failure z q)
    refine ⟨fun n fails => ?_, fun pass => ?_⟩
    · exact .guarded rfl ready open_ (defineZone_refused (s := handed p _ s) named drive' (failure.symm.trans fails)) rfl (answered_setup ..)
    · have all : firstFailure checks = none := firstFailure_none.2 pass
      rw [failure] at all
      by_cases low : q.drive.toNat ≤ 8
      · rw [if_pos low] at all
        obtain ⟨d, -, driven⟩ := index?_of_le (fun zero => drive' (by simpa [← BitVec.toNat_inj] using zero)) low
        exact ⟨all, fun busy => .guarded rfl ready open_ (defineZone_busy (s := handed p _ s) named driven.symm all busy) rfl
          (answered_setup ..)⟩
      · rw [if_neg low] at all
        cases all

end Sys2Proof.Machine
end

section
/-! Proofs for the drives and the buffers: what an addition to a demand set and a removal do to the drive, the orders HOLD DRIVE and
RELEASE DRIVE, and the buffer orders and releases (sections 6.4 and 6.6). -/

namespace Sys2Proof.Machine

variable {p : Post} {s t u : State}

/-! ### What leaves the journal alone -/

/-- Every row, no range, and the blocks named. -/
def Scope.unlogged (bs : List Block) : Scope := { everything false with blocks := bs, ranges := [] }

@[simp] theorem unlogged_blocks (bs : List Block) : (Scope.unlogged bs).blocks = bs := rfl
@[simp] theorem mem_unlogged_rows (bs : List Block) (r : Row) : r ∈ (Scope.unlogged bs).rows := mem_everything_rows false r
@[simp] theorem unlogged_ranges (bs : List Block) : (Scope.unlogged bs).ranges = [] := rfl

/-- Every row of every table stands below the journal's ring (section 1.2). -/
theorem Row.ranges_below (r : Row) : ∀ x ∈ r.ranges, x.1 + x.2 ≤ 0x7000 := by
  intro x hx
  cases r <;> simp only [Row.ranges, Row.base, Row.size, List.mem_cons, List.not_mem_nil, or_false] at hx
  case header => rcases hx with rfl | rfl <;> simp
  all_goals subst hx; simp; try omega

/-- Entries stand while neither the journal unit nor the ring is written. -/
theorem Journaled.stays {es : List Entry} {bs : List Block} (h : Journaled es s t) (k : Stays (Scope.unlogged bs) t u)
    (quiet : .journal ∉ bs) : Journaled es s u := by
  refine h.congr rfl (k.blocks .journal quiet) fun a high => k.memory.2.1 a fun r hr => .inr ?_
  simp only [unlogged_ranges, List.append_nil, List.mem_flatten, List.mem_map] at hr
  obtain ⟨_, ⟨row, -, rfl⟩, hr⟩ := hr
  exact Nat.le_trans (row.ranges_below r hr) high

/-- A wrapper that keeps the journal unit and the window of what it wraps keeps its entries. -/
theorem Journaled.wrap {es : List Entry} (h : Journaled es s t) (jrn : u.jrn = t.jrn) (win : u.win = t.win) : Journaled es s u :=
  h.congr rfl jrn fun a _ => by simp only [State.readByte, win]

/-! ### An addition to a demand set (R90) -/

theorem startTiming_drive (d e : Fin 8) (s : State) :
    (startTiming d s).drive e = { s.drive e with supervision := ((startTiming d s).drive e).supervision } := by
  unfold startTiming
  split
  · simp only [State.drive, updDrive, upd_getElem]
    split
    · next same => subst same; rfl
    · rfl
  · rfl

theorem startTiming_drive_other {d e : Fin 8} (ne : e ≠ d) (s : State) : (startTiming d s).drive e = s.drive e := by
  unfold startTiming
  split
  · simp only [State.drive, updDrive, upd_getElem, if_neg ne]
  · rfl

theorem updDrive_drive_other {d e : Fin 8} (ne : e ≠ d) (g : Drive → Drive) (s : State) : (updDrive d g s).drive e = s.drive e := by
  simp only [State.drive, updDrive, upd_getElem, if_neg ne]

theorem log_drive (k f n a b : Nat) (s : State) (e : Fin 8) : (log k f n a b s).drive e = s.drive e := by
  simp only [State.drive, log_drv]

theorem assertStop_drive (d : Fin 8) (x y : Nat) (s : State) : (assertStop d x y s).drive d
    = { s.drive d with stopRequest := true, supervision := ((assertStop d x y s).drive d).supervision } := by
  have asserted : (log kindStopRequested x (num d) y (s.drive d).pitch.toNat (updDrive d (fun v => { v with stopRequest := true }) s)).drive d
      = { s.drive d with stopRequest := true } := (log_drive ..).trans (updDrive_drive ..)
  unfold assertStop
  dsimp only
  split
  · rw [startTiming_drive, asserted]
  · rw [asserted]

theorem assertStop_drive_other {d e : Fin 8} (ne : e ≠ d) (x y : Nat) (s : State) : (assertStop d x y s).drive e = s.drive e := by
  have asserted : (log kindStopRequested x (num d) y (s.drive d).pitch.toNat (updDrive d (fun v => { v with stopRequest := true }) s)).drive e
      = s.drive e := (log_drive ..).trans (updDrive_drive_other ne ..)
  unfold assertStop
  dsimp only
  split
  · rw [startTiming_drive_other ne, asserted]
  · exact asserted

theorem follow_drive (old s : State) (e : Fin 8) : (follow old s).drive e = s.drive e := by
  simp only [State.drive, follow_drv_drives]

theorem reevaluate_drive (d : Fin 8) (s : State) (e : Fin 8) : (reevaluate d s).drive e = s.drive e := by
  simp only [State.drive, reevaluate_drv_drives]

theorem addDemand_held {d : Fin 8} {e : Demand} (held : (s.drive d).demand.contains e = true) (x y : Nat) :
    addDemand d e x y s = s := if_pos held

/-- A new entry stands last in the set; the stop request follows on an empty set, and nothing else of the drive changes but the
supervision. -/
theorem addDemand_drive {d : Fin 8} {e : Demand} (fresh : (s.drive d).demand.contains e = false) (x y : Nat) :
    (addDemand d e x y s).drive d = { s.drive d with
      demand := (s.drive d).demand ++ [e], stopRequest := (s.drive d).demand.isEmpty || (s.drive d).stopRequest,
      supervision := ((addDemand d e x y s).drive d).supervision } := by
  unfold addDemand
  rw [fresh, if_neg (by decide)]
  dsimp only
  rw [follow_drive, reevaluate_drive]
  split
  · next first => rw [assertStop_drive, updDrive_drive]; simp [first]
  · next more => rw [updDrive_drive]; simp [more]

theorem addDemand_drive_other {d c : Fin 8} (ne : c ≠ d) (e : Demand) (x y : Nat) : (addDemand d e x y s).drive c = s.drive c := by
  unfold addDemand
  split
  · rfl
  · dsimp only
    rw [follow_drive, reevaluate_drive]
    split
    · rw [assertStop_drive_other ne, updDrive_drive_other ne]
    · rw [updDrive_drive_other ne]

theorem Stays.thenReevaluateClosed {f : Scope} (h : Stays f s t) {d : Fin 8} (closed : t.openRecord d = none) :
    Stays f s (reevaluate d t) := by
  have step : reevaluateStep d t = t := by simp only [reevaluateStep, closed]
  rw [reevaluate, step]
  exact h.trans (Stays.refl t).attributionOnly

theorem assertStop_journaled (d : Fin 8) (x y : Nat) (room : s.hasRoom 1) :
    Journaled [⟨s.partTime, 0x10, x, num d, y, (s.drive d).pitch.toNat⟩] s (assertStop d x y s) := by
  have entry : Journaled [⟨s.partTime, 0x10, x, num d, y, (s.drive d).pitch.toNat⟩] s
      (log kindStopRequested x (num d) y (s.drive d).pitch.toNat (updDrive d (fun v => { v with stopRequest := true }) s)) :=
    (journal_journaled _ (updDrive d (fun v => { v with stopRequest := true }) s) (room.congr rfl rfl)).congr rfl rfl fun _ _ => rfl
  unfold assertStop
  dsimp only
  split
  · exact entry.stays (bs := [.drives]) ((Stays.refl _).thenStartTiming (by simp) d) (by simp)
  · exact entry

theorem assertStop_attr (d : Fin 8) (x y : Nat) (s : State) : (assertStop d x y s).attr = s.attr := by
  unfold assertStop startTiming
  dsimp only
  split
  · split <;> rfl
  · rfl

/-- With no record open, the first entry of a set journals its stop request alone. -/
theorem addDemand_journaled {d : Fin 8} (e : Demand) (x y : Nat) (empty : (s.drive d).demand = []) (closed : s.openRecord d = none)
    (room : s.hasRoom 1) : Journaled [⟨s.partTime, 0x10, x, num d, y, (s.drive d).pitch.toNat⟩] s (addDemand d e x y s) := by
  unfold addDemand
  rw [if_neg (by simp [empty])]
  dsimp only
  rw [if_pos (by simp [empty])]
  have entry := assertStop_journaled d x y (s := updDrive d (fun v => { v with demand := v.demand ++ [e] }) s) (room.congr rfl rfl)
  rw [updDrive_drive] at entry
  refine (entry.congr (s' := s) rfl rfl fun _ _ => rfl).stays (bs := [.attribution, .display, .rendering])
    (((Stays.refl _).thenReevaluateClosed ?_).thenFollow {} s) (by simp)
  rw [State.openRecord, assertStop_attr]
  exact closed

/-! ### A removal from a demand set (R90) -/

theorem endSupervision_drive (d : Fin 8) (s : State) : (endSupervision d s).drive d = { s.drive d with supervision := .idle } := by
  unfold endSupervision
  dsimp only
  split
  · exact (log_drive ..).trans (updDrive_drive ..)
  · exact updDrive_drive ..

theorem endSupervision_drive_other {d e : Fin 8} (ne : e ≠ d) (s : State) : (endSupervision d s).drive e = s.drive e := by
  unfold endSupervision
  dsimp only
  split
  · exact (log_drive ..).trans (updDrive_drive_other ne ..)
  · exact updDrive_drive_other ne ..

theorem releaseStop_drive (d : Fin 8) (x y : Nat) (s : State) :
    (releaseStop d x y s).drive d = { s.drive d with stopRequest := false, supervision := .idle } := by
  rw [releaseStop, endSupervision_drive, log_drive, updDrive_drive]

theorem releaseStop_drive_other {d e : Fin 8} (ne : e ≠ d) (x y : Nat) (s : State) : (releaseStop d x y s).drive e = s.drive e := by
  rw [releaseStop, endSupervision_drive_other ne, log_drive, updDrive_drive_other ne]

theorem removeDemand_none {d : Fin 8} {gone : Demand → Bool} (none_ : ∀ e ∈ (s.drive d).demand, gone e = false) (x : Nat) :
    removeDemand d gone x s = s := by
  have kept : (s.drive d).demand.filter (fun e => !gone e) = (s.drive d).demand :=
    List.filter_eq_self.2 fun e he => by simp [none_ e he]
  simp only [removeDemand, kept, if_true]

/-- A removal that takes an entry keeps the rest in order; the stop request is released with the last. -/
theorem removeDemand_drive {d : Fin 8} {gone : Demand → Bool} (some_ : ∃ e ∈ (s.drive d).demand, gone e = true) (x : Nat) :
    ((removeDemand d gone x s).drive d).demand = (s.drive d).demand.filter (fun e => !gone e)
      ∧ ((removeDemand d gone x s).drive d).stopRequest
        = (!((s.drive d).demand.filter fun e => !gone e).isEmpty && (s.drive d).stopRequest) := by
  have fewer : ¬ ((s.drive d).demand.filter fun e => !gone e).length = (s.drive d).demand.length := fun same => by
    obtain ⟨e, he, ge⟩ := some_
    have := List.length_filter_eq_length_iff.1 same e he
    simp [ge] at this
  unfold removeDemand
  dsimp only
  rw [if_neg fewer, follow_drive, reevaluate_drive]
  split
  · next last => rw [releaseStop_drive, updDrive_drive]; simp [keepDemand_demand, last]
  · next more => rw [updDrive_drive]; simp [keepDemand_demand, keepDemand_stopRequest, more]

theorem removeDemand_demand (d : Fin 8) (gone : Demand → Bool) (x : Nat) (s : State) :
    ((removeDemand d gone x s).drive d).demand = (s.drive d).demand.filter (fun e => !gone e) := by
  by_cases some_ : ∃ e ∈ (s.drive d).demand, gone e = true
  · exact (removeDemand_drive some_ x).1
  · have none_ : ∀ e ∈ (s.drive d).demand, gone e = false := by simpa using some_
    rw [removeDemand_none none_, List.filter_eq_self.2 fun e he => by simp [none_ e he]]

theorem removeDemand_drive_other {d c : Fin 8} (ne : c ≠ d) (gone : Demand → Bool) (x : Nat) (s : State) :
    (removeDemand d gone x s).drive c = s.drive c := by
  unfold removeDemand
  dsimp only
  split
  · rfl
  · rw [follow_drive, reevaluate_drive]
    split
    · rw [releaseStop_drive_other ne, updDrive_drive_other ne]
    · rw [updDrive_drive_other ne]

/-! ### HOLD DRIVE and RELEASE DRIVE (R91, R92) -/

theorem demandOnly_syncRow_drive (s t : State) (r : Row) (e : Fin 8) : (demandOnly s (syncRow s r t)).drive e = t.drive e := rfl

theorem holdDrive_held {b : Byte} {d : Fin 8} (named : b.toNat = num d) (defined : (s.setup.drives[d]).isSome)
    (held : (s.drive d).demand.contains .hold = true) : holdDrive b s
      = (s, some (done 1 ([if (s.drive d).feedback = .stopped then 1 else 0] ++ halfBytes (s.drive d).pitch))) := by
  have some_ : (s.setup.drives[d]).isNone = false := by simpa using defined
  have code : BitVec.ofNat 8 (feedbackCode (s.drive d).feedback) = if (s.drive d).feedback = .stopped then 1 else 0 := by
    cases (s.drive d).feedback <;> rfl
  simp only [holdDrive, index?_of_eq named, some_, held, code]
  rfl

theorem holdDrive_adds {b : Byte} {d : Fin 8} (named : b.toNat = num d) (defined : (s.setup.drives[d]).isSome)
    (free : (s.drive d).demand.contains .hold = false) : holdDrive b s
      = (demandOnly s (syncRow s (.drive d) (addDemand d .hold 2 0 s)),
        some (done 0 ([if (s.drive d).feedback = .stopped then 1 else 0] ++ halfBytes (s.drive d).pitch))) := by
  have some_ : (s.setup.drives[d]).isNone = false := by simpa using defined
  have code : BitVec.ofNat 8 (feedbackCode (s.drive d).feedback) = if (s.drive d).feedback = .stopped then 1 else 0 := by
    cases (s.drive d).feedback <;> rfl
  simp only [holdDrive, index?_of_eq named, some_, free, code]
  rfl

theorem isHold_eq (e : Demand) : (!isHold e) = (e != .hold) := by cases e <;> rfl

theorem releaseDrive_free {b : Byte} {d : Fin 8} (named : b.toNat = num d) (free : (s.drive d).demand.contains .hold = false) :
    releaseDrive b s = (s, some (done 1 [BitVec.ofNat 8 (min ((s.drive d).demand.filter fun e => e != .hold).length 255)])) := by
  have all : (s.drive d).demand.filter (fun e => e != .hold) = (s.drive d).demand :=
    List.filter_eq_self.2 fun e he => by
      have : e ≠ .hold := fun same => by simp_all
      simpa using this
  simp only [releaseDrive, index?_of_eq named, free, all, satTo]
  rfl

theorem releaseDrive_held {b : Byte} {d : Fin 8} (named : b.toNat = num d) (held : (s.drive d).demand.contains .hold = true) :
    releaseDrive b s = (demandOnly s (syncRow s (.drive d) (removeDemand d isHold 3 s)),
      some (done 0 [BitVec.ofNat 8 (min ((s.drive d).demand.filter fun e => e != .hold).length 255)])) := by
  simp only [releaseDrive, index?_of_eq named, held, isHold_eq, satTo]
  rfl

/-- Settles O31: HOLD joins or leaves the set by the rules of an addition and a removal. -/
theorem drivesAreHeldAndReleased : Obligations.DrivesAreHeldAndReleased := by
  refine ⟨fun p b s d ready named defined => ⟨fun held => ?_, fun free => ?_⟩,
    fun p b s d ready named => ⟨fun free => ?_, fun held => ?_⟩⟩
  · exact .intro rfl ready (holdDrive_held (s := handed p _ s) named defined held) rfl (answered_drives ..)
  · refine .intro rfl ready (holdDrive_adds (s := handed p _ s) named defined free) rfl ?_
    have joined := addDemand_drive (s := handed p (.holdDrive b) s) free 2 0
    refine ⟨?_, ?_, ?_, ?_, fun e ne => ?_, fun room closed empty => ?_⟩
    iterate 4
      rw [answered_drive, demandOnly_syncRow_drive, joined]
      rfl
    · rw [answered_drive, demandOnly_syncRow_drive, addDemand_drive_other ne]
      rfl
    · have entry := addDemand_journaled (s := handed p (.holdDrive b) s) .hold 2 0 empty closed (handed_hasRoom room)
      have row := entry.stays (bs := []) ((Stays.refl _).thenSyncRow (r := .drive d) (by simp) (handed p (.holdDrive b) s)) (by simp)
      exact (row.wrap (demandOnly_jrn ..) (demandOnly_win ..)).answered
  · exact .intro rfl ready (releaseDrive_free (s := handed p _ s) named free) rfl (answered_drives ..)
  · refine .intro rfl ready (releaseDrive_held (s := handed p _ s) named held) rfl ?_
    have left := removeDemand_drive (s := handed p (.releaseDrive b) s) (d := d) (gone := isHold) ⟨.hold, List.contains_iff_mem.1 held, rfl⟩ 3
    simp only [isHold_eq] at left
    refine ⟨?_, ?_, fun e ne => ?_⟩
    · rw [answered_drive, demandOnly_syncRow_drive, left.1]
      rfl
    · rw [answered_drive, demandOnly_syncRow_drive, left.2]
      rfl
    · rw [answered_drive, demandOnly_syncRow_drive, removeDemand_drive_other ne]
      rfl

/-! ### Buffers (R100, R101) -/

theorem bufferChanged_drives (k : Fin 7) (s : State) : (bufferChanged k s).drv.drives = s.drv.drives :=
  each_same (fun s : State => s.drv.drives) fun _ _ _ => reevaluate_drv_drives ..

theorem setBufferCount_missing {b x : Byte} {k : Fin 7} (named : b.toNat = num k) (missing : s.bufferExists k = false) :
    setBufferCount b x s = (s, some (refuse resState 0)) := by
  simp [setBufferCount, index?_of_eq named, missing]

theorem setBufferCount_above {b x : Byte} {k : Fin 7} (named : b.toNat = num k) (exists_ : s.bufferExists k = true)
    (above : s.bufferCapacity k < x.toNat) :
    setBufferCount b x s = (s, some (refuse resRange 2 [BitVec.ofNat 8 (s.bufferCapacity k)])) := by
  simp [setBufferCount, index?_of_eq named, exists_, above]

/-- The state that SET BUFFER COUNT leaves. -/
def counted (k : Fin 7) (n : Nat) (s : State) : State :=
  if s.bufferCount k = n then s
  else demandOnly s (syncRow s (.buffer k) (bufferChanged k (updBuffer k (fun b => { b with count := n }) s)))

theorem setBufferCount_sets {b x : Byte} {k : Fin 7} (named : b.toNat = num k) (exists_ : s.bufferExists k = true)
    (fits : x.toNat ≤ s.bufferCapacity k) :
    setBufferCount b x s = (counted k x.toNat s, some (done 0 [BitVec.ofNat 8 (s.bufferCount k)])) := by
  simp only [setBufferCount, index?_of_eq named, exists_, if_neg (Nat.not_lt.2 fits), counted, Bool.not_true, Bool.false_eq_true,
    if_false]
  by_cases same : s.bufferCount k = x.toNat <;> simp only [same, if_true, if_false]

theorem counted_buffers (k : Fin 7) (n : Nat) (s : State) :
    (counted k n s).drv.buffers = s.drv.buffers.set k.val { s.drv.buffers[k] with count := n } := by
  unfold counted
  split
  · next same =>
    subst same
    exact (Vector.set_getElem_self ..).symm
  · rw [demandOnly_drv, syncRow_drv, (bufferChanged_same ..).2]
    rfl

theorem counted_drives (k : Fin 7) (n : Nat) (s : State) : (counted k n s).drv.drives = s.drv.drives := by
  unfold counted
  split
  · rfl
  · rw [demandOnly_drv, syncRow_drv, bufferChanged_drives]
    rfl

theorem counted_ord (k : Fin 7) (n : Nat) (s : State) : (counted k n s).ord = s.ord := by
  unfold counted
  split
  · rfl
  · exact demandOnly_ord ..

/-- The buffer after a release of it (R100). -/
def Buffer.released (b : Buffer) : Buffer :=
  if 0 < b.count then { b with count := b.count - 1 } else { b with underruns := min (b.underruns + 1) 65535 }

/-- What a release does before its row is written. -/
def taken (k : Fin 7) (s : State) : State :=
  if 0 < s.bufferCount k then bufferChanged k (updBuffer k (fun b => { b with count := b.count - 1 }) s)
  else logAnomaly k 2 0 (updBuffer k (fun b => { b with underruns := satAdd 65535 b.underruns 1 }) s)

theorem bufferRelease_eq {k : Fin 7} (running : s.part = .running) (exists_ : s.bufferExists k = true) :
    bufferRelease k s = settle s (syncRow s (.buffer k) (motionOnly s (taken k s))) := by
  simp [bufferRelease, running, exists_, taken]

theorem taken_buffers (k : Fin 7) (s : State) : (taken k s).drv.buffers = s.drv.buffers.set k.val s.drv.buffers[k].released := by
  by_cases some_ : 0 < s.bufferCount k
  · have after : s.drv.buffers[k].released = { s.drv.buffers[k] with count := s.drv.buffers[k].count - 1 } := if_pos some_
    rw [taken, if_pos some_, (bufferChanged_same ..).2, after]
    rfl
  · have after : s.drv.buffers[k].released = { s.drv.buffers[k] with underruns := min (s.drv.buffers[k].underruns + 1) 65535 } :=
      if_neg some_
    rw [taken, if_neg some_, after]
    rfl

theorem taken_drives (k : Fin 7) (s : State) : (taken k s).drv.drives = s.drv.drives := by
  unfold taken
  split
  · exact bufferChanged_drives ..
  · rfl

theorem taken_journaled {k : Fin 7} (empty : s.drv.buffers[k].count = 0) (room : s.hasRoom 1) :
    Journaled [⟨s.partTime, 0x18, 2, num k, 0, s.bufferCapacity k⟩] s (taken k s) := by
  have zero : ¬ 0 < s.bufferCount k := by simp only [State.bufferCount, empty]; decide
  rw [taken, if_neg zero]
  exact (journal_journaled _ (updBuffer k (fun b => { b with underruns := satAdd 65535 b.underruns 1 }) s) (room.congr rfl rfl)).congr
    rfl rfl fun _ _ => rfl

theorem bufferRelease_idle {k : Fin 7} (none_ : s.part = .starting ∨ s.bufferExists k = false) : bufferRelease k s = s :=
  if_pos (none_.imp_right fun missing => by simp [missing])

/-- Settles O32, by the checks of SET BUFFER COUNT and the two cases of a release. -/
theorem bufferCountsAreSetAndReleased : Obligations.BufferCountsAreSetAndReleased := by
  refine ⟨fun p b x s k ready named => ⟨fun missing => ?_, fun exists_ above => ?_, fun exists_ fits => ?_⟩,
    fun k s => ⟨bufferRelease k s, rfl, bufferRelease_idle, fun running exists_ => ?_⟩⟩
  · exact .intro rfl ready (setBufferCount_missing (s := handed p _ s) named missing) rfl (answered_buffers ..)
  · exact .intro rfl ready (setBufferCount_above (s := handed p _ s) named exists_ above) rfl (answered_buffers ..)
  · refine .intro rfl ready (setBufferCount_sets (s := handed p _ s) named exists_ fits) (counted_ord ..) ⟨?_, ?_⟩
    · exact (answered_buffers ..).trans (counted_buffers ..)
    · exact (answered_drives ..).trans (counted_drives ..)
  · rw [bufferRelease_eq running exists_]
    refine ⟨?_, ?_, ?_, fun empty room => ?_⟩
    · rw [settle_drv_buffers, syncRow_drv]
      exact taken_buffers k s
    · rw [settle_drv_drives, syncRow_drv]
      exact taken_drives k s
    · rw [settle_shift]
      rfl
    · exact ((taken_journaled empty room).wrap (motionOnly_jrn ..) (motionOnly_win ..)).stays
        (bs := [.display, .rendering]) (((Stays.refl _).thenSyncRow (by simp) s).thenSettle {} s) (by simp)

end Sys2Proof.Machine
end

section
/-! Proofs for the shift unit: what bringing the tally up to date, placing a plan, a start and a close leave (sections 8.2, 8.3
and 8.5). -/

namespace Sys2Proof.Machine

variable {s t u : State}

/-! ### The tally as of now (R131) -/

theorem bringTally_open (open_ : s.shiftOpen = true) : (bringTally s).shift = { s.shift with
    elapsed := s.shiftE, working := s.shiftW, pace := paceOf s.shift.actual s.shiftW s.takt,
    zonePace := (bringTally s).shift.zonePace } := by
  simp only [bringTally, open_, if_true]
  rfl

/-- Bringing the tally up to date changes its four figures alone. -/
theorem bringTally_shift (s : State) : (bringTally s).shift = { s.shift with
    elapsed := (bringTally s).shift.elapsed, working := (bringTally s).shift.working, pace := (bringTally s).shift.pace,
    zonePace := (bringTally s).shift.zonePace } := by
  unfold bringTally
  split <;> rfl

theorem partTime_congr (ms : t.ms = s.ms) : t.partTime = s.partTime := by
  unfold State.partTime
  rw [ms]

theorem shiftE_congr (shift : t.shift = s.shift) (ms : t.ms = s.ms) : t.shiftE = s.shiftE := by
  unfold State.shiftE State.shiftOpen State.tenths
  rw [shift, ms]

theorem shiftW_congr (shift : t.shift = s.shift) (ms : t.ms = s.ms) : t.shiftW = s.shiftW := by
  unfold State.shiftW
  rw [shiftE_congr shift ms]
  unfold State.shiftOpen
  rw [shift]

theorem takt_congr (shift : t.shift = s.shift) : t.takt = s.takt := by unfold State.takt; rw [shift]

theorem target_congr (shift : t.shift = s.shift) : t.target = s.target := by unfold State.target; rw [shift]

theorem bringTally_closed (closed : s.shiftOpen = false) : bringTally s = s := by simp [bringTally, closed]

theorem showPlans_shift (old s : State) : (showPlans old s).shift = (bringTally s).shift := rfl

/-! ### A plan is placed (R124) -/

theorem placePlan_closed (r : Nat) (q : Plan) (closed : s.shiftOpen = false) :
    (placePlan r q s).2 = done 0 [if s.shift.pending.isSome then 1 else 0]
      ∧ (placePlan r q s).1.shift = { s.shift with pending := some q, state := .pending } := by
  have byte : BitVec.ofNat 8 (bit s.shift.pending.isSome) = if s.shift.pending.isSome then 1 else 0 := by
    cases s.shift.pending.isSome <;> rfl
  unfold placePlan
  dsimp only
  rw [if_neg (by simp [closed])]
  exact ⟨congrArg (fun b => done 0 [b]) byte, congrArg State.shift (bringTally_closed rfl)⟩

/-- In an open shift the plan is NEXT, and the tally is brought up to date. -/
theorem placePlan_open (r : Nat) (q : Plan) (open_ : s.shiftOpen = true) :
    (placePlan r q s).2 = done 1 [if s.shift.next.isSome then 1 else 0]
      ∧ (placePlan r q s).1.shift = { s.shift with
        next := some q, elapsed := (placePlan r q s).1.shift.elapsed, working := (placePlan r q s).1.shift.working,
        pace := (placePlan r q s).1.shift.pace, zonePace := (placePlan r q s).1.shift.zonePace } := by
  have byte : BitVec.ofNat 8 (bit s.shift.next.isSome) = if s.shift.next.isSome then 1 else 0 := by
    cases s.shift.next.isSome <;> rfl
  unfold placePlan
  dsimp only
  rw [if_pos open_]
  refine ⟨congrArg (fun b => done 1 [b]) byte, ?_⟩
  rw [showPlans_shift]
  exact bringTally_shift _

theorem placePlan_ord (r : Nat) (q : Plan) (s : State) : (placePlan r q s).1.ord = s.ord := by
  have kept (s : State) : (bringTally s).ord = s.ord := by unfold bringTally; split <;> rfl
  unfold placePlan
  dsimp only
  split
  · exact kept _
  · exact kept _

/-! ### A shift starts (R125) -/

theorem attributionShiftStarts_shift (s : State) : (attributionShiftStarts s).shift = s.shift := attributionOnly_shift ..

theorem attributionShiftStarts_ms (s : State) : (attributionShiftStarts s).ms = s.ms := attributionOnly_ms ..

theorem each_zeroTotals {l : List (Fin 8)} (z : Fin 8) (s : State) :
    (each l zeroTotals s).attr.totals[z] = if z ∈ l then ZoneTotals.initial s.partTime else s.attr.totals[z] := by
  induction l generalizing s with
  | nil => simp [each]
  | cons y ys ih =>
    refine (ih (zeroTotals y s)).trans ?_
    have zeroed : (zeroTotals y s).attr.totals[z] = if z = y then ZoneTotals.initial s.partTime else s.attr.totals[z] :=
      upd_getElem ..
    have now : (zeroTotals y s).partTime = s.partTime := rfl
    rw [zeroed, now]
    by_cases later : z ∈ ys <;> by_cases same : z = y <;> simp [later, same]

theorem attributionShiftStarts_totals (z : Fin 8) (s : State) :
    (attributionShiftStarts s).attr.totals[z] = ZoneTotals.initial s.partTime := by
  have now (l : List (Fin 8)) (t : State) : (each l (fun d t => openRecordFor d 0 true (closeRecord .continues d t)) t).ms = t.ms :=
    each_same State.ms fun _ _ _ => (openRecordFor_ms ..).trans (closeRecord_ms ..)
  refine (congrArg (fun v : Attribution => v.totals[z]) (attributionOnly_attr ..)).trans ?_
  rw [each_zeroTotals, if_pos (List.mem_finRange z), partTime_congr (now ..)]

theorem zeroRaisedShift_shift (s : State) : (zeroRaisedShift s).shift = s.shift := rfl
theorem zeroRaisedShift_ms (s : State) : (zeroRaisedShift s).ms = s.ms := rfl
theorem zeroRaisedShift_attr (s : State) : (zeroRaisedShift s).attr = s.attr := rfl

theorem zeroRaisedShift_stations (n : Fin 160) (s : State) : ((zeroRaisedShift s).calls.stations[n]).raisedShift = 0 := by
  refine (congrArg Station.raisedShift (Vector.getElem_map ..)).trans rfl

/-- The shift unit as a start stamps it. -/
def State.begun (s : State) : Shift :=
  Shift.started { s.shift with current := s.shift.pending, pending := none } s.tenths s.partTime

/-- The state that a start stamps, and the one in which it shows the tally. -/
def stamped (reason late : Nat) (s : State) : State :=
  updShift (fun x => x.started s.tenths s.partTime) (logShift .running reason s.shift.unplanned late
    (syncRow s .header (updShift (fun v => { v with current := v.pending, pending := none }) s)))

def starting (reason late : Nat) (s : State) : State := zeroRaisedShift (attributionShiftStarts (stamped reason late s))

theorem starting_shift (reason late : Nat) (s : State) : (starting reason late s).shift = s.begun := by
  rw [starting, zeroRaisedShift_shift, attributionShiftStarts_shift]
  rfl

theorem starting_ms (reason late : Nat) (s : State) : (starting reason late s).ms = s.ms := by
  rw [starting, zeroRaisedShift_ms, attributionShiftStarts_ms]
  rfl

theorem starting_totals (reason late : Nat) (z : Fin 8) (s : State) :
    (starting reason late s).attr.totals[z] = ZoneTotals.initial s.partTime := by
  refine (congrArg (fun v : Attribution => v.totals[z]) (zeroRaisedShift_attr _)).trans ?_
  exact (attributionShiftStarts_totals z (stamped reason late s)).trans (congrArg ZoneTotals.initial (partTime_congr rfl))

theorem showShift_shift (zs : List (Fin 8)) (s : State) : (showShift zs s).shift = (bringTally s).shift := rfl

theorem bringTally_attr (s : State) : (bringTally s).attr = s.attr := by unfold bringTally; split <;> rfl

theorem bringTally_calls (s : State) : (bringTally s).calls = s.calls := by unfold bringTally; split <;> rfl

theorem startShift_shift (reason late : Nat) (s : State) :
    (startShift reason late s).shift = { s.begun with zonePace := (startShift reason late s).shift.zonePace } := by
  have shift := starting_shift reason late s
  have open_ : (starting reason late s).shiftOpen = true := by rw [State.shiftOpen, shift]; rfl
  have elapsed : (starting reason late s).shiftE = 0 := by
    rw [State.shiftE, open_, shift, State.tenths, starting_ms]
    exact Nat.sub_self _
  have working : (starting reason late s).shiftW = 0 := by
    rw [State.shiftW, open_, elapsed, shift]
    rfl
  have tally := bringTally_open open_
  rw [elapsed, working, shift] at tally
  have none_ : paceOf s.begun.actual 0 (starting reason late s).takt = none := by simp [paceOf]
  rw [none_] at tally
  have whole : (startShift reason late s).shift = { (bringTally (starting reason late s)).shift with clock := s.shift.clock } := rfl
  rw [whole, tally]
  rfl

theorem ShiftStarted.of_begun {q : Plan} (pending : s.shift.pending = some q) (ms : t.ms = s.ms)
    (shift : t.shift = { s.begun with zonePace := t.shift.zonePace })
    (stations : ∀ n : Fin 160, (t.calls.stations[n]).raisedShift = 0)
    (totals : ∀ z : Fin 8, t.attr.totals[z] = ZoneTotals.initial s.partTime) : ShiftStarted q t := by
  have tenths : t.tenths = s.tenths := by unfold State.tenths; rw [ms]
  have zones (z : Fin 8) : s.begun.zoneCount[z] = 0 ∧ s.begun.zoneBehind[z] = false :=
    ⟨Vector.getElem_replicate .., Vector.getElem_replicate ..⟩
  rw [ShiftStarted, partTime_congr ms, tenths]
  refine ⟨?_, ?_, ?_, ?_, ?_, ?_, ?_, ?_, ?_, ?_, ?_, ?_, ?_, ?_, ?_, ?_, fun z => ?_, stations, totals⟩
  case refine_2 => rw [shift]; exact pending
  case refine_4 => rw [shift]; exact pending
  case refine_17 =>
    exact ⟨(congrArg (fun v : Shift => v.zoneCount[z]) shift).trans (zones z).1,
      (congrArg (fun v : Shift => v.zoneBehind[z]) shift).trans (zones z).2⟩
  all_goals rw [shift]; rfl

theorem startShift_started {q : Plan} (reason late : Nat) (pending : s.shift.pending = some q) :
    ShiftStarted q (startShift reason late s) := by
  refine .of_begun pending (shiftOnly_ms ..) (startShift_shift ..) (fun n => ?_) fun z => ?_
  · refine (congrArg (fun v : CallTable => v.stations[n].raisedShift) (bringTally_calls (starting reason late s))).trans ?_
    exact zeroRaisedShift_stations ..
  · refine (congrArg (fun v : Attribution => v.totals[z]) (bringTally_attr (starting reason late s))).trans ?_
    exact starting_totals ..

theorem ShiftStarted.congr {q : Plan} (h : ShiftStarted q t) (ms : u.ms = t.ms) (shift : u.shift = t.shift) (calls : u.calls = t.calls)
    (attr : u.attr = t.attr) : ShiftStarted q u := by
  simpa only [ShiftStarted, State.tenths, State.partTime, ms, shift, calls, attr] using h

/-- What a start leaves of the shift unit. -/
theorem startShift_kept (reason late : Nat) (s : State) : (startShift reason late s).shift.next = s.shift.next
    ∧ (startShift reason late s).shift.clock = s.shift.clock
    ∧ (startShift reason late s).shift.behindList = s.shift.behindList
    ∧ (startShift reason late s).shift.recovered = s.shift.recovered := by
  obtain ⟨paces, shift⟩ : ∃ paces, (startShift reason late s).shift = { s.begun with zonePace := paces } :=
    ⟨_, startShift_shift reason late s⟩
  rw [shift]
  exact ⟨rfl, rfl, rfl, rfl⟩

/-! ### A shift closes (R128) -/

theorem crossPace_shift (behind closed : Bool) (z : Fin 8) (s : State) : (crossPace behind closed z s).shift = { s.shift with
    zoneBehind := upd s.shift.zoneBehind z fun _ => behind, behindList := (crossPace behind closed z s).shift.behindList,
    recovered := (crossPace behind closed z s).shift.recovered } := rfl

theorem each_crossPace_shift (behind closed : Bool) (l : List (Fin 8)) (s : State) :
    (each l (crossPace behind closed) s).shift = { s.shift with
      zoneBehind := each l (fun z v => upd v z fun _ => behind) s.shift.zoneBehind,
      behindList := (each l (crossPace behind closed) s).shift.behindList,
      recovered := (each l (crossPace behind closed) s).shift.recovered } := by
  induction l generalizing s with
  | nil => rfl
  | cons z zs ih => exact (ih (crossPace behind closed z s)).trans (by rw [crossPace_shift]; rfl)

theorem attributionShiftCloses_shift (s : State) : (attributionShiftCloses s).shift = s.shift := attributionOnly_shift ..
theorem attributionShiftCloses_ms (s : State) : (attributionShiftCloses s).ms = s.ms := attributionOnly_ms ..

/-- The tally that a close files. -/
def closing (s : State) : State := bringTally (bringPlanCount (attributionShiftCloses s))

theorem closing_shift (open_ : s.shiftOpen = true) : (closing s).shift = { s.shift with
    planCount := min s.target (s.shiftW / s.takt), elapsed := s.shiftE, working := s.shiftW,
    pace := paceOf s.shift.actual s.shiftW s.takt, zonePace := (closing s).shift.zonePace } := by
  have shift := attributionShiftCloses_shift s
  have opened : (bringPlanCount (attributionShiftCloses s)).shiftOpen = true := by
    show (attributionShiftCloses s).shift.state.isOpen = true
    rw [shift]; exact open_
  have elapsed : (attributionShiftCloses s).shiftE = s.shiftE := shiftE_congr shift (attributionShiftCloses_ms s)
  have working : (attributionShiftCloses s).shiftW = s.shiftW := shiftW_congr shift (attributionShiftCloses_ms s)
  have takt : (attributionShiftCloses s).takt = s.takt := takt_congr shift
  have target : (attributionShiftCloses s).target = s.target := target_congr shift
  have elapsed' : (bringPlanCount (attributionShiftCloses s)).shiftE = s.shiftE := elapsed
  have working' : (bringPlanCount (attributionShiftCloses s)).shiftW = s.shiftW := working
  have takt' : (bringPlanCount (attributionShiftCloses s)).takt = s.takt := takt
  have counted : (bringPlanCount (attributionShiftCloses s)).shift = { s.shift with planCount := min s.target (s.shiftW / s.takt) } := by
    rw [bringPlanCount, updShift_shift, shift, target, working, takt]
  have tally := bringTally_open opened
  rw [elapsed', working', takt', counted] at tally
  exact tally

/-- The zones BEHIND at the filing of the tally cross back (R128). -/
def closedZones (reason : CloseReason) (s : State) : State :=
  each ((List.finRange 8).filter fun z => (fileShift reason (closing s)).shift.zoneBehind[z]) (crossPace false true)
    (fileShift reason (closing s))

theorem closeShift_shift (reason : CloseReason) (s : State) : (closeShift reason s).shift = { (closedZones reason s).shift with
    current := none, pending := (closedZones reason s).shift.next, next := none,
    state := if (closedZones reason s).shift.next.isSome then .pending else .idle, closeReason := some reason,
    clock := s.shift.clock } := rfl

theorem closeShift_closed (reason : CloseReason) (open_ : s.shiftOpen = true) : ShiftClosed reason s (closeShift reason s) := by
  have tally := closing_shift open_
  have zones := each_crossPace_shift false true
    ((List.finRange 8).filter fun z => (fileShift reason (closing s)).shift.zoneBehind[z]) (fileShift reason (closing s))
  have filed : (fileShift reason (closing s)).shift
      = { (closing s).shift with history := ((closing s).historyEntry reason :: (closing s).shift.history).take 8 } := rfl
  have next : (closedZones reason s).shift.next = s.shift.next := by
    rw [closedZones, zones, filed, tally]
  have shift := closeShift_shift reason s
  rw [next] at shift
  refine ⟨?_, ?_, ?_, ?_, ?_, ?_, ?_, ?_, ?_, fun z => ?_, (closing s).historyEntry reason, ?_, rfl, ?_, ?_, ?_, ?_, ?_, ?_⟩
  iterate 5 rw [shift]
  iterate 4
    rw [shift]
    dsimp only
    rw [closedZones, zones, filed, tally]
  · refine (congrArg (fun v : Shift => v.zoneBehind[z]) shift).trans ?_
    refine (congrArg (fun v : Shift => v.zoneBehind[z]) zones).trans ?_
    refine (each_upd_getElem (fun _ => false) _ _ z).trans ?_
    simp only [List.mem_filter, List.mem_finRange, true_and]
    cases (fileShift reason (closing s)).shift.zoneBehind[z] <;> rfl
  · rw [shift]
    dsimp only
    rw [closedZones, zones, filed, tally]
  all_goals
    simp only [State.historyEntry]
    rw [tally]

theorem ShiftClosed.congr {r : CloseReason} (h : ShiftClosed r s t) (shift : u.shift = t.shift) : ShiftClosed r s u := by
  simpa only [ShiftClosed, shift] using h

theorem ShiftClosed.congr_left {r : CloseReason} (h : ShiftClosed r s t) (shift : u.shift = s.shift) (ms : u.ms = s.ms) :
    ShiftClosed r u t := by
  simpa only [ShiftClosed, shiftE_congr shift ms, shiftW_congr shift ms, takt_congr shift, target_congr shift, shift] using h

end Sys2Proof.Machine
end

section
/-! Proofs for the clock and for the orders that place a plan, start a shift and end one (sections 8.1 to 8.3). -/

namespace Sys2Proof.Machine

variable {p : Post} {s t u : State}

/-! ### The clock (R121, R122) -/

theorem byte_bit (b : Bool) : BitVec.ofNat 8 (bit b) = if b then 1 else 0 := by cases b <;> rfl

/-- The clock as SET CLOCK leaves it. -/
def State.setTo (s : State) (second : Word) (day : Half) : Clock := ⟨true, second.toNat, day.toNat, s.ms + 1000⟩

/-- The state in which SET CLOCK looks at the shift. -/
def clocked (second : Word) (day : Half) (s : State) : State :=
  log kindClockSet (bit (!s.shift.clock.isSet)) day.toNat (second.toNat / 60) (second.toNat % 60)
    (writeRow .header (updShift (fun v => { v with clock := s.setTo second day }) s))

/-- The clock of before, as the result data of SET CLOCK carry it. -/
def Clock.data (c : Clock) : List Byte := leBytes 4 c.second ++ leBytes 2 c.day ++ [if c.isSet then 1 else 0]

theorem setClock_eq {second : Word} {day : Half} (low : second.toNat ≤ 86399) : setClock second day s =
    match s.shift.state, s.shift.pending with
    | .pending, some q =>
      if inWindow q second.toNat then
        (startShift 4 (latenessOf q second.toNat / 60) (clocked second day s), some (done 1 s.shift.clock.data))
      else (clocked second day s, some (done 0 s.shift.clock.data))
    | _, _ => (clocked second day s, some (done 0 s.shift.clock.data)) := by
  rw [setClock, if_neg (by omega)]
  simp only [byte_bit]
  rfl

theorem setClock_idle {second : Word} {day : Half} (low : second.toNat ≤ 86399) (idle : s.shift.state ≠ .pending) :
    setClock second day s = (clocked second day s, some (done 0 s.shift.clock.data)) := by
  rw [setClock_eq low]
  split
  · next state _ => exact absurd state idle
  · rfl

theorem setClock_starts {second : Word} {day : Half} {q : Plan} (low : second.toNat ≤ 86399) (state : s.shift.state = .pending)
    (pending : s.shift.pending = some q) (inside : inWindow q second.toNat = true) : setClock second day s
      = (startShift 4 (latenessOf q second.toNat / 60) (clocked second day s), some (done 1 s.shift.clock.data)) := by
  rw [setClock_eq low, state, pending]
  exact if_pos inside

theorem setClock_waits {second : Word} {day : Half} {q : Plan} (low : second.toNat ≤ 86399) (state : s.shift.state = .pending)
    (pending : s.shift.pending = some q) (outside : inWindow q second.toNat = false) : setClock second day s
      = (clocked second day s, some (done 0 s.shift.clock.data)) := by
  rw [setClock_eq low, state, pending]
  exact if_neg (by simp [outside])

/-- A start by an order stands when the event of the order is closed. -/
theorem ShiftStarted.answered {q : Plan} {o : Order} {x : Answer} (h : ShiftStarted q t) :
    ShiftStarted q (Machine.answered p o s x t) :=
  h.congr (answered_ms ..) (answered_shift ..) (answered_calls ..) (answered_attr ..)

/-- The clock has ticked, and the header shows it. -/
def ticked (s : State) : State :=
  writeRow .header (updShift (fun v => { v with clock := v.clock.tick }) (s.reach s.shift.clock.nextAdvance))

/-- The PENDING plan starts at the second that the clock shows (R121). -/
def State.startsNow (s : State) : Bool :=
  match s.shift.pending with
  | some q => s.shift.state == .pending && q.block.start.toNat == s.shift.clock.second
  | none => false

theorem clockAdvance_eq (set_ : s.shift.clock.isSet = true) :
    clockAdvance s = settle s (if (ticked s).startsNow then startShift 3 0 (ticked s) else ticked s) := by
  rw [clockAdvance, if_pos set_]
  rfl

theorem ticked_shift (s : State) : (ticked s).shift = { s.shift with clock := s.shift.clock.tick } := rfl

/-- Settles O36: the order and the advance set the clock; a start follows by the plan's window and its start second. -/
theorem clockIsSetAndAdvances : Obligations.ClockIsSetAndAdvances := by
  refine ⟨fun p x y s ready low => ⟨fun idle => ?_, fun q state pending inside => ?_, fun q state pending outside => ?_⟩,
    fun s unset => ?_, fun s set_ => ⟨clockAdvance s, rfl, ?_⟩⟩
  · exact .intro rfl ready (setClock_idle (s := handed p _ s) low idle) rfl (answered_shift ..)
  · have within_ : inWindow q x.toNat = true := decide_eq_true (by rw [latenessOf, Nat.mul_comm]; exact inside)
    refine .intro rfl ready (setClock_starts (s := handed p _ s) low state pending within_) rfl
      ⟨?_, ShiftStarted.answered (startShift_started _ _ pending)⟩
    rw [answered_shift]
    exact (startShift_kept ..).2.1
  · have without : inWindow q x.toNat = false := decide_eq_false (by rw [latenessOf, Nat.mul_comm]; exact Nat.not_lt.2 outside)
    exact .intro rfl ready (setClock_waits (s := handed p _ s) low state pending without) rfl (answered_shift ..)
  · show Host.Outcome.next (clockAdvance s) = .next s
    rw [clockAdvance, if_neg (by simp [unset])]
  · rw [clockAdvance_eq set_]
    refine ⟨?_, ?_, fun idle => ?_, fun q state pending second => ?_⟩
    · have tick : s.shift.clock.tick = ⟨true, if s.shift.clock.second < 86399 then s.shift.clock.second + 1 else 0,
          if s.shift.clock.second < 86399 then s.shift.clock.day else min (s.shift.clock.day + 1) 65535,
          s.shift.clock.nextAdvance + 1000⟩ := by rw [Clock.tick, set_]; rfl
      rw [settle_shift, ← tick]
      split
      · exact (startShift_kept ..).2.1
      · rfl
    · rw [settle_ms]
      split
      · rw [startShift, shiftOnly_ms]; rfl
      · rfl
    · have waits : (ticked s).startsNow = false := by
        unfold State.startsNow
        split
        · rw [ticked_shift]; simp [idle]
        · rfl
      rw [settle_shift, waits, if_neg (by decide)]
      rfl
    · have now : (ticked s).startsNow = true := by
        unfold State.startsNow
        rw [ticked_shift]
        simp only [pending, state, second, Clock.tick]
        simp
      rw [now, if_pos rfl]
      exact (startShift_started (s := ticked s) 3 0 pending).congr (settle_ms ..) (settle_shift ..) (settle_calls ..) (settle_attr ..)

/-! ### Plans (R123, R124) -/

theorem defineShiftPlan_places {b : PlanBlock} (valid : planError b = none) :
    defineShiftPlan b s = ((placePlan 1 ⟨b, 0⟩ s).1, some (placePlan 1 ⟨b, 0⟩ s).2) := by
  simp only [defineShiftPlan, valid]

theorem defineShiftPlan_refused {b : PlanBlock} {n : Nat} (bad : planError b = some n) :
    defineShiftPlan b s = (s, some (refuse resRange n)) := by
  simp only [defineShiftPlan, bad]

theorem loadShiftPlan_places {b : Byte} {k : Fin 16} {x : PlanBlock} (named : b.toNat = num k)
    (valid : (s.store.plans[k]).state = .valid) (good : (s.store.plans[k]).stored = .good x) :
    loadShiftPlan b s = ((placePlan 2 ⟨x, num k⟩ s).1, some (placePlan 2 ⟨x, num k⟩ s).2) := by
  simp only [loadShiftPlan, index?_of_eq named]
  rw [valid, good]

/-- An order whose owner places a plan, answered with what placing it says. -/
theorem Answers.places {i : Instr} {o : Order} {f : Perform} {r : Nat} {q : Plan} {x : Answer} {effect : State → Prop}
    (command : exec i s = .next (orderCommand p o f s)) (ready : s.ready p)
    (owner : f (handed p o s) = ((placePlan r q (handed p o s)).1, some (placePlan r q (handed p o s)).2))
    (answer : (placePlan r q (handed p o s)).2 = x) (h : effect (answered p o s x (placePlan r q (handed p o s)).1)) :
    Answers i p s x effect :=
  .intro command ready (owner.trans (by rw [answer])) (placePlan_ord ..) h

theorem planChecks_eq (b : PlanBlock) (fits : Fin 6 → Bool) (same : ∀ i, breakFits b i = fits i) : planChecks b
    = [(1, decide (b.name.toNat ≤ 64)), (2, decide (b.mode.toNat ≤ 1)), (3, decide (b.count.toNat ≤ 6)),
      (4, decide (1 ≤ b.behind.toNat ∧ b.behind.toNat ≤ 50)), (5, decide (b.start.toNat ≤ 86340 ∧ b.start.toNat % 60 = 0)),
      (6, decide (60 ≤ b.length.toNat ∧ b.length.toNat ≤ 720)), (7, decide (300 ≤ b.takt.toNat ∧ b.takt.toNat ≤ 6000)),
      (8, decide (1 ≤ b.target.toNat ∧ b.target.toNat ≤ 2000)), (9, decide (b.overtime.toNat ≤ 120)),
      (10, decide (1 ≤ b.recovery.toNat ∧ b.recovery.toNat ≤ b.behind.toNat))]
    ++ ((List.finRange 6).filter fun i => decide (i.val < b.count.toNat)).map fun i => (11 + i.val, fits i) := by
  rw [planChecks]
  refine congrArg _ (List.map_congr_left fun i _ => ?_)
  rw [same, num, Nat.add_comm i.val 1, ← Nat.add_assoc]

/-- Settles O37: both orders place the plan by the shift state; the checks of R123 are the model's. -/
theorem plansArePlacedByTheShiftState : Obligations.PlansArePlacedByTheShiftState := by
  refine ⟨fun p s q i ready how => ?_, fun p b s ready => ?_⟩
  · obtain ⟨o, f, r, command, owner⟩ : ∃ o f r, exec i s = .next (orderCommand p o f s)
        ∧ f (handed p o s) = ((placePlan r q (handed p o s)).1, some (placePlan r q (handed p o s)).2) := by
      obtain ⟨block, source⟩ := q
      obtain ⟨rfl, valid, rfl⟩ | ⟨b, k, rfl, named, valid, good, rfl⟩ := how
      · exact ⟨_, _, 1, rfl, defineShiftPlan_places valid⟩
      · exact ⟨_, _, 2, rfl, loadShiftPlan_places named valid good⟩
    refine ⟨fun closed => ?_, fun open_ => ?_⟩
    · obtain ⟨answer, shift⟩ := placePlan_closed (s := handed p o s) r q closed
      exact .places command ready owner answer ((answered_shift ..).trans shift)
    · obtain ⟨answer, shift⟩ := placePlan_open (s := handed p o s) r q open_
      refine .places command ready owner answer ?_
      rw [answered_shift]
      generalize (placePlan r q (handed p o s)).1.shift = v at shift ⊢
      rw [shift]
      exact ⟨rfl, rfl, rfl, rfl, rfl, rfl, rfl⟩
  · intro fits checks
    have same : planChecks b = checks := planChecks_eq b fits fun i => by simp only [breakFits, fits, Bool.decide_and, Bool.and_assoc]
    have error : planError b = firstFailure checks := congrArg firstFailure same
    refine ⟨fun n fails => ?_, fun pass => error.trans (firstFailure_none.2 pass)⟩
    exact .intro rfl ready (defineShiftPlan_refused (error.trans fails)) rfl (answered_shift ..)

/-! ### START SHIFT NOW and END SHIFT (R127) -/

theorem endShift_idle (idle : s.shift.state = .idle) : endShift s = (s, some (refuse resState 0)) := by
  rw [endShift, idle]

/-- The PENDING plan dropped. -/
def dropped (s : State) : State := updShift (fun v => { v with pending := none, state := .idle }) s

theorem endShift_pending (pending : s.shift.state = .pending) :
    endShift s = (shiftOnly s (showPlans s (logShift .idle 13 0 0 (dropped s))), some (done 1)) := by
  rw [endShift, pending]
  rfl

theorem endShift_open (open_ : s.shiftOpen = true) : endShift s = (closeShift .endShift s,
    some (done 0 (leBytes 2 (closeShift .endShift s).shift.actual ++ leBytes 2 (closeShift .endShift s).shift.planCount))) := by
  unfold endShift
  split
  · next state => simp [State.shiftOpen, state, ShiftState.isOpen] at open_
  · next state => simp [State.shiftOpen, state, ShiftState.isOpen] at open_
  · rfl

/-- Settles O38: by the state of the shift, with what a start and a close leave. -/
theorem shiftsStartAndEndByOrder : Obligations.ShiftsStartAndEndByOrder := by
  refine ⟨fun p s ready => ⟨fun q state pending => ?_, fun other => ?_⟩,
    fun p s ready => ⟨fun idle => ?_, fun pending => ?_, fun open_ => ?_⟩⟩
  · refine .intro rfl ready (if_pos state) rfl ⟨ShiftStarted.answered (startShift_started _ _ pending), ?_⟩
    rw [answered_shift]
    exact startShift_kept ..
  · exact .intro rfl ready (if_neg other) rfl (answered_shift ..)
  · exact .intro rfl ready (endShift_idle (s := handed p _ s) idle) rfl (answered_shift ..)
  · refine .intro rfl ready (endShift_pending (s := handed p _ s) pending) rfl ?_
    rw [answered_shift]
    exact congrArg (fun t : State => { t.shift with clock := s.shift.clock })
      (bringTally_closed (s := logShift .idle 13 0 0 (dropped (handed p .endShift s))) rfl)
  · have closed := closeShift_closed (s := handed p .endShift s) .endShift open_
    have owner := endShift_open (s := handed p .endShift s) open_
    have figures := closed
    obtain ⟨-, -, -, -, -, -, -, plan, actual, -⟩ := figures
    rw [plan, actual] at owner
    exact .intro rfl ready owner (shiftOnly_ord ..) ((closed.congr_left rfl rfl).congr (answered_shift ..))

end Sys2Proof.Machine
end

section
/-! Proofs for the transitions of an open shift: breaks, the planned end, the overtime limit, and what an exit transfer counts
(sections 6.6, 7.3, 8.3 and 8.4). -/

namespace Sys2Proof.Machine

variable {s t u : State}

/-! ### Open records (R105, R109) -/

theorem openRecord_congr (slots : t.attr.slots = s.attr.slots) (d : Fin 8) : t.openRecord d = s.openRecord d := by
  unfold State.openRecord
  rw [slots]

theorem setSlot_openRecord (d e : Fin 8) (r : StopRecord) (s : State) :
    (setSlot d (.opened r) s).openRecord e = if e = d then some r else s.openRecord e := by
  unfold State.openRecord setSlot
  dsimp only
  rw [upd_getElem]
  by_cases same : e = d
  · rw [if_pos same, if_pos same]
  · rw [if_neg same, if_neg same]

theorem bringZones_slots (zs : List (Fin 8)) (s : State) : (bringZones zs s).attr.slots = s.attr.slots :=
  each_same (fun s : State => s.attr.slots) fun _ _ _ => rfl

theorem showSlot_openRecord (d e : Fin 8) (s : State) : (showSlot d s).openRecord e
    = if e = d then (s.openRecord d).map fun r => { r with segments := growLast (s.offsetIn r) r.segments } else s.openRecord e := by
  unfold showSlot
  split
  · next r held =>
    refine (setSlot_openRecord d e _ s).trans ?_
    rw [held]
    rfl
  · next none_ =>
    show s.openRecord e = _
    by_cases same : e = d
    · rw [if_pos same, same, none_]; rfl
    · rw [if_neg same]

theorem recharge_charge (r : StopRecord) (c : Charge) (off : Nat) : (r.recharge c off).charge = c := by
  unfold StopRecord.recharge
  split
  · rfl
  · split <;> rfl

/-- A change of the charge gives an open record its charge; the other drives' records stand. -/
theorem changeCharge_openRecord (d : Fin 8) (c : Charge) (s : State) :
    (∀ r, (changeCharge d c s).openRecord d = some r → r.charge = c)
      ∧ ∀ e, e ≠ d → (changeCharge d c s).openRecord e = s.openRecord e := by
  cases held : s.openRecord d with
  | none =>
    have same : changeCharge d c s = s := by simp only [changeCharge, held]
    rw [same]
    exact ⟨fun r hr => by simp [held] at hr, fun _ _ => rfl⟩
  | some x =>
    have step : ∀ e, (changeCharge d c s).openRecord e = if e = d
        then (some { x.recharge c (s.offsetIn x) with holders := s.holdersOf d c }).map fun r =>
          { r with segments := growLast (s.offsetIn r) r.segments } else s.openRecord e := fun e => by
      simp only [changeCharge, held]
      refine (showSlot_openRecord d e _).trans ?_
      by_cases same : e = d
      · rw [if_pos same, if_pos same]
        refine congrArg _ ((openRecord_congr rfl d).trans ((setSlot_openRecord d d _ (bringZones x.zones s)).trans (if_pos rfl)))
      · rw [if_neg same, if_neg same]
        refine (openRecord_congr rfl e).trans ((setSlot_openRecord d e _ (bringZones x.zones s)).trans ?_)
        rw [if_neg same]
        exact openRecord_congr (bringZones_slots ..) e
    refine ⟨fun r hr => ?_, fun e ne => (step e).trans (if_neg ne)⟩
    rw [step, if_pos rfl] at hr
    obtain rfl := Option.some.inj hr
    exact recharge_charge ..

theorem follow_attr_slots (old s : State) : (follow old s).attr.slots = s.attr.slots := by rw [follow_attr]

theorem reevaluate_openRecord {d e : Fin 8} (ne : e ≠ d) (s : State) : (reevaluate d s).openRecord e = s.openRecord e := by
  have step : (reevaluateStep d s).openRecord e = s.openRecord e := by
    unfold reevaluateStep
    split
    · rfl
    · dsimp only
      split
      · exact (setSlot_openRecord ..).trans (if_neg ne)
      · have followed (r : StopRecord) : (follow s (setSlot d (.opened r) s)).openRecord e = s.openRecord e :=
          (openRecord_congr (follow_attr_slots ..) e).trans ((setSlot_openRecord ..).trans (if_neg ne))
        generalize (if s.shift.state = .onBreak then Charge.onBreak else .cause (s.evaluate d)) = target
        split
        · exact followed _
        · exact ((changeCharge_openRecord ..).2 e ne).trans (followed _)
  exact (openRecord_congr (congrArg Attribution.slots (attributionOnly_attr ..)) e).trans step

theorem chargeBreak_openRecord (d : Fin 8) (s : State) : (∀ r, (chargeBreak d s).openRecord d = some r → r.charge = .onBreak)
    ∧ ∀ e, e ≠ d → (chargeBreak d s).openRecord e = s.openRecord e := by
  unfold chargeBreak
  split
  · next none_ => exact ⟨fun r hr => by simp [none_] at hr, fun _ _ => rfl⟩
  · next x held =>
    split
    · next charged =>
      refine ⟨fun r hr => ?_, fun _ _ => rfl⟩
      obtain rfl := Option.some.inj (held.symm.trans hr)
      exact charged
    · exact changeCharge_openRecord ..

theorem endBreakCharge_openRecord (d : Fin 8) (s : State) : (∀ r, (endBreakCharge d s).openRecord d = some r → r.charge ≠ .onBreak)
    ∧ ∀ e, e ≠ d → (endBreakCharge d s).openRecord e = s.openRecord e := by
  unfold endBreakCharge
  split
  · next none_ => exact ⟨fun r hr => by simp [none_] at hr, fun _ _ => rfl⟩
  · next x held =>
    split
    · obtain ⟨own, other⟩ := changeCharge_openRecord d (.cause x.evaluated) s
      exact ⟨fun r hr charged => by simp [own r hr] at charged, other⟩
    · next free =>
      refine ⟨fun r hr => ?_, fun _ _ => rfl⟩
      obtain rfl := Option.some.inj (held.symm.trans hr)
      exact free

/-- What each drive's step makes of its own record stands to the end when no step touches another drive's. -/
theorem each_openRecord {g : Fin 8 → State → State} {P : StopRecord → Prop}
    (own : ∀ d s r, (g d s).openRecord d = some r → P r) (other : ∀ d e s, e ≠ d → (g d s).openRecord e = s.openRecord e)
    {l : List (Fin 8)} (d : Fin 8) (mem : d ∈ l) (s : State) : ∀ r, (each l g s).openRecord d = some r → P r := by
  induction l generalizing s with
  | nil => simp at mem
  | cons c cs ih =>
    by_cases later : d ∈ cs
    · exact ih later (g c s)
    · obtain rfl : d = c := by simpa [later] using mem
      intro r hr
      have rest : ∀ (l : List (Fin 8)) (t : State), d ∉ l → (each l g t).openRecord d = t.openRecord d := by
        intro l
        induction l with
        | nil => intros; rfl
        | cons e es ih =>
          intro t apart
          simp only [List.mem_cons, not_or] at apart
          exact (ih (g e t) apart.2).trans (other e d t apart.1)
      exact own d s r ((rest cs (g d s) later).symm.trans hr)

theorem breakBegins_charges (d : Fin 8) (s : State) : ∀ r, (breakBegins true s).openRecord d = some r → r.charge = .onBreak := by
  intro r hr
  refine each_openRecord (g := fun d t => chargeBreak d (reevaluate d t)) (P := fun r => r.charge = .onBreak)
    (fun d s r hr => (chargeBreak_openRecord d _).1 r hr)
    (fun d e s ne => ((chargeBreak_openRecord d _).2 e ne).trans (reevaluate_openRecord ne s)) d (List.mem_finRange d) s r ?_
  exact (openRecord_congr (congrArg Attribution.slots (attributionOnly_attr ..)) d).symm.trans hr

theorem breakEnds_charges (d : Fin 8) (s : State) : ∀ r, (breakEnds s).openRecord d = some r → r.charge ≠ .onBreak := by
  intro r hr
  refine each_openRecord (g := fun d t => endBreakCharge d (reevaluate d t)) (P := fun r => r.charge ≠ .onBreak)
    (fun d s r hr => (endBreakCharge_openRecord d _).1 r hr)
    (fun d e s ne => ((endBreakCharge_openRecord d _).2 e ne).trans (reevaluate_openRecord ne s)) d (List.mem_finRange d) s r ?_
  exact (openRecord_congr (congrArg Attribution.slots (attributionOnly_attr ..)) d).symm.trans hr

/-! ### Breaks (R126) -/

theorem bringAll_shift (s : State) : (bringAll s).shift = s.shift := rfl
theorem bringAll_ms (s : State) : (bringAll s).ms = s.ms := rfl
theorem breakBegins_shift (b : Bool) (s : State) : (breakBegins b s).shift = s.shift := attributionOnly_shift ..
theorem breakBegins_ms (b : Bool) (s : State) : (breakBegins b s).ms = s.ms := attributionOnly_ms ..
theorem breakEnds_shift (s : State) : (breakEnds s).shift = s.shift := attributionOnly_shift ..

/-- The state in which a break begins, the shift ON BREAK and its totals brought up to date. -/
def onBreak (s : State) : State :=
  let v := updShift (fun x => { x with state := .onBreak, breaksBegun := x.breaksBegun + 1, breakFrom := s.shiftE })
    (bringTally (bringAll s))
  logShift .onBreak 6 v.shift.breaksBegun (v.shift.working / 600) v

theorem breakBegin_eq {b : BreakSpan} (state : s.shift.state = .running) (span : s.breakSpan s.shift.breaksBegun = some b)
    (u : State) (hu : u = s.reach (s.instantOfE (600 * b.offset.toNat))) :
    breakBegin s = settle s (shiftOnly u (writeRow .tally (breakBegins (onBreak u).breakFirst (onBreak u)))) := by
  subst hu
  rw [breakBegin, state, span]
  rfl

theorem bringAll_tally (open_ : s.shiftOpen = true) : (bringTally (bringAll s)).shift = { s.shift with
    elapsed := s.shiftE, working := s.shiftW, pace := paceOf s.shift.actual s.shiftW s.takt,
    zonePace := (bringTally (bringAll s)).shift.zonePace } := by
  have tally := bringTally_open (s := bringAll s) open_
  rw [shiftE_congr (bringAll_shift s) (bringAll_ms s), shiftW_congr (bringAll_shift s) (bringAll_ms s),
    takt_congr (bringAll_shift s), bringAll_shift] at tally
  exact tally

/-- The state in which a break ends, the shift RUNNING again. -/
def offBreak (s : State) : State :=
  let v := updShift (fun x => { x with state := .running, breakTaken := x.breakTaken + (s.shiftE - x.breakFrom) })
    (bringTally (bringAll s))
  logShift .running 7 v.shift.breaksBegun (v.shift.working / 600) v

theorem breakEnd_eq {b : BreakSpan} (state : s.shift.state = .onBreak) (span : s.breakSpan (s.shift.breaksBegun - 1) = some b)
    (u : State) (hu : u = s.reach (s.instantOfE (600 * (b.offset.toNat + b.length.toNat)))) :
    breakEnd s = settle s (shiftOnly u (writeRow .tally (breakEnds (offBreak u)))) := by
  subst hu
  rw [breakEnd, state, span]
  rfl

theorem onBreak_shift (open_ : s.shiftOpen = true) : ∃ pace paces, (onBreak s).shift = { s.shift with
    elapsed := s.shiftE, working := s.shiftW, pace := pace, zonePace := paces, state := .onBreak,
    breaksBegun := s.shift.breaksBegun + 1, breakFrom := s.shiftE } := by
  refine ⟨_, _, (congrArg (fun x : Shift => { x with
    state := .onBreak, breaksBegun := x.breaksBegun + 1, breakFrom := s.shiftE }) (bringAll_tally open_)).trans rfl⟩

theorem offBreak_shift (open_ : s.shiftOpen = true) : ∃ pace paces, (offBreak s).shift = { s.shift with
    elapsed := s.shiftE, working := s.shiftW, pace := pace, zonePace := paces, state := .running,
    breakTaken := s.shift.breakTaken + (s.shiftE - s.shift.breakFrom) } := by
  refine ⟨_, _, (congrArg (fun x : Shift => { x with
    state := .running, breakTaken := x.breakTaken + (s.shiftE - x.breakFrom) }) (bringAll_tally open_)).trans rfl⟩

/-! ### The planned end and the overtime limit (R126) -/

theorem plannedEnd_closes {q : Plan} (state : s.shift.state = .running) (current : s.shift.current = some q)
    (done_ : q.block.target.toNat ≤ s.shift.actual ∨ q.block.overtime = 0) :
    plannedEnd s = settle s (closeShift .plannedEnd (s.reach (s.instantOfE (600 * q.block.length.toNat)))) := by
  rw [plannedEnd, state, current]
  exact if_pos done_

/-- The shift in OVERTIME. -/
def overtime (q : Plan) (s : State) : State :=
  let u := updShift (fun x => { x with state := .overtime }) (bringTally s)
  logShift .overtime 8 u.shift.actual q.block.target.toNat u

theorem plannedEnd_overtime {q : Plan} (state : s.shift.state = .running) (current : s.shift.current = some q)
    (below : s.shift.actual < q.block.target.toNat) (limit : q.block.overtime ≠ 0) (u : State)
    (hu : u = s.reach (s.instantOfE (600 * q.block.length.toNat))) :
    plannedEnd s = settle s (shiftOnly u (writeRow .tally (overtime q u))) := by
  subst hu
  rw [plannedEnd, state, current]
  exact if_neg (by rintro (reached | none_); exacts [absurd reached (Nat.not_le.2 below), limit none_])

theorem overtime_shift (q : Plan) (open_ : s.shiftOpen = true) : ∃ pace paces, (overtime q s).shift = { s.shift with
    elapsed := s.shiftE, working := s.shiftW, pace := pace, zonePace := paces, state := .overtime } := by
  refine ⟨_, _, (congrArg (fun x : Shift => { x with state := .overtime }) (bringTally_open open_)).trans rfl⟩

theorem shiftOnly_shift (s t : State) (clock : t.shift.clock = s.shift.clock) : (shiftOnly s t).shift = t.shift := by
  show { t.shift with clock := s.shift.clock } = t.shift
  rw [← clock]

theorem shiftW_moving (open_ : s.shiftOpen = true) (moves : s.shift.state ≠ .onBreak) :
    s.shiftW = s.shiftE - s.shift.breakTaken := by
  rw [State.shiftW, if_pos open_, if_neg moves]

theorem shiftW_onBreak (pause : s.shift.state = .onBreak) : s.shiftW = s.shift.breakFrom - s.shift.breakTaken := by
  have open_ : s.shiftOpen = true := by rw [State.shiftOpen, pause]; rfl
  rw [State.shiftW, if_pos open_, if_pos pause]

theorem settle_shiftOnly_openRecord (old s t : State) (r : Row) (d : Fin 8) :
    (settle old (shiftOnly s (writeRow r t))).openRecord d = t.openRecord d :=
  openRecord_congr (by rw [settle_attr, shiftOnly_attr, writeRow_attr]) d

/-- Settles O40: each transition brings the tally up to its instant and changes the state. -/
theorem breaksEndsAndLimitsMoveTheShift : Obligations.BreaksEndsAndLimitsMoveTheShift := by
  refine ⟨⟨fun s b state span => ⟨breakBegin s, rfl, ?_⟩, fun s b state span => ⟨breakEnd s, rfl, ?_⟩⟩,
    fun s q state current => ⟨plannedEnd s, rfl, ?_⟩, fun s q state current => ⟨overtimeLimit s, rfl, ?_⟩⟩
  · beta_reduce
    intro u
    have running : u.shift.state = .running := state
    have open_ : u.shiftOpen = true := by rw [State.shiftOpen, running]; rfl
    obtain ⟨pace, paces, shift⟩ := onBreak_shift open_
    have whole : (breakBegin s).shift = (onBreak u).shift := by
      rw [breakBegin_eq state span u rfl, settle_shift, shiftOnly_shift, writeRow_shift, breakBegins_shift]
      rw [writeRow_shift, breakBegins_shift, shift]
    have ms : (breakBegin s).ms = u.ms := by rw [breakBegin_eq state span u rfl, settle_ms, shiftOnly_ms]
    rw [whole, ms]
    have opened : (breakBegin s).shiftOpen = true := by rw [State.shiftOpen, whole, shift]; rfl
    refine ⟨rfl, by rw [shift], by rw [shift]; rfl, by rw [shift], by rw [shift], ?_, fun first d r held => ?_⟩
    · have pause : (breakBegin s).shift.state = .onBreak := by rw [whole, shift]
      rw [shiftW_onBreak pause, shiftW_moving open_ (by rw [running]; decide), whole, shift]
    · have mode : (onBreak u).breakFirst = true := by
        rw [← first]
        unfold State.breakFirst
        rw [shift]
        rfl
      refine breakBegins_charges d (onBreak u) r ?_
      rw [← held, breakBegin_eq state span u rfl, mode, settle_shiftOnly_openRecord]
  · beta_reduce
    intro u
    have pause : u.shift.state = .onBreak := state
    have open_ : u.shiftOpen = true := by rw [State.shiftOpen, pause]; rfl
    obtain ⟨pace, paces, shift⟩ := offBreak_shift open_
    have whole : (breakEnd s).shift = (offBreak u).shift := by
      rw [breakEnd_eq state span u rfl, settle_shift, shiftOnly_shift, writeRow_shift, breakEnds_shift]
      rw [writeRow_shift, breakEnds_shift, shift]
    have ms : (breakEnd s).ms = u.ms := by rw [breakEnd_eq state span u rfl, settle_ms, shiftOnly_ms]
    rw [whole, ms]
    have opened : (breakEnd s).shiftOpen = true := by rw [State.shiftOpen, whole, shift]; rfl
    refine ⟨rfl, by rw [shift], by rw [shift], by rw [shift], fun began => ?_, fun d r held => ?_⟩
    · have elapsed : (breakEnd s).shiftE = u.shiftE := by
        rw [State.shiftE, opened, whole, shift, State.shiftE, open_, State.tenths, ms]
        rfl
      have moves : (breakEnd s).shift.state ≠ .onBreak := by rw [whole, shift]; simp
      have taken : (breakEnd s).shift.breakTaken = s.shift.breakTaken + (u.shiftE - s.shift.breakFrom) := by rw [whole, shift]; rfl
      rw [shiftW_moving opened moves, elapsed, taken]
      omega
    · refine breakEnds_charges d (offBreak u) r ?_
      rw [← held, breakEnd_eq state span u rfl, settle_shiftOnly_openRecord]
  · beta_reduce
    intro u
    have running : u.shift.state = .running := state
    have open_ : u.shiftOpen = true := by rw [State.shiftOpen, running]; rfl
    refine ⟨?_, fun done_ => ?_, fun below limit => ?_⟩
    · by_cases done_ : q.block.target.toNat ≤ s.shift.actual ∨ q.block.overtime = 0
      · rw [plannedEnd_closes state current done_, settle_ms, closeShift, shiftOnly_ms]
      · obtain ⟨below, limit⟩ := not_or.1 done_
        rw [plannedEnd_overtime state current (Nat.not_le.1 below) limit u rfl, settle_ms, shiftOnly_ms]
    · rw [plannedEnd_closes state current done_]
      exact (closeShift_closed .plannedEnd open_).congr (settle_shift ..)
    · obtain ⟨pace, paces, shift⟩ := overtime_shift q open_
      have whole : (plannedEnd s).shift = (overtime q u).shift := by
        rw [plannedEnd_overtime state current below limit u rfl, settle_shift, shiftOnly_shift, writeRow_shift]
        rw [writeRow_shift, shift]
      rw [whole, shift]
      exact ⟨rfl, rfl, rfl, rfl, rfl, rfl⟩
  · beta_reduce
    intro u
    have late : u.shift.state = .overtime := state
    have open_ : u.shiftOpen = true := by rw [State.shiftOpen, late]; rfl
    have eq : overtimeLimit s = settle s (closeShift .overtimeLimit u) := by
      rw [overtimeLimit, state, current]
    rw [eq]
    exact ⟨by rw [settle_ms, closeShift, shiftOnly_ms], (closeShift_closed .overtimeLimit open_).congr (settle_shift ..)⟩

end Sys2Proof.Machine
end

section
/-! Proofs for exit transfers: what the shift unit counts and what the buffer after the zone does (sections 6.6 and 8.4). -/

namespace Sys2Proof.Machine

variable {s t u : State}

/-! ### The buffer after the zone (R99) -/

/-- The buffer after an exit transfer fills it. -/
def State.filled (s : State) (k : Fin 7) : Buffer :=
  if s.bufferCount k < s.bufferCapacity k then { s.drv.buffers[k] with count := s.bufferCount k + 1 }
  else { s.drv.buffers[k] with overruns := min (s.drv.buffers[k].overruns + 1) 65535 }

theorem fillBuffer_buffers (k : Fin 7) (s : State) : (fillBuffer k s).drv.buffers
    = if s.bufferExists k then s.drv.buffers.set k.val (s.filled k) else s.drv.buffers := by
  unfold fillBuffer
  cases exists_ : s.bufferExists k with
  | false => rfl
  | true =>
    dsimp only
    rw [if_neg (by decide), syncRow_drv, if_pos rfl, State.filled]
    split
    · exact (bufferChanged_same ..).2
    · rfl

theorem fillBuffer_getElem (k j : Fin 7) (s : State) : (fillBuffer k s).drv.buffers[j]
    = if j = k ∧ s.bufferExists j = true then s.filled j else s.drv.buffers[j] := by
  refine (congrArg (fun v : Vector Buffer 7 => v[j]) (fillBuffer_buffers k s)).trans ?_
  by_cases same : j = k
  · subst same
    cases s.bufferExists j with
    | false => simp
    | true => simp
  · have apart : ¬ (j = k ∧ s.bufferExists j = true) := fun h => same h.1
    rw [if_neg apart]
    split
    · exact Vector.getElem_set_ne _ _ (fun h => same (Fin.ext h.symm))
    · rfl

/-! ### Counting (R129) -/

/-- The actual after a transfer. -/
def State.actualAfter (s : State) (z : Fin 8) : Nat :=
  if s.lastZone == some z then min (s.shift.actual + 1) 65535 else s.shift.actual

/-- The transfer counted, before the shift unit looks at its consequences. -/
def transferred (z : Fin 8) (s : State) : State :=
  follow s (updShift (fun v => { v with
    zoneCount := upd v.zoneCount z fun c => satAdd 65535 c 1,
    actual := if s.lastZone == some z then satAdd 65535 v.actual 1 else v.actual }) s)

theorem transferred_shift (z : Fin 8) (s : State) : (transferred z s).shift = { s.shift with
    zoneCount := upd s.shift.zoneCount z fun c => min (c + 1) 65535, actual := s.actualAfter z } := by
  rw [transferred, follow_shift]
  rfl

theorem countTransfer_eq (z : Fin 8) (s : State) : countTransfer z s =
    if s.shift.state = .overtime ∧ s.target ≤ s.actualAfter z then closeShift .targetReached (transferred z s)
    else shiftOnly (transferred z s) (showShift [z] (evaluateZone z (transferred z s))) := by
  have state : (transferred z s).shift.state = s.shift.state := by rw [transferred_shift]
  have actual : (transferred z s).shift.actual = s.actualAfter z := by rw [transferred_shift]
  have target : (transferred z s).target = s.target := by
    unfold State.target
    rw [transferred_shift]
  rw [← state, ← actual, ← target]
  rfl

/-- The evaluation of a zone's pace changes its pace state and the notice lists alone. -/
theorem evaluateZone_shift (z : Fin 8) (s : State) : (evaluateZone z s).shift = { s.shift with
    zoneBehind := (evaluateZone z s).shift.zoneBehind, behindList := (evaluateZone z s).shift.behindList,
    recovered := (evaluateZone z s).shift.recovered } := by
  unfold evaluateZone
  split
  · rfl
  · dsimp only
    split
    · rfl
    · split
      · split <;> rfl
      · split <;> rfl

/-- What a transfer that closes no shift leaves of the shift unit. -/
theorem transfer_kept (z : Fin 8) (s : State) :
    let v := (shiftOnly s (showShift [z] (evaluateZone z s))).shift
    v.actual = s.shift.actual ∧ v.zoneCount = s.shift.zoneCount ∧ v.unplanned = s.shift.unplanned ∧ v.state = s.shift.state := by
  intro v
  have whole : v = { (bringTally (evaluateZone z s)).shift with clock := s.shift.clock } := rfl
  rw [whole, bringTally_shift, evaluateZone_shift]
  exact ⟨rfl, rfl, rfl, rfl⟩

/-- What a close leaves of the counts. -/
theorem closeShift_kept (r : CloseReason) (open_ : s.shiftOpen = true) :
    (closeShift r s).shift.zoneCount = s.shift.zoneCount ∧ (closeShift r s).shift.unplanned = s.shift.unplanned := by
  have zones := each_crossPace_shift false true
    ((List.finRange 8).filter fun z => (fileShift r (closing s)).shift.zoneBehind[z]) (fileShift r (closing s))
  have filed : (fileShift r (closing s)).shift
      = { (closing s).shift with history := ((closing s).historyEntry r :: (closing s).shift.history).take 8 } := rfl
  rw [closeShift_shift]
  dsimp only
  rw [closedZones, zones, filed, closing_shift open_]
  exact ⟨rfl, rfl⟩

theorem shiftTransfer_drv (z : Fin 8) (s : State) : (shiftTransfer z s).drv.buffers = s.drv.buffers := by
  have counted : (transferred z s).drv.buffers = s.drv.buffers := by rw [transferred, follow_drv_buffers]; rfl
  unfold shiftTransfer
  split
  · rw [countTransfer_eq]
    split
    · rw [closeShift, shiftOnly_drv_buffers, counted]
    · rw [shiftOnly_drv_buffers, counted]
  · split <;> rfl

theorem shiftTransfer_setup (z : Fin 8) (s : State) : (shiftTransfer z s).setup = s.setup := by
  have counted : (transferred z s).setup = s.setup := by rw [transferred, follow_setup]; rfl
  unfold shiftTransfer
  split
  · rw [countTransfer_eq]
    split
    · rw [closeShift, shiftOnly_setup, counted]
    · rw [shiftOnly_setup, counted]
  · split <;> rfl

/-- The transfer's second half: the zone's buffer, where one stands. -/
def afterBuffer (z : Fin 8) (t : State) : State := if h : z.val < 7 then motionOnly t (fillBuffer ⟨z.val, h⟩ t) else t

theorem exitTransfer_eq {z : Fin 8} (running : s.part = .running) (defined : (s.zone z).isSome) :
    exitTransfer z s = settle s (afterBuffer z (shiftTransfer z s)) := by
  have some_ : (s.zone z).isNone = false := by simpa using defined
  rw [exitTransfer, if_neg (by simp [running, some_])]
  rfl

theorem afterBuffer_shift (z : Fin 8) (t : State) : (afterBuffer z t).shift = t.shift := by
  unfold afterBuffer
  split <;> rfl

theorem afterBuffer_getElem (z : Fin 8) (t : State) (k : Fin 7) : (afterBuffer z t).drv.buffers[k]
    = if k.val = z.val ∧ t.bufferExists k = true then t.filled k else t.drv.buffers[k] := by
  unfold afterBuffer
  by_cases low : z.val < 7
  · rw [dif_pos low]
    refine (congrArg (fun v : DriveUnit => v.buffers[k]) (motionOnly_drv ..)).trans ((fillBuffer_getElem ..).trans ?_)
    simp only [Fin.ext_iff]
  · have last : ¬ (k.val = z.val ∧ t.bufferExists k = true) := fun h => low (h.1 ▸ k.isLt)
    rw [dif_neg low, if_neg last]

/-- Settles O42: the shift unit counts the transfer, then the buffer is filled. -/
theorem exitTransfersAreCounted : Obligations.ExitTransfersAreCounted := by
  intro z s
  refine ⟨exitTransfer z s, rfl, fun idle => if_pos (idle.imp_right fun none_ => by simp [none_]), fun running defined => ?_⟩
  have shift : (exitTransfer z s).shift = (shiftTransfer z s).shift := by
    rw [exitTransfer_eq running defined, settle_shift, afterBuffer_shift]
  refine ⟨fun open_ => ?_, fun closed => ?_, fun k => ?_⟩
  · have counted : shiftTransfer z s = countTransfer z s := if_pos open_
    rw [counted, countTransfer_eq] at shift
    have first : (transferred z s).shiftOpen = true := by
      rw [State.shiftOpen, transferred_shift]
      exact open_
    have before := transferred_shift z s
    have figures : (exitTransfer z s).shift.actual = (transferred z s).shift.actual
        ∧ (exitTransfer z s).shift.zoneCount = (transferred z s).shift.zoneCount
        ∧ (exitTransfer z s).shift.unplanned = (transferred z s).shift.unplanned := by
      rw [shift]
      split
      · obtain ⟨-, -, -, -, -, -, -, -, actual, -⟩ := closeShift_closed .targetReached first
        exact ⟨actual, closeShift_kept .targetReached first⟩
      · obtain ⟨actual, zones, unplanned, -⟩ := transfer_kept z (transferred z s)
        exact ⟨actual, zones, unplanned⟩
    obtain ⟨actual, zones, unplanned⟩ := figures
    rw [before] at actual zones unplanned
    refine ⟨actual, fun y => ?_, unplanned, fun late reached => ?_, fun stays => ?_⟩
    · refine (congrArg (fun v : Vector Nat 8 => v[y]) zones).trans ?_
      exact upd_getElem ..
    · rw [if_pos ⟨late, reached⟩] at shift
      have closed := closeShift_closed .targetReached first
      refine (closed.congr_left ?_ ?_).congr shift
      · rw [zones, before]
        rfl
      · show s.ms = _
        rw [transferred, follow_ms]
        rfl
    · have open_ : ¬ (s.shift.state = .overtime ∧ s.target ≤ s.actualAfter z) := fun h =>
        stays.elim (fun ne => ne h.1) fun below => absurd h.2 (Nat.not_le.2 below)
      rw [if_neg open_] at shift
      rw [shift]
      obtain ⟨-, -, -, state⟩ := transfer_kept z (transferred z s)
      rw [state, before]
  · rw [shift, shiftTransfer, closed, if_neg (by decide)]
    split
    · rfl
    · rfl
  · rw [exitTransfer_eq running defined]
    refine (congrArg (fun v : Vector Buffer 7 => v[k]) (settle_drv_buffers ..)).trans ((afterBuffer_getElem ..).trans ?_)
    have buffers := shiftTransfer_drv z s
    have zones : (shiftTransfer z s).setup.zones = s.setup.zones := by rw [shiftTransfer_setup]
    have same : (shiftTransfer z s).filled k = s.filled k := by
      unfold State.filled State.bufferCount
      rw [bufferCapacity_congr zones]
      simp only [buffers]
    rw [bufferExists_congr zones, same]
    simp only [buffers]
    rfl

end Sys2Proof.Machine
end

section
/-! Proofs for a rise of the plan count, with the zones that cross at it, and for the seconds that bring tally and totals up to
date (sections 7.4, 8.5 and 8.6). -/

namespace Sys2Proof.Machine

variable {s t u : State}

/-! ### Zones that cross at an evaluation (R132, R133) -/

/-- A zone's pace state changes when it is evaluated against a plan. -/
def State.crosses (s : State) (q : Plan) (z : Fin 8) : Bool :=
  (s.zone z).isSome && if s.shift.zoneBehind[z] then decide (s.behindValue z ≤ (q.block.behind.toNat : Int) - q.block.recovery.toNat)
    else decide ((q.block.behind.toNat : Int) ≤ s.behindValue z)

theorem evaluateZone_eq {q : Plan} (current : s.shift.current = some q) (open_ : s.shiftOpen = true) (z : Fin 8) :
    evaluateZone z s = if s.crosses q z then crossPace (!s.shift.zoneBehind[z]) false z s else s := by
  unfold evaluateZone State.crosses
  rw [current]
  dsimp only
  cases zone : s.zone z with
  | none => simp
  | some f =>
    cases behind : s.shift.zoneBehind[z] <;> simp [open_]

theorem crosses_congr (q : Plan) {z : Fin 8} (setup : t.setup = s.setup) (behind : t.shift.zoneBehind[z] = s.shift.zoneBehind[z])
    (plan : t.shift.planCount = s.shift.planCount) (zones : t.shift.zoneCount = s.shift.zoneCount) : t.crosses q z = s.crosses q z := by
  unfold State.crosses State.behindValue State.zone
  simp only [setup, behind, plan, zones]

theorem evaluateZone_setup (z : Fin 8) (s : State) : (evaluateZone z s).setup = s.setup := by
  unfold evaluateZone
  split
  · rfl
  · dsimp only
    split
    · rfl
    · split <;> split <;> rfl

/-- What the evaluation of a zone makes of the pace states and the two lists. -/
theorem evaluateZone_spec {q : Plan} (current : s.shift.current = some q) (open_ : s.shiftOpen = true) (z : Fin 8) :
    (∀ y : Fin 8, (evaluateZone z s).shift.zoneBehind[y] = if y = z then s.shift.zoneBehind[y] ^^ s.crosses q z else s.shift.zoneBehind[y])
      ∧ (evaluateZone z s).shift.behindList = (if s.crosses q z then s.shift.behindList.filter (fun y => y != z) else s.shift.behindList)
          ++ (if s.crosses q z && !s.shift.zoneBehind[z] then [z] else [])
      ∧ (evaluateZone z s).shift.recovered = (if s.crosses q z then s.shift.recovered.filter (fun e => e.1 != z) else s.shift.recovered)
          ++ (if s.crosses q z && s.shift.zoneBehind[z] then [(z, false)] else [])
      ∧ (s.crosses q z = true → (evaluateZone z s).raised .pace) := by
  rw [evaluateZone_eq current open_]
  cases crosses : s.crosses q z with
  | false => simp
  | true =>
    rw [if_pos rfl]
    refine ⟨fun y => ?_, ?_, ?_, fun _ => raiseCause_raised ..⟩
    · refine (upd_getElem ..).trans ?_
      by_cases same : y = z
      · subst same; simp
      · simp [same]
    · cases behind : s.shift.zoneBehind[z] with
      | false => exact crossPace_behindList ..
      | true => exact (List.append_nil _).symm
    · cases behind : s.shift.zoneBehind[z] with
      | false => exact (List.append_nil _).symm
      | true => exact crossPace_recovered ..

/-- One crossing before others: the zone's entries leave the list and its new one stands before those of the later zones. -/
theorem crossed_list {α : Type} (key : α → Fin 8) (entry : Fin 8 → α) (named : ∀ z, key (entry z) = z) (c p : Fin 8 → Bool)
    (l : List α) (z : Fin 8) (zs : List (Fin 8)) (fresh : z ∉ zs) :
    ((if c z then l.filter (fun e => key e != z) else l) ++ (if c z && p z then [entry z] else [])).filter
        (fun e => !(zs.contains (key e) && c (key e))) ++ (zs.filter fun y => c y && p y).map entry
      = l.filter (fun e => !((z :: zs).contains (key e) && c (key e))) ++ ((z :: zs).filter fun y => c y && p y).map entry := by
  have left : (if c z then l.filter (fun e => key e != z) else l).filter (fun e => !(zs.contains (key e) && c (key e)))
      = l.filter (fun e => !((z :: zs).contains (key e) && c (key e))) := by
    cases crosses : c z with
    | false =>
      refine List.filter_congr fun e _ => ?_
      by_cases same : key e = z
      · simp [same, crosses]
      · simp [same]
    | true =>
      rw [if_pos rfl, List.filter_filter]
      refine List.filter_congr fun e _ => ?_
      by_cases same : key e = z
      · simp [same, crosses]
      · simp [same]
  have right : (if c z && p z then [entry z] else []).filter (fun e => !(zs.contains (key e) && c (key e)))
        ++ (zs.filter fun y => c y && p y).map entry
      = ((z :: zs).filter fun y => c y && p y).map entry := by
    cases both : c z && p z with
    | false => simp [both]
    | true => simp [both, named, fresh]
  rw [List.filter_append, List.append_assoc, left, right]

/-- The evaluation of zones, each once: those that cross leave both lists and stand last, in their order, in the one they cross to. -/
theorem each_evaluateZone {q : Plan} {l : List (Fin 8)} (once : l.Nodup) (current : s.shift.current = some q) (open_ : s.shiftOpen = true) :
    (∀ y : Fin 8, (each l evaluateZone s).shift.zoneBehind[y] = (s.shift.zoneBehind[y] ^^ (l.contains y && s.crosses q y)))
      ∧ (each l evaluateZone s).shift.behindList = s.shift.behindList.filter (fun y => !(l.contains y && s.crosses q y))
          ++ l.filter (fun y => s.crosses q y && !s.shift.zoneBehind[y])
      ∧ (each l evaluateZone s).shift.recovered = s.shift.recovered.filter (fun e => !(l.contains e.1 && s.crosses q e.1))
          ++ (l.filter (fun y => s.crosses q y && s.shift.zoneBehind[y])).map (fun y => (y, false))
      ∧ ((∃ y ∈ l, s.crosses q y = true) → (each l evaluateZone s).raised .pace) := by
  induction l generalizing s with
  | nil => simp [each]
  | cons z zs ih =>
    obtain ⟨fresh, once⟩ := List.nodup_cons.1 once
    obtain ⟨behind, list, recovered, raised⟩ := evaluateZone_spec current open_ z
    have kept := evaluateZone_shift z s
    have current' : (evaluateZone z s).shift.current = some q := by rw [kept]; exact current
    have open' : (evaluateZone z s).shiftOpen = true := by rw [State.shiftOpen, kept]; exact open_
    have others (y : Fin 8) (hy : y ∈ zs) : (evaluateZone z s).shift.zoneBehind[y] = s.shift.zoneBehind[y] := by
      have apart : y ≠ z := fun same => fresh (same ▸ hy)
      rw [behind, if_neg apart]
    have crosses (y : Fin 8) (hy : y ∈ zs) : (evaluateZone z s).crosses q y = s.crosses q y :=
      crosses_congr q (evaluateZone_setup ..) (others y hy) (by rw [kept]) (by rw [kept])
    obtain ⟨behind', list', recovered', raised'⟩ := ih once current' open'
    have step : each (z :: zs) evaluateZone s = each zs evaluateZone (evaluateZone z s) := rfl
    have stand (y : Fin 8) : (zs.contains y && (evaluateZone z s).crosses q y) = (zs.contains y && s.crosses q y) := by
      by_cases hy : y ∈ zs
      · rw [crosses y hy]
      · simp [hy]
    rw [step]
    refine ⟨fun y => ?_, ?_, ?_, ?_⟩
    · rw [behind', stand, behind]
      by_cases same : y = z
      · have absent : y ∉ zs := fun hy => fresh (same ▸ hy)
        simp [same] at absent ⊢
        simp [absent]
      · simp [same]
    · have fell : zs.filter (fun y => (evaluateZone z s).crosses q y && !(evaluateZone z s).shift.zoneBehind[y])
          = zs.filter fun y => s.crosses q y && !s.shift.zoneBehind[y] :=
        List.filter_congr fun y hy => by rw [crosses y hy, others y hy]
      have joined := crossed_list id id (fun _ => rfl) (s.crosses q) (fun y => !s.shift.zoneBehind[y]) s.shift.behindList z zs fresh
      simp only [List.map_id, id] at joined
      rw [list', list, fell]
      simp only [stand]
      exact joined
    · have rose : zs.filter (fun y => (evaluateZone z s).crosses q y && (evaluateZone z s).shift.zoneBehind[y])
          = zs.filter fun y => s.crosses q y && s.shift.zoneBehind[y] :=
        List.filter_congr fun y hy => by rw [crosses y hy, others y hy]
      rw [recovered', recovered, rose]
      simp only [stand]
      exact crossed_list Prod.fst (fun y => (y, false)) (fun _ => rfl) (s.crosses q) (fun y => s.shift.zoneBehind[y])
        s.shift.recovered z zs fresh
    · rintro ⟨y, mem, crossing⟩
      obtain rfl | later := List.mem_cons.1 mem
      · have stays : Stays (everything false) (evaluateZone y s) (each zs evaluateZone (evaluateZone y s)) :=
          (Stays.refl _).thenEach fun x _ _ k => k.thenEvaluateZone {} x
        exact stays.causes _ (raised crossing)
      · exact raised' ⟨y, later, (crosses y later).trans crossing⟩

end Sys2Proof.Machine
end

section
/-! Proofs for PLAN RISE, TALLY SECOND and TOTALS SECOND (sections 7.4, 8.5, 8.6 and 8.7). -/

namespace Sys2Proof.Machine

variable {s t u : State}

/-! ### A rise of the plan count (R130) -/

/-- The plan count risen, and the defined zones evaluated on it. -/
def risen (s : State) : State := bringTally (updShift (fun v => { v with planCount := v.planCount + 1 }) s)

def evaluated (s : State) : State := each (risen s).definedZones evaluateZone (risen s)

theorem risePlan_eq (s : State) : risePlan s = shiftOnly s (showShift (List.finRange 8) (evaluated s)) := rfl

theorem each_evaluateZone_shift (l : List (Fin 8)) (s : State) : (each l evaluateZone s).shift = { s.shift with
    zoneBehind := (each l evaluateZone s).shift.zoneBehind, behindList := (each l evaluateZone s).shift.behindList,
    recovered := (each l evaluateZone s).shift.recovered } := by
  induction l generalizing s with
  | nil => rfl
  | cons z zs ih => exact (ih (evaluateZone z s)).trans (by rw [evaluateZone_shift]; rfl)

/-- A rise changes the plan count, the tally's figures as of now, and the pace states with their lists. -/
theorem risePlan_shift (s : State) : ∃ elapsed working pace paces, (risePlan s).shift = { s.shift with
    planCount := s.shift.planCount + 1, elapsed := elapsed, working := working, pace := pace, zonePace := paces,
    zoneBehind := (evaluated s).shift.zoneBehind, behindList := (evaluated s).shift.behindList,
    recovered := (evaluated s).shift.recovered } := by
  have whole : (risePlan s).shift = { (bringTally (evaluated s)).shift with clock := s.shift.clock } := rfl
  obtain ⟨elapsed, working, pace, paces, tally⟩ : ∃ e w p ps, (bringTally (evaluated s)).shift = { (evaluated s).shift with
      elapsed := e, working := w, pace := p, zonePace := ps } := ⟨_, _, _, _, bringTally_shift _⟩
  obtain ⟨behind, list, recovered, zones⟩ : ∃ b l r, (evaluated s).shift = { (risen s).shift with
      zoneBehind := b, behindList := l, recovered := r } := ⟨_, _, _, each_evaluateZone_shift _ _⟩
  obtain ⟨e, w, p, ps, before⟩ : ∃ e w p ps, (risen s).shift = { s.shift with
      planCount := s.shift.planCount + 1, elapsed := e, working := w, pace := p, zonePace := ps } := ⟨_, _, _, _, bringTally_shift _⟩
  exact ⟨elapsed, working, pace, paces, by rw [whole, tally, zones, before]⟩

theorem risen_setup (s : State) : (risen s).setup = s.setup := by unfold risen bringTally; split <;> rfl

/-- The zones that cross when the plan count rises. -/
theorem evaluated_spec {q : Plan} (current : s.shift.current = some q) (open_ : s.shiftOpen = true) :
    (∀ y : Fin 8, (evaluated s).shift.zoneBehind[y] = (s.shift.zoneBehind[y] ^^ (risen s).crosses q y))
      ∧ (evaluated s).shift.behindList = s.shift.behindList.filter (fun y => !(risen s).crosses q y)
          ++ (List.finRange 8).filter (fun y => (risen s).crosses q y && !s.shift.zoneBehind[y])
      ∧ (evaluated s).shift.recovered = s.shift.recovered.filter (fun e => !(risen s).crosses q e.1)
          ++ ((List.finRange 8).filter (fun y => (risen s).crosses q y && s.shift.zoneBehind[y])).map (fun y => (y, false))
      ∧ ((∃ y, (risen s).crosses q y = true) → (evaluated s).raised .pace) := by
  have shift : (risen s).shift = { s.shift with
      planCount := s.shift.planCount + 1, elapsed := (risen s).shift.elapsed, working := (risen s).shift.working,
      pace := (risen s).shift.pace, zonePace := (risen s).shift.zonePace } := bringTally_shift _
  have current' : (risen s).shift.current = some q := by rw [shift]; exact current
  have open' : (risen s).shiftOpen = true := by rw [State.shiftOpen, shift]; exact open_
  have behind : (risen s).shift.zoneBehind = s.shift.zoneBehind := by rw [shift]
  have lists : (risen s).shift.behindList = s.shift.behindList ∧ (risen s).shift.recovered = s.shift.recovered := by
    rw [shift]
    exact ⟨rfl, rfl⟩
  have listed (y : Fin 8) : ((risen s).definedZones.contains y && (risen s).crosses q y) = (risen s).crosses q y := by
    cases defined : ((risen s).zone y).isSome with
    | true =>
      have mem : y ∈ (risen s).definedZones := List.mem_filter.2 ⟨List.mem_finRange y, defined⟩
      simp [mem]
    | false => simp [State.crosses, defined]
  have all (g : Fin 8 → Bool) : (risen s).definedZones.filter (fun y => (risen s).crosses q y && g y)
      = (List.finRange 8).filter fun y => (risen s).crosses q y && g y := by
    rw [State.definedZones, List.filter_filter]
    refine List.filter_congr fun y _ => ?_
    cases defined : ((risen s).zone y).isSome with
    | true => simp
    | false => simp [State.crosses, defined]
  have once : (risen s).definedZones.Nodup := (List.nodup_finRange 8).filter _
  obtain ⟨paces, list, recovered, raised⟩ := each_evaluateZone once current' open'
  simp only [listed, behind, lists.1, lists.2] at paces list recovered
  rw [all fun y => !s.shift.zoneBehind[y]] at list
  rw [all fun y => s.shift.zoneBehind[y]] at recovered
  refine ⟨paces, list, recovered, fun ⟨y, crossing⟩ => raised ⟨y, ?_, crossing⟩⟩
  have both := (listed y).trans crossing
  simp only [Bool.and_eq_true] at both
  exact List.contains_iff_mem.1 both.1

theorem planRise_eq {q : Plan} (moves : s.shift.state = .running ∨ s.shift.state = .overtime) (current : s.shift.current = some q)
    (below : s.shift.planCount < q.block.target.toNat) : planRise s = settle s (risePlan
      (s.reach (s.instantOfE ((s.shift.planCount + 1) * q.block.takt.toNat + s.shift.breakTaken)))) := by
  have open_ : s.shiftOpen = true := by rcases moves with h | h <;> simp [State.shiftOpen, h, ShiftState.isOpen]
  have target : s.target = q.block.target.toNat := by rw [State.target, current]; rfl
  have takt : s.takt = q.block.takt.toNat := by rw [State.takt, current]; rfl
  have other : s.shift.state ≠ .onBreak := by rcases moves with h | h <;> simp [h]
  unfold planRise
  rw [target, takt, open_, if_pos (by simpa using below), if_neg other]

theorem settle_risePlan_raised (old : State) (c : CauseName) (s : State) (h : (evaluated s).raised c) :
    (settle old (risePlan s)).raised c := by
  have irq : (bringTally (evaluated s)).irq = (evaluated s).irq := by unfold bringTally; split <;> rfl
  have same : (settle old (risePlan s)).irq = (evaluated s).irq := by
    rw [settle_irq, risePlan_eq, shiftOnly_irq, showShift, writeRows_irq, irq]
  unfold State.raised at h ⊢
  rw [same]
  exact h

theorem risen_crosses (q : Plan) (z : Fin 8) (s : State) : (risen s).crosses q z = ((s.zone z).isSome &&
    if s.shift.zoneBehind[z] then
      decide ((s.shift.planCount : Int) + 1 - (s.shift.zoneCount[z] : Int) ≤ (q.block.behind.toNat : Int) - q.block.recovery.toNat)
    else decide ((q.block.behind.toNat : Int) ≤ (s.shift.planCount : Int) + 1 - (s.shift.zoneCount[z] : Int))) := by
  obtain ⟨e, w, p, ps, shift⟩ : ∃ e w p ps, (risen s).shift = { s.shift with
      planCount := s.shift.planCount + 1, elapsed := e, working := w, pace := p, zonePace := ps } := ⟨_, _, _, _, bringTally_shift _⟩
  unfold State.crosses State.behindValue State.zone
  rw [risen_setup]
  simp only [shift, Nat.cast_add, Nat.cast_one]

/-! ### The seconds (R112, R131, R135) -/

theorem tallySecond_open (open_ : s.shiftOpen = true) : (tallySecond s).shift = (bringTally s).shift := by
  rw [tallySecond, if_pos open_, settle_shift, showShift_shift]

/-- A zone's totals after its time is added (R112). -/
def State.accrued (s : State) (z : Fin 8) : ZoneTotals :=
  { s.attr.totals[z] with
    totals := match s.chargedIn z with
      | some c => upd s.attr.totals[z].totals c fun v => v + tenthsBetween s.attr.totals[z].last s.partTime
      | none => s.attr.totals[z].totals
    last := s.partTime }

theorem accrue_totals (y z : Fin 8) (s : State) :
    (accrue y s).attr.totals[z] = if z = y then s.accrued z else s.attr.totals[z] := by
  refine (upd_getElem ..).trans ?_
  by_cases same : z = y
  · subst same; rw [if_pos rfl, if_pos rfl]; rfl
  · rw [if_neg same, if_neg same]

theorem accrued_congr {z : Fin 8} (totals : t.attr.totals[z] = s.attr.totals[z]) (setup : t.setup = s.setup) (shift : t.shift = s.shift)
    (ms : t.ms = s.ms) (records : ∀ d, s.zoneDrive z = some d → t.openRecord d = s.openRecord d) : t.accrued z = s.accrued z := by
  have drive : t.zoneDrive z = s.zoneDrive z := by unfold State.zoneDrive State.zone; rw [setup]
  have charged : t.chargedIn z = s.chargedIn z := by
    have record : (t.zoneDrive z).bind t.openRecord = (s.zoneDrive z).bind s.openRecord := by
      rw [drive]
      cases on : s.zoneDrive z with
      | none => rfl
      | some d => exact records d on
    unfold State.chargedIn State.shiftOpen State.works
    rw [record, shift, setup]
  unfold State.accrued
  rw [charged, totals, partTime_congr ms]

theorem bringZones_totals {zs : List (Fin 8)} (once : zs.Nodup) (z : Fin 8) (s : State) :
    (bringZones zs s).attr.totals[z] = if z ∈ zs then s.accrued z else s.attr.totals[z] := by
  show (each zs bringZone s).attr.totals[z] = _
  induction zs generalizing s with
  | nil => simp [each]
  | cons y ys ih =>
    obtain ⟨fresh, once⟩ := List.nodup_cons.1 once
    refine (ih once (bringZone y s)).trans ?_
    have first : (bringZone y s).attr.totals[z] = if z = y then s.accrued z else s.attr.totals[z] := accrue_totals ..
    by_cases same : z = y
    · subst same
      rw [if_neg fresh, first, if_pos rfl, if_pos (List.mem_cons_self ..)]
    · rw [first, if_neg same]
      rw [if_neg same] at first
      rw [accrued_congr (t := bringZone y s) first rfl rfl rfl fun _ _ => rfl]
      simp [same]

theorem showSlot_totals (d : Fin 8) (s : State) : (showSlot d s).attr.totals = s.attr.totals := by
  unfold showSlot
  split <;> rfl

theorem showSlot_same (d : Fin 8) (s : State) : (showSlot d s).setup = s.setup ∧ (showSlot d s).shift = s.shift ∧ (showSlot d s).ms = s.ms := by
  unfold showSlot
  split <;> exact ⟨rfl, rfl, rfl⟩

/-- One drive of TOTALS SECOND: its zones brought up to date, and its open slot. -/
def bringDrive (d : Fin 8) (t : State) : State := showSlot d (bringZones (t.zonesOn d) t)

theorem bringDrive_same (d : Fin 8) (s : State) :
    (bringDrive d s).setup = s.setup ∧ (bringDrive d s).shift = s.shift ∧ (bringDrive d s).ms = s.ms := showSlot_same ..

theorem mem_zonesOn {d z : Fin 8} : z ∈ s.zonesOn d ↔ s.zoneDrive z = some d := by simp [State.zonesOn]

theorem bringDrive_totals (d z : Fin 8) (s : State) :
    (bringDrive d s).attr.totals[z] = if s.zoneDrive z = some d then s.accrued z else s.attr.totals[z] := by
  refine (congrArg (fun v : Vector ZoneTotals 8 => v[z]) (showSlot_totals ..)).trans ?_
  have once : (s.zonesOn d).Nodup := (List.nodup_finRange 8).filter _
  rw [bringZones_totals once]
  simp only [mem_zonesOn]

theorem bringDrive_openRecord {d e : Fin 8} (ne : e ≠ d) (s : State) : (bringDrive d s).openRecord e = s.openRecord e := by
  rw [bringDrive, showSlot_openRecord, if_neg ne]
  exact openRecord_congr (bringZones_slots ..) e

theorem each_bringDrive_totals {l : List (Fin 8)} (once : l.Nodup) (z : Fin 8) (s : State) :
    (each l bringDrive s).attr.totals[z] = if ∃ d ∈ l, s.zoneDrive z = some d then s.accrued z else s.attr.totals[z] := by
  induction l generalizing s with
  | nil => simp [each]
  | cons d ds ih =>
    obtain ⟨fresh, once⟩ := List.nodup_cons.1 once
    obtain ⟨setup, shift, ms⟩ := bringDrive_same d s
    have drive : (bringDrive d s).zoneDrive z = s.zoneDrive z := by unfold State.zoneDrive State.zone; rw [setup]
    have first := bringDrive_totals d z s
    refine (ih once (bringDrive d s)).trans ?_
    rw [drive]
    by_cases own : s.zoneDrive z = some d
    · have rest : ¬ ∃ e ∈ ds, s.zoneDrive z = some e := by
        rintro ⟨e, mem, on⟩
        obtain rfl := Option.some.inj (own.symm.trans on)
        exact fresh mem
      rw [if_neg rest, first, if_pos own, if_pos ⟨d, List.mem_cons_self .., own⟩]
    · rw [if_neg own] at first
      have same : (bringDrive d s).accrued z = s.accrued z := accrued_congr first setup shift ms fun e on => by
        have ne : e ≠ d := fun eq => own (by rw [on, eq])
        exact bringDrive_openRecord ne s
      have both : (∃ e ∈ d :: ds, s.zoneDrive z = some e) ↔ ∃ e ∈ ds, s.zoneDrive z = some e := by simp [own]
      simp only [both, same, first]

/-- A drive of the zone has an open record in shift. -/
def State.accrues (s : State) (z : Fin 8) : Prop := ∃ d r, s.zoneDrive z = some d ∧ s.openRecord d = some r ∧ r.outside = false

theorem totalsSecond_totals (z : Fin 8) (s : State) : (s.accrues z → (totalsSecond s).attr.totals[z] = s.accrued z)
    ∧ (¬ s.accrues z → (totalsSecond s).attr.totals[z] = s.attr.totals[z]) := by
  have once : (s.openDrives.filter fun d => ((s.openRecord d).map fun r => !r.outside).getD false).Nodup :=
    ((List.nodup_finRange 8).filter _).filter _
  have step := (congrArg (fun v : Attribution => v.totals[z]) (settle_attr s _)).trans (each_bringDrive_totals once z s)
  have same : (∃ d ∈ s.openDrives.filter fun d => ((s.openRecord d).map fun r => !r.outside).getD false, s.zoneDrive z = some d)
      ↔ s.accrues z := by
    constructor
    · rintro ⟨d, mem, on⟩
      obtain ⟨-, inside⟩ := List.mem_filter.1 mem
      cases held : s.openRecord d with
      | none => simp [held] at inside
      | some r => exact ⟨d, r, on, held, by simpa [held] using inside⟩
    · rintro ⟨d, r, on, held, inside⟩
      exact ⟨d, List.mem_filter.2 ⟨by simp [State.openDrives, held], by simp [held, inside]⟩, on⟩
  exact ⟨fun h => step.trans (if_pos (same.2 h)), fun h => step.trans (if_neg fun k => h (same.1 k))⟩

theorem accrued_kind (z : Fin 8) (k : Fin 9) (s : State) : (s.accrued z).totals[k] = (s.attr.totals[z]).totals[k]
    + if s.chargedIn z = some k then (s.partTime - (s.attr.totals[z]).last).toNat else 0 := by
  unfold State.accrued
  dsimp only
  cases charged : s.chargedIn z with
  | none => simp
  | some c =>
    refine (upd_getElem ..).trans ?_
    by_cases same : k = c
    · subst same; simp [tenthsBetween]
    · have apart : ¬ c = k := fun h => same h.symm
      simp [same, apart]

/-- Settles O41: the rise evaluates the zones on the count that has risen; the seconds bring tally and totals up to date. -/
theorem planRisesAndSecondsBringUpToDate : Obligations.PlanRisesAndSecondsBringUpToDate := by
  refine ⟨fun s q moves current below => ⟨planRise s, rfl, ?_⟩, fun s => ⟨tallySecond s, rfl, fun closed => ?_, fun open_ => ?_⟩,
    fun s => ⟨totalsSecond s, rfl, fun z => ⟨fun outside => ?_, fun d r on held inside => ?_⟩⟩⟩
  · rw [planRise_eq moves current below]
    generalize hu : s.reach (s.instantOfE ((s.shift.planCount + 1) * q.block.takt.toNat + s.shift.breakTaken)) = u
    have shift : u.shift = s.shift := by rw [← hu]; rfl
    have setup : u.setup = s.setup := by rw [← hu]; rfl
    have open_ : u.shiftOpen = true := by
      rw [State.shiftOpen, shift]
      rcases moves with h | h <;> rw [h] <;> rfl
    obtain ⟨paces, list, recovered, raised⟩ := evaluated_spec (shift ▸ current) open_
    obtain ⟨elapsed, working, pace, zonePaces, whole⟩ := risePlan_shift u
    have final : (settle s (risePlan u)).shift = (risePlan u).shift := settle_shift ..
    have crosses (z : Fin 8) := risen_crosses q z u
    have zone (z : Fin 8) : u.zone z = s.zone z := by unfold State.zone; rw [setup]
    simp only [shift, zone] at paces list recovered crosses
    have behind (z : Fin 8) : (settle s (risePlan u)).shift.zoneBehind[z] = (s.shift.zoneBehind[z] ^^ (risen u).crosses q z) := by
      refine (congrArg (fun v : Shift => v.zoneBehind[z]) (final.trans whole)).trans (paces z)
    have lists : (settle s (risePlan u)).shift.behindList = (evaluated u).shift.behindList
        ∧ (settle s (risePlan u)).shift.recovered = (evaluated u).shift.recovered := by
      rw [final, whole]
      exact ⟨rfl, rfl⟩
    refine ⟨?_, ?_, ?_, ?_, ?_, ?_, fun z => ⟨?_, fun old new => ?_, fun old new => ?_⟩⟩
    · rw [settle_ms, risePlan_eq, shiftOnly_ms, ← hu]
      rfl
    · rw [final, whole, shift]
    · rw [final, whole, shift]
    · rw [final, whole, shift]
    · rw [final, whole, shift]
    · intro fell rose stands
      have fell_eq : fell = (List.finRange 8).filter fun z => (risen u).crosses q z && !s.shift.zoneBehind[z] :=
        List.filter_congr fun z _ => by
          rw [behind]
          cases s.shift.zoneBehind[z] <;> cases (risen u).crosses q z <;> rfl
      have rose_eq : rose = (List.finRange 8).filter fun z => (risen u).crosses q z && s.shift.zoneBehind[z] :=
        List.filter_congr fun z _ => by
          rw [behind]
          cases s.shift.zoneBehind[z] <;> cases (risen u).crosses q z <;> rfl
      have stands_eq : stands = fun z => !(risen u).crosses q z := funext fun z => by
        show (!fell.contains z && !rose.contains z) = _
        rw [fell_eq, rose_eq]
        cases old : s.shift.zoneBehind[z] <;> cases crossing : (risen u).crosses q z <;> simp [old, crossing, -Fin.getElem_fin]
      rw [lists.1, lists.2, list, recovered, ← fell_eq, ← rose_eq]
      rw [stands_eq]
      exact ⟨rfl, rfl⟩
    · rw [behind, crosses]
      cases s.zone z with
      | none => simp
      | some f =>
        cases s.shift.zoneBehind[z] with
        | false => simp
        | true =>
          rw [Bool.eq_iff_iff]
          simp
          omega
    · have crossing : (risen u).crosses q z = true := by
        rw [behind, old] at new
        simpa using new
      refine ⟨?_, ?_, settle_risePlan_raised s .pace u (raised ⟨z, crossing⟩)⟩
      · rw [lists.1, list]
        exact List.mem_append_right _ (List.mem_filter.2 ⟨List.mem_finRange z, by rw [crossing, old]; rfl⟩)
      · rw [lists.2, recovered]
        simp [crossing, old, -Fin.getElem_fin]
    · have crossing : (risen u).crosses q z = true := by
        rw [behind, old] at new
        simpa using new
      refine ⟨?_, ?_, settle_risePlan_raised s .pace u (raised ⟨z, crossing⟩)⟩
      · rw [lists.2, recovered]
        exact List.mem_append_right _ (List.mem_map.2 ⟨z, List.mem_filter.2 ⟨List.mem_finRange z, by rw [crossing, old]; rfl⟩, rfl⟩)
      · rw [lists.1, list]
        simp [crossing, old, -Fin.getElem_fin]
  · rw [tallySecond, closed]
    rfl
  · rw [tallySecond_open open_, bringTally_open open_]
    exact ⟨rfl, rfl, rfl, rfl, rfl, rfl, rfl⟩
  · refine (totalsSecond_totals z s).2 ?_
    rintro ⟨d, r, on, held, inside⟩
    simp [outside d r on held] at inside
  · rw [(totalsSecond_totals z s).1 ⟨d, r, on, held, inside⟩]
    exact ⟨rfl, rfl, fun k => accrued_kind z k s⟩

end Sys2Proof.Machine
end

section
/-! Proofs for the ends of long orders (section 1.4) and for the boards' definitions and orders (sections 9.1, 9.4 and 9.5). -/

namespace Sys2Proof.Machine

variable {p : Post} {o : Order} {s t u : State}

/-! ### The end of a long order (R11) -/

theorem slot_apart {k : Fin 24} {w : Work} (idle : s.slotInWork p.slot = false)
    (work : (s.ord.inWork.find? fun w => w.slot == k) = some w) : p.slot ≠ k := fun same => by
  have slot : w.slot = k := by simpa using List.find?_some work
  have none_ := List.any_eq_false.1 idle w (List.mem_of_find?_eq_some work)
  simp [slot, same] at none_

theorem sameSlot_handed {k : Fin 24} (ne : p.slot ≠ k) : SameSlot k s (handed p o s) :=
  Touches.sameSlot (.congr_right (t := postSlot p o s) rfl (touches_postSlot p o s)) fun r hr => by
    obtain rfl : r = slotRange p.slot := by simpa using hr
    exact slotRange_apart ne

theorem sameSlot_answered {k : Fin 24} (ne : p.slot ≠ k) (x : Answer) : SameSlot k t (answered p o s x t) :=
  sameSlot_closing ne _ _ _ _ _

theorem SameSlot.slotState {k : Fin 24} (h : SameSlot k s t) : t.slotState k = s.slotState k := h 0 (by decide)

/-- The order unit and the slot after the end of a long order whose slot still reads TAKEN. -/
theorem endLong_taken {k : Fin 24} {w : Work} (a : Answer) (work : (s.ord.inWork.find? fun w => w.slot == k) = some w)
    (taken : s.slotState k = 2) : (endLong k a s).shows k w.tag a
      ∧ (endLong k a s).ord = { s.ord with inWork := s.ord.inWork.filter fun w => w.slot != k } := by
  have dropped : (dropWork k s).slotState k = 2 := taken
  simp only [endLong, work, dropped, if_true]
  exact ⟨answerSlot_shows .., rfl⟩

theorem not_inWork_filter (k : Fin 24) (l : List Work) : ((l.filter fun w => w.slot != k).any fun w => w.slot == k) = false := by
  simp

theorem endLong_brd (k : Fin 24) (a : Answer) (s : State) : (endLong k a s).brd = s.brd := by
  unfold endLong
  split
  · rfl
  · dsimp only
    split
    · rfl
    · unfold violation
      split <;> rfl

theorem endLong_setup (k : Fin 24) (a : Answer) (s : State) : (endLong k a s).setup = s.setup := by
  unfold endLong
  split
  · rfl
  · dsimp only
    split
    · rfl
    · unfold violation
      split <;> rfl

theorem endLong_store (k : Fin 24) (a : Answer) (s : State) : (endLong k a s).store = s.store := by
  unfold endLong
  split
  · rfl
  · dsimp only
    split
    · rfl
    · unfold violation
      split <;> rfl

theorem endLong_takePos (k : Fin 24) (a : Answer) (s : State) : (endLong k a s).ord.takePos = s.ord.takePos := by
  unfold endLong
  split
  · rfl
  · dsimp only
    split
    · rfl
    · unfold violation
      split <;> rfl

/-! ### Boards at the closing of an event (R145) -/

theorem plain_getElem {v w : Vector Board 16} (h : v.map Board.plain = w.map Board.plain) (b : Fin 16) : (v[b]).plain = (w[b]).plain := by
  simpa using congrArg (fun x : Vector Board 16 => x[b]) h

/-- Boards that agree on all but their rendering. -/
theorem withRendering_of_plain {v w : Board} (h : v.plain = w.plain) : v = w.withRendering v := by
  cases v
  cases w
  simp only [Board.plain, Board.mk.injEq] at h
  simp only [Board.withRendering, h]

theorem answered_board (x : Answer) (t : State) (b : Fin 16) :
    (answered p o s x t).brd.boards[b] = (t.brd.boards[b]).withRendering ((answered p o s x t).brd.boards[b]) :=
  withRendering_of_plain (plain_getElem (answered_plain ..) b)

theorem accepted_board (t : State) (b : Fin 16) :
    (accepted p o s t).brd.boards[b] = (t.brd.boards[b]).withRendering ((accepted p o s t).brd.boards[b]) :=
  withRendering_of_plain (plain_getElem (accepted_plain ..) b)

theorem settle_rendered (old s : State) (b : Fin 16) :
    (settle old s).brd.boards[b] = renderBoard false old (refreshDisplays s) s.brd.boards[b] := by
  show (s.brd.boards.map (renderBoard false old (refreshDisplays s)))[b] = _
  exact Vector.getElem_map ..

theorem renderBoard_disabled {force : Bool} {old s : State} {v : Board} (defined : v.definition.isSome) (disabled : v.state = .disabled)
    (f : Fin 32) : ((renderBoard force old s v).stale)[f] = false := by
  obtain ⟨d, def_⟩ := Option.isSome_iff_exists.1 defined
  simp only [renderBoard, def_]
  simp [disabled]

theorem renderBoard_keeps_stale {force : Bool} {old s : State} {v : Board} (enabled : v.state ≠ .disabled) {f : Fin 32}
    (stale : v.stale[f] = true) : ((renderBoard force old s v).stale)[f] = true := by
  unfold renderBoard
  split
  · exact stale
  · rw [Fin.getElem_fin] at stale
    simp [enabled, stale]

theorem answered_rendered (x : Answer) (t : State) (b : Fin 16) : (answered p o s x t).brd.boards[b]
    = renderBoard false (postSlot p o s) (refreshDisplays (answerSlot p.slot (notifySet p.notify) p.tag x t)) t.brd.boards[b] :=
  settle_rendered ..

theorem answered_disabled_stale (x : Answer) {b : Fin 16} (defined : (t.brd.boards[b]).definition.isSome)
    (disabled : (t.brd.boards[b]).state = .disabled) (f : Fin 32) : ((answered p o s x t).brd.boards[b]).stale[f] = false := by
  rw [answered_rendered]
  exact renderBoard_disabled defined disabled f

theorem answered_keeps_stale (x : Answer) {b : Fin 16} (enabled : (t.brd.boards[b]).state ≠ .disabled) {f : Fin 32}
    (stale : (t.brd.boards[b]).stale[f] = true) : ((answered p o s x t).brd.boards[b]).stale[f] = true := by
  rw [answered_rendered]
  exact renderBoard_keeps_stale enabled stale

/-! ### DEFINE BOARD (R140) -/

theorem boardChecks_pass {q : BoardParams} {b : Fin 16} {l : Fin 2} (board : q.board.toNat = num b) (link : q.link.toNat = num l)
    (low : 1 ≤ q.address.toNat) (high : q.address.toNat ≤ 8) (mode : q.mode.toNat ≤ 1) (low' : 1 ≤ q.fields.toNat)
    (high' : q.fields.toNat ≤ 32) : firstFailure (boardChecks q) = none := firstFailure_none.2 fun c hc => by
  have b' : 1 ≤ q.board.toNat ∧ q.board.toNat ≤ 16 := by rw [board, num]; omega
  have l' : 1 ≤ q.link.toNat ∧ q.link.toNat ≤ 2 := by rw [link, num]; omega
  simp only [boardChecks, List.mem_cons, List.not_mem_nil, or_false] at hc
  rcases hc with rfl | rfl | rfl | rfl | rfl
  · exact within_iff.2 b'
  · exact within_iff.2 l'
  · exact within_iff.2 ⟨low, high⟩
  · exact within_iff.2 ⟨Nat.zero_le _, mode⟩
  · exact within_iff.2 ⟨low', high'⟩

theorem sameAddress_none {b : Fin 16} {l : Fin 2} {a : Nat} (free : ∀ (c : Fin 16) (d : BoardDef), c ≠ b →
    (s.brd.boards[c]).definition = some d → d.link = l → d.address ≠ a) : s.sameAddress b (num l) a = none := by
  refine List.find?_eq_none.2 fun c _ => ?_
  cases def_ : (s.brd.boards[c]).definition with
  | none => simp
  | some d =>
    intro both
    simp only [Bool.and_eq_true, bne_iff_ne, beq_iff_eq] at both
    obtain ⟨ne, link, address⟩ := both
    have link' : d.link = l := Fin.ext (by simpa [num] using link)
    exact free c d ne def_ link' address

theorem defineBoard_defines {q : BoardParams} {b : Fin 16} {l : Fin 2} (checks : firstFailure (boardChecks q) = none)
    (board : q.board.toNat = num b) (link : q.link.toNat = num l) (disabled : (s.brd.boards[b]).state = .disabled)
    (free : s.sameAddress b (num l) q.address.toNat = none) : defineBoard q s
      = (updBoard b (fun v => v.define s ⟨l, q.address.toNat, q.mode == 1, q.fields.toNat⟩) s, some (done 0 [])) := by
  have link' : index? 2 q.link.toNat = some l := index?_of_eq link
  rw [← link] at free
  simp only [defineBoard, checks, index?_of_eq board, link', free, disabled]
  rw [if_neg (by simp)]

/-! ### DEFINE BOARD FIELDS (R141) -/

/-- One carried entry put in its field. -/
def putEntry (e : Nat × Nat × FieldBytes) (v : Vector (Option FieldEntry) 32) : Vector (Option FieldEntry) 32 :=
  match index? 32 e.2.1 with
  | some f => upd v f fun _ => entryOf e.2.2
  | none => v

theorem putEntry_getElem (e : Nat × Nat × FieldBytes) (v : Vector (Option FieldEntry) 32) (f : Fin 32) :
    (putEntry e v)[f] = if num f = e.2.1 then entryOf e.2.2 else v[f] := by
  unfold putEntry
  by_cases named : num f = e.2.1
  · rw [if_pos named, index?_of_eq named.symm]
    exact (upd_getElem ..).trans (if_pos rfl)
  · rw [if_neg named]
    split
    · next g index =>
      have ne : f ≠ g := by
        rintro rfl
        refine named ?_
        have range : 1 ≤ e.2.1 ∧ e.2.1 ≤ 32 := by
          by_contra out
          simp [index?, out] at index
        obtain ⟨g, found, number⟩ := index?_of_le (n := 32) (v := e.2.1) (by omega) range.2
        obtain rfl := Option.some.inj (index.symm.trans found)
        exact number
      exact (upd_getElem ..).trans (if_neg ne)
    · rfl

/-- Entries carried one after another take the fields numbered from `first + k` on, and no other. -/
theorem each_putEntry (first : Nat) (l : List FieldBytes) (k : Nat) (v : Vector (Option FieldEntry) 32) (f : Fin 32) :
    (∀ i (h : i < l.length), num f = first + (k + i) →
        (each ((l.zipIdx k).map fun e => (e.2, first + e.2, e.1)) putEntry v)[f] = entryOf l[i])
      ∧ (num f < first + k ∨ first + (k + l.length) ≤ num f →
        (each ((l.zipIdx k).map fun e => (e.2, first + e.2, e.1)) putEntry v)[f] = v[f]) := by
  induction l generalizing k v with
  | nil => exact ⟨fun i h => absurd h (Nat.not_lt_zero i), fun _ => rfl⟩
  | cons x xs ih =>
    obtain ⟨inside, outside⟩ := ih (k + 1) (putEntry (k, first + k, x) v)
    have first_ := putEntry_getElem (k, first + k, x) v f
    refine ⟨fun i h number => ?_, fun out => ?_⟩
    · cases i with
      | zero => exact (outside (.inl (by omega))).trans (first_.trans (if_pos number))
      | succ i => exact inside i (by simpa using h) (by omega)
    · have apart : ¬ num f = first + k := by simp only [List.length_cons] at out; omega
      exact (outside (by simp only [List.length_cons] at out; omega)).trans (first_.trans (if_neg apart))

theorem defineBoardFields_defines {q : FieldsParams} {b : Fin 16} {d : BoardDef} (board : q.board.toNat = num b)
    (def_ : (s.brd.boards[b]).definition = some d) (checks : firstFailure (fieldsChecks d.fields q) = none) : defineBoardFields q s
      = (updBoard b (fun v => renderBoard true s s { v with entries := replaceEntries q v.entries }) s, some (done 0 [])) := by
  simp only [defineBoardFields, index?_of_eq board, def_, checks]

theorem renderBoard_fields (force : Bool) (old s : State) (v : Board) :
    renderBoard force old s v = v.withRendering (renderBoard force old s v) := withRendering_of_plain (renderBoard_plain ..)

theorem carried_count {fields : Nat} {q : FieldsParams} (checks : firstFailure (fieldsChecks fields q) = none) :
    q.count.toNat ≤ 5 :=
  (within_iff.1 (firstFailure_none.1 checks (3, within 1 5 q.count.toNat) (by simp [fieldsChecks]))).2

/-- Settles O43: a definition keeps the entries of its fields and renders them afresh; the entries carried replace theirs. -/
theorem boardsAndFieldsAreDefined : Obligations.BoardsAndFieldsAreDefined := by
  refine ⟨fun p q s b l ready open_ board link low high mode low' high' disabled free => ?_,
    fun p q s b d ready open_ board def_ checks => ?_⟩
  · have owner := defineBoard_defines (s := handed p (.defineBoard q) s)
      (boardChecks_pass board link low high mode low' high') board link disabled (sameAddress_none free)
    refine .guarded rfl ready open_ owner (updBoard_ord ..) ⟨?_, fun f => ?_, fun f => ?_, fun c ne => ?_⟩
    · rw [answered_board, updBoard_board, if_pos rfl]
      rfl
    · rw [answered_board, updBoard_board, if_pos rfl]
      exact Vector.getElem_ofFn ..
    · refine answered_disabled_stale _ ?_ ?_ f
      · rw [updBoard_board, if_pos rfl]; rfl
      · rw [updBoard_board, if_pos rfl]; exact disabled
    · rw [answered_board, updBoard_board, if_neg ne]
      rfl
  · have owner := defineBoardFields_defines (s := handed p (.defineBoardFields q) s) board def_ checks
    have count := carried_count checks
    have length : (q.entries.toList.take q.count.toNat).length = q.count.toNat := by simp; omega
    refine .guarded rfl ready open_ owner (updBoard_ord ..) ⟨fun f i below number => ?_, fun f out => ?_, fun c ne => ?_⟩
    · rw [answered_board, updBoard_board, if_pos rfl, renderBoard_fields]
      obtain ⟨inside, -⟩ := each_putEntry q.first.toNat (q.entries.toList.take q.count.toNat) 0 (s.brd.boards[b]).entries f
      refine (inside i.val (by omega) (by omega)).trans ?_
      simp
    · rw [answered_board, updBoard_board, if_pos rfl, renderBoard_fields]
      obtain ⟨-, outside⟩ := each_putEntry q.first.toNat (q.entries.toList.take q.count.toNat) 0 (s.brd.boards[b]).entries f
      exact outside (by omega)
    · rw [answered_board, updBoard_board, if_neg ne]
      rfl

end Sys2Proof.Machine
end

section
/-! Proofs for the orders on a board: ENABLE, DISABLE, REFRESH and RESET BOARD (sections 9.2, 9.4 and 9.5). -/

namespace Sys2Proof.Machine

variable {p : Post} {o : Order} {s t u : State}

/-! ### What leaves the order slots alone -/

/-- Every row, the journal's ring, and the blocks named. -/
def Scope.logged (bs : List Block) : Scope := { everything false with blocks := bs, ranges := [journalRange] }

@[simp] theorem logged_blocks (bs : List Block) : (Scope.logged bs).blocks = bs := rfl
@[simp] theorem mem_logged_rows (bs : List Block) (r : Row) : r ∈ (Scope.logged bs).rows := mem_everything_rows false r
@[simp] theorem logged_ranges (bs : List Block) : (Scope.logged bs).ranges = [journalRange] := rfl

theorem Stays.sameSlot {bs : List Block} (h : Stays (Scope.logged bs) s t) (k : Fin 24) : SameSlot k s t :=
  h.memory.sameSlot fun r hr => by
    obtain rfl : r = journalRange := by simpa using hr
    simp only [journalRange, slotBase]
    omega

/-! ### Changes of a board's link state (R150) -/

theorem changeLinkState_board (b c : Fin 16) (x : LinkState) (n : Nat) (s : State) : (changeLinkState b x n s).brd.boards[c]
    = if c = b then { s.brd.boards[c] with state := x } else s.brd.boards[c] := by
  simp only [changeLinkState, raiseIf_brd, log_brd]
  exact updBoard_board ..

theorem changeLinkState_links (b : Fin 16) (x : LinkState) (n : Nat) (s : State) : (changeLinkState b x n s).brd.links = s.brd.links := by
  simp only [changeLinkState, raiseIf_brd, log_brd]
  rfl

theorem changeLinkState_ord (b : Fin 16) (x : LinkState) (n : Nat) (s : State) : (changeLinkState b x n s).ord = s.ord := by
  simp only [changeLinkState, raiseIf_ord, log_ord]
  rfl

theorem abandonFrame_frame (b : Fin 16) (s : State) (l : Fin 2) (x : Outstanding) (h : ((abandonFrame b s).brd.links[l]).frame = some x) :
    x.board ≠ b := by
  have link : (abandonFrame b s).brd.links[l] = (match (s.brd.links[l]).frame with
      | some o => if o.board = b then { s.brd.links[l] with frame := none } else s.brd.links[l]
      | none => s.brd.links[l]) := Vector.getElem_map ..
  rw [link] at h
  cases frame : (s.brd.links[l]).frame with
  | none => rw [frame] at h; exact absurd (frame.symm.trans h) (by simp)
  | some o =>
    rw [frame] at h
    dsimp only at h
    split at h
    · simp at h
    · next other =>
      obtain rfl := Option.some.inj (frame.symm.trans h)
      exact other

theorem namedBoard_eq {n : Nat} {x : Byte} {b : Fin 16} (named : x.toNat = num b) (defined : (s.brd.boards[b]).definition.isSome) :
    s.namedBoard n x = .inl b := by
  simp only [State.namedBoard, index?_of_eq named]
  exact if_pos defined

/-! ### ENABLE BOARD and DISABLE BOARD (R151) -/

theorem enableBoard_searches {x : Byte} {b : Fin 16} (named : x.toNat = num b) (defined : (s.brd.boards[b]).definition.isSome)
    (disabled : (s.brd.boards[b]).state = .disabled) :
    enableBoard x s = (boardOnly s (enterSearching b 1 s), some (done 0)) := by
  simp only [enableBoard, namedBoard_eq named defined]
  exact if_pos disabled

theorem enableBoard_enabled {x : Byte} {b : Fin 16} (named : x.toNat = num b) (defined : (s.brd.boards[b]).definition.isSome)
    (enabled : (s.brd.boards[b]).state ≠ .disabled) : enableBoard x s = (s, some (done 1)) := by
  simp only [enableBoard, namedBoard_eq named defined]
  exact if_neg enabled

theorem enterSearching_board (b : Fin 16) (n : Nat) (s : State) : (enterSearching b n s).brd.boards[b]
    = { s.brd.boards[b] with probeAt := none, probeDue := true, state := .searching } := by
  rw [enterSearching, changeLinkState_board, if_pos rfl, updBoard_board, if_pos rfl]

theorem boardOnly_board (s t : State) (b : Fin 16) : (boardOnly s t).brd.boards[b] = t.brd.boards[b] := rfl

theorem boardOnly_ord' {s t : State} (h : t.ord = s.ord) : (boardOnly s t).ord = s.ord := by
  show orderEnds s.ord t.ord = s.ord
  rw [h]
  rfl

/-- A board disabled, before the end of a reset in course. -/
def disabledBoard (b : Fin 16) (s : State) : State :=
  changeLinkState b .disabled 2 (updBoard b (fun v =>
    { v with refreshAt := none, stale := noneStale, probeAt := none, probeDue := false, resetUnsent := false, resetSlot := none })
    (abandonFrame b s))

theorem disableBoard_disables {x : Byte} {b : Fin 16} (named : x.toNat = num b) (defined : (s.brd.boards[b]).definition.isSome)
    (enabled : (s.brd.boards[b]).state ≠ .disabled) : disableBoard x s = (boardOnly s (disableStep b s), some (done 0)) := by
  simp only [disableBoard, namedBoard_eq named defined]
  exact if_neg enabled

theorem endReset_brd (k : Option (Fin 24)) (a : Answer) (s : State) : (endReset k a s).brd = s.brd := by
  cases k with
  | none => rfl
  | some k => exact endLong_brd ..

theorem disableStep_eq (b : Fin 16) (s : State) : disableStep b s = if (s.brd.boards[b]).state = .resetting
    then endReset (s.brd.boards[b]).resetSlot (refuse resAborted 0) (disabledBoard b s) else disabledBoard b s := rfl

theorem disableStep_brd (b : Fin 16) (s : State) : (disableStep b s).brd = (disabledBoard b s).brd := by
  rw [disableStep_eq]
  split
  · exact endReset_brd ..
  · rfl

theorem disabledBoard_board (b : Fin 16) (s : State) : (disabledBoard b s).brd.boards[b] = { s.brd.boards[b] with
    refreshAt := none, stale := noneStale, probeAt := none, probeDue := false, resetUnsent := false, resetSlot := none,
    state := .disabled } := by
  rw [disabledBoard, changeLinkState_board, if_pos rfl, updBoard_board, if_pos rfl]
  simp only [abandonFrame]

theorem disabledBoard_frame (b : Fin 16) (s : State) (l : Fin 2) (x : Outstanding)
    (h : ((disabledBoard b s).brd.links[l]).frame = some x) : x.board ≠ b := by
  have links : (disabledBoard b s).brd.links = (abandonFrame b s).brd.links := by
    rw [disabledBoard, changeLinkState_links]
    rfl
  simp only [links] at h
  exact abandonFrame_frame b s l x h

theorem disabledBoard_ord (b : Fin 16) (s : State) : (disabledBoard b s).ord = s.ord := by
  rw [disabledBoard, changeLinkState_ord]
  rfl

theorem sameSlot_disabledBoard (b : Fin 16) (k : Fin 24) (s : State) : SameSlot k s (disabledBoard b s) := by
  have stays : Stays (Scope.logged [.boards, .rendering, .journal, .interrupts]) s (disabledBoard b s) :=
    ((((Stays.refl s).thenAbandonFrame (by simp) b).thenUpdBoard (by simp) b _ (.inl (by simp)))).thenChangeLinkState {} b _ _
  exact stays.sameSlot k

/-- A reset in course ends in its own slot when its board is disabled. -/
theorem disableStep_shows {b : Fin 16} {k : Fin 24} {w : Work} (resetting : (s.brd.boards[b]).state = .resetting)
    (slot : (s.brd.boards[b]).resetSlot = some k) (work : (s.ord.inWork.find? fun w => w.slot == k) = some w)
    (taken : s.slotState k = 2) :
    (disableStep b s).shows k w.tag (refuse 9 0 []) ∧ (disableStep b s).slotInWork k = false := by
  have before := disabledBoard_ord b s
  have work' : ((disabledBoard b s).ord.inWork.find? fun w => w.slot == k) = some w := by rw [before]; exact work
  obtain ⟨shows, ord⟩ := endLong_taken (refuse resAborted 0) work' ((sameSlot_disabledBoard b k s).slotState.trans taken)
  rw [disableStep_eq, if_pos resetting, slot]
  refine ⟨shows, ?_⟩
  show ((endLong k (refuse resAborted 0) (disabledBoard b s)).ord.inWork.any fun w => w.slot == k) = false
  rw [ord]
  exact not_inWork_filter k _

theorem boardOnly_shows {k : Fin 24} {g : Half} {x : Answer} (h : t.shows k g x) : (boardOnly s t).shows k g x := h

/-- An order that its owner answers, ending a long order on the way. -/
theorem Answers.ends {i : Instr} {f : Perform} {x : Answer} {effect : State → Prop}
    (command : exec i s = .next (orderCommand p o f s)) (ready : s.ready p) (owner : f (handed p o s) = (t, some x))
    (pos : t.ord.takePos = p.slot) (h : effect (answered p o s x t)) : Answers i p s x effect :=
  answers_of_owner command ready owner pos h

/-- The end of a long order in another slot than the order's own stands when the event is closed. -/
theorem ended_answered {k : Fin 24} {g : Half} {x y : Answer} (ne : p.slot ≠ k) (h : t.shows k g y ∧ t.slotInWork k = false) :
    (answered p o s x t).shows k g y ∧ (answered p o s x t).slotInWork k = false := by
  refine ⟨h.1.congr (sameSlot_answered ne x), ?_⟩
  rw [State.slotInWork, answered_ord]
  exact h.2

/-! ### REFRESH BOARD (R146) and RESET BOARD (R152) -/

theorem refreshBoard_refreshes {x : Byte} {b : Fin 16} (named : x.toNat = num b) (defined : (s.brd.boards[b]).definition.isSome)
    (enabled : (s.brd.boards[b]).state ≠ .disabled) : refreshBoard x s = (boardOnly s (refreshOne b s), some (done)) := by
  have some_ : x ≠ 0 := fun zero => by simp [zero, num] at named
  simp only [refreshBoard, if_neg some_, namedBoard_eq named defined]
  exact if_neg enabled

theorem resetBoard_accepts {k : Fin 24} {x : Byte} {b : Fin 16} (named : x.toNat = num b) (defined : (s.brd.boards[b]).definition.isSome)
    (enabled : (s.brd.boards[b]).state ≠ .disabled) (idle : (s.brd.boards[b]).state ≠ .resetting) :
    resetBoard k x s = (boardOnly s (beginReset b k s), none) := by
  simp only [resetBoard, namedBoard_eq named defined]

theorem resetBoard_busy {k m : Fin 24} {x : Byte} {b : Fin 16} (named : x.toNat = num b) (defined : (s.brd.boards[b]).definition.isSome)
    (resetting : (s.brd.boards[b]).state = .resetting) (slot : (s.brd.boards[b]).resetSlot = some m) :
    resetBoard k x s = (s, some (refuse resBusy (num m))) := by
  simp only [resetBoard, namedBoard_eq named defined]
  rw [resetting, slot]
  rfl

theorem beginReset_board (b : Fin 16) (k : Fin 24) (s : State) : (beginReset b k s).brd.boards[b] = { s.brd.boards[b] with
    resetSlot := some k, resetUnsent := true, refreshAt := none, probeAt := none, probeDue := false,
    resets := min ((s.brd.boards[b]).resets + 1) 65535, state := .resetting } := by
  rw [beginReset, changeLinkState_board, if_pos rfl, updBoard_board, if_pos rfl]
  rfl

theorem beginReset_frame (b : Fin 16) (k : Fin 24) (s : State) (l : Fin 2) (x : Outstanding)
    (h : ((beginReset b k s).brd.links[l]).frame = some x) : x.board ≠ b := by
  have links : (beginReset b k s).brd.links = (abandonFrame b s).brd.links := by
    rw [beginReset, changeLinkState_links]
    rfl
  simp only [links] at h
  exact abandonFrame_frame b s l x h

theorem beginReset_ord (b : Fin 16) (k : Fin 24) (s : State) : (beginReset b k s).ord = s.ord := by
  rw [beginReset, changeLinkState_ord]
  rfl

theorem refreshOne_board (b : Fin 16) (s : State) : (refreshOne b s).brd.boards[b] = (s.brd.boards[b]).allStale := by
  rw [refreshOne, updBoard_board, if_pos rfl]

theorem allStale_state (v : Board) : v.allStale.state = v.state := by
  simp only [Board.allStale]

theorem allStale_getElem (v : Board) (f : Fin 32) : (v.allStale).stale[f] = v.inUse f := Vector.getElem_ofFn ..

/-- Settles O44, order by order; a DISABLE ends the reset in course in its own slot. -/
theorem boardOrdersTakeEffect : Obligations.BoardOrdersTakeEffect := by
  refine ⟨fun p x s b ready named defined => ⟨fun disabled => ?_, fun enabled => ?_, fun enabled => ?_, fun enabled => ?_⟩,
    fun p x s b ready named defined => ⟨fun enabled idle => ?_, fun k resetting slot => ?_⟩⟩
  · refine .intro rfl ready (enableBoard_searches (s := handed p _ s) named defined disabled) ?_ ?_
    · exact boardOnly_ord' (changeLinkState_ord ..)
    · rw [answered_board, boardOnly_board, enterSearching_board]
      exact ⟨rfl, rfl⟩
  · exact .intro rfl ready (enableBoard_enabled (s := handed p _ s) named defined enabled) rfl (answered_plain ..)
  · refine .ends rfl ready (disableBoard_disables (s := handed p _ s) named defined enabled) rfl ?_
    have brd := disableStep_brd b (handed p (.disableBoard x) s)
    have ended := fun k w => disableStep_shows (s := handed p (.disableBoard x) s) (b := b) (k := k) (w := w)
    generalize disableStep b (handed p (.disableBoard x) s) = t at brd ended ⊢
    have board : (boardOnly (handed p (.disableBoard x) s) t).brd.boards[b] = (disabledBoard b (handed p (.disableBoard x) s)).brd.boards[b] :=
      congrArg (fun v : Boards => v.boards[b]) brd
    rw [disabledBoard_board] at board
    refine ⟨?_, fun f => ?_, ?_, ?_, ?_, fun l y held => ?_, fun k w resetting slot work taken => ?_⟩
    · rw [answered_board, board]; rfl
    · exact answered_disabled_stale _ (by rw [board]; exact defined) (by rw [board]) f
    · rw [answered_board, board]; rfl
    · rw [answered_board, board]; rfl
    · rw [answered_board, board]; rfl
    · have links : (answered p (.disableBoard x) s (done 0) (boardOnly (handed p (.disableBoard x) s) t)).brd.links
          = (disabledBoard b (handed p (.disableBoard x) s)).brd.links := (answered_links ..).trans (congrArg Boards.links brd)
      simp only [links] at held
      exact disabledBoard_frame b _ l y held
    · have ne : p.slot ≠ k := slot_apart (let ⟨_, _, _, idle⟩ := ready; idle) work
      obtain ⟨shows, free⟩ := ended k w resetting slot work ((sameSlot_handed ne).slotState.trans taken)
      exact ended_answered ne ⟨boardOnly_shows shows, free⟩
  · refine .intro rfl ready (refreshBoard_refreshes (s := handed p _ s) named defined enabled) rfl fun f use => ?_
    refine answered_keeps_stale _ ?_ ?_
    · rw [boardOnly_board, refreshOne_board, allStale_state, handed_brd]
      exact enabled
    · rw [boardOnly_board, refreshOne_board, allStale_getElem, handed_brd]
      exact use
  · refine .intro rfl ready (resetBoard_accepts (s := handed p _ s) named defined enabled idle) (boardOnly_ord' (beginReset_ord ..)) ?_
    rw [accepted_board, boardOnly_board, beginReset_board]
    refine ⟨rfl, rfl, rfl, rfl, rfl, fun l y held => beginReset_frame b p.slot (handed p (.resetBoard x) s) l y ?_⟩
    have links := accepted_links p (.resetBoard x) s (boardOnly (handed p (.resetBoard x) s) (beginReset b p.slot (handed p (.resetBoard x) s)))
    simp only [links] at held
    exact held
  · exact .intro rfl ready (resetBoard_busy (s := handed p _ s) named defined resetting slot) rfl (answered_plain ..)

end Sys2Proof.Machine
end

section
/-! Proofs for the display links: the choice of a frame, the attempts, the replies and the ends of waits (sections 9.3 to 9.5). -/

namespace Sys2Proof.Machine

variable {s t u : State}

/-! ### Links and boards -/

theorem updLink_link (l m : Fin 2) (g : Link → Link) (s : State) :
    (updLink l g s).brd.links[m] = if m = l then g s.brd.links[m] else s.brd.links[m] := upd_getElem ..

theorem updLink_boards (l : Fin 2) (g : Link → Link) (s : State) : (updLink l g s).brd.boards = s.brd.boards := rfl

theorem updBoard_links (b : Fin 16) (g : Board → Board) (s : State) : (updBoard b g s).brd.links = s.brd.links := rfl

theorem countSent_board (b : Fin 16) (s : State) : (countSent b s).brd.boards[b]
    = { s.brd.boards[b] with sent := min ((s.brd.boards[b]).sent + 1) 65535 } := by
  rw [countSent, updBoard_board, if_pos rfl]
  rfl

/-- An attempt of a field frame or a probe stands on its link, and the frame is counted. -/
theorem sendFrame_spec (l : Fin 2) (b : Fin 16) (k : FrameKind) (a : Nat) (s : State) :
    (sendFrame l b k a s).brd.links[l] = { s.brd.links[l] with frame := some ⟨b, k, a, s.ms + 10 * s.brd.scale⟩ }
      ∧ (sendFrame l b k a s).brd.boards[b] = { s.brd.boards[b] with sent := min ((s.brd.boards[b]).sent + 1) 65535 } :=
  ⟨(updLink_link ..).trans (if_pos rfl), countSent_board b s⟩

/-- A reset frame stands on its link, and the frame is counted. -/
theorem sendReset_spec (l : Fin 2) (b : Fin 16) (s : State) :
    (sendReset l b s).brd.links[l] = { s.brd.links[l] with frame := some ⟨b, .reset, 1, s.ms + 2000⟩ }
      ∧ (sendReset l b s).brd.boards[b]
        = { s.brd.boards[b] with sent := min ((s.brd.boards[b]).sent + 1) 65535, resetUnsent := false } := by
  refine ⟨(updLink_link ..).trans (if_pos rfl), ?_⟩
  show (updBoard b _ (countSent b s)).brd.boards[b] = _
  rw [updBoard_board, if_pos rfl, countSent_board]

theorem enterOnline_board (b : Fin 16) (n : Nat) (s : State) : (enterOnline b n s).brd.boards[b] = { (s.brd.boards[b]).allStale with
    refreshAt := some (s.ms + 1000 * s.brd.refresh), probeAt := none, probeDue := false, resetUnsent := false, resetSlot := none,
    state := .online } := by
  rw [enterOnline, changeLinkState_board, if_pos rfl, updBoard_board, if_pos rfl]

theorem enterOnline_links (b : Fin 16) (n : Nat) (s : State) : (enterOnline b n s).brd.links = s.brd.links := by
  rw [enterOnline, changeLinkState_links, updBoard_links]

theorem enterFault_board (b : Fin 16) (n : Nat) (s : State) : (enterFault b n s).brd.boards[b] = { s.brd.boards[b] with
    refreshAt := none, probeAt := some (s.ms + 5000), probeDue := false, resetUnsent := false, resetSlot := none, state := .fault } := by
  rw [enterFault, changeLinkState_board, if_pos rfl, updBoard_board, if_pos rfl]
  rfl

theorem enterFault_links (b : Fin 16) (n : Nat) (s : State) : (enterFault b n s).brd.links = s.brd.links := by
  rw [enterFault, changeLinkState_links, updBoard_links]

theorem enterFault_raised (b : Fin 16) (n : Nat) (s : State) : (enterFault b n s).raised .fault := raiseCause_raised ..

theorem confirm_stale (v : Board) (l : List (Fin 32 × Content)) (f : Fin 32) :
    (v.confirm l).stale[f] = (v.stale[f] && !(l.any fun c => c.1 == f && c.2 == v.content[f])) := by
  have steps (w : Vector Bool 32) : (each l (fun c w => if v.content[c.1] = c.2 then upd w c.1 fun _ => false else w) w)[f]
      = (w[f] && !(l.any fun c => c.1 == f && c.2 == v.content[f])) := by
    induction l generalizing w with
    | nil => simp [each]
    | cons c cs ih =>
      refine (ih _).trans ?_
      have first : (if v.content[c.1] = c.2 then upd w c.1 fun _ => false else w)[f]
          = (w[f] && !(c.1 == f && c.2 == v.content[f])) := by
        by_cases named : f = c.1
        · subst named
          by_cases equal : v.content[c.1] = c.2
          · rw [if_pos equal, upd_getElem, if_pos rfl]; simp [equal]
          · rw [if_neg equal]
            have other : (c.2 == v.content[c.1]) = false := beq_eq_false_iff_ne.2 fun same => equal same.symm
            rw [other]; simp
        · have apart : (c.1 == f) = false := beq_eq_false_iff_ne.2 fun same => named same.symm
          rw [apart]
          split
          · rw [upd_getElem, if_neg named]; simp
          · simp
      rw [first, List.any_cons]
      cases w[f] <;> cases (c.1 == f && c.2 == v.content[f]) <;> simp
  exact steps v.stale

/-- A frame that ends leaves its link free. -/
theorem endFrame_link (l : Fin 2) (b : Fin 16) (k : FrameKind) (ok : Bool) (s : State) :
    (endFrame l b k ok s).brd.links[l] = { s.brd.links[l] with frame := none } := by
  have free : (updLink l (fun v => { v with frame := none }) s).brd.links[l] = { s.brd.links[l] with frame := none } :=
    (updLink_link ..).trans (if_pos rfl)
  unfold endFrame
  dsimp only
  split
  · exact free
  · exact (congrArg (fun v : Vector Link 2 => v[l]) (enterFault_links ..)).trans free
  · exact (congrArg (fun v : Vector Link 2 => v[l]) (enterOnline_links ..)).trans free
  · exact free
  · exact free

/-- A frame of the rotation that succeeds keeps the counts of its board. -/
theorem endFrame_sent (l : Fin 2) (b : Fin 16) (k : FrameKind) (s : State) :
    ((endFrame l b k true s).brd.boards[b]).sent = (s.brd.boards[b]).sent := by
  cases k with
  | fields carried =>
    show ((updBoard b _ (updLink l _ s)).brd.boards[b]).sent = _
    rw [updBoard_board, if_pos rfl]
    rfl
  | probe =>
    show ((enterOnline b 3 (updLink l _ s)).brd.boards[b]).sent = _
    rw [enterOnline_board]
    simp only [Board.allStale]
    rfl
  | reset => rfl

/-! ### The choice of a link (R147) -/


theorem linkChoose_reset {l : Fin 2} {b : Fin 16} (running : s.part = .running) (free : (s.brd.links[l]).frame = none)
    (reset : s.unsentReset l = some b) : (linkChoose l s).brd = (sendReset l b s).brd := by
  rw [linkChoose, if_neg (by simp [running, free, -Fin.getElem_fin]), boardOnly_brd, linkChooseStep, reset]
  rfl

/-- The chosen board is the rotation position, and its probe is due no more. -/
def chosen (l : Fin 2) (b : Fin 16) (s : State) : State :=
  updBoard b (fun v => { v with probeDue := false }) (updLink l (fun v => { v with rotation := b }) s)

theorem linkChoose_next {l : Fin 2} {b : Fin 16} (running : s.part = .running) (free : (s.brd.links[l]).frame = none)
    (none_ : s.unsentReset l = none) (next : s.nextOnLink l = some b) :
    (linkChoose l s).brd = (startFrame l b (s.brd.boards[b]).nextFrame (chosen l b s)).brd := by
  rw [linkChoose, if_neg (by simp [running, free, -Fin.getElem_fin]), boardOnly_brd, linkChooseStep, none_, next]
  rfl

theorem chosen_spec (l : Fin 2) (b : Fin 16) (s : State) : (chosen l b s).brd.links[l] = { s.brd.links[l] with rotation := b }
    ∧ (chosen l b s).brd.boards[b] = { s.brd.boards[b] with probeDue := false } := by
  refine ⟨(updLink_link ..).trans (if_pos rfl), ?_⟩
  rw [chosen, updBoard_board, if_pos rfl, updLink_boards]

/-- Settles O45: the reset frame first, else the next board of the rotation. -/
theorem linksChooseAndSend : Obligations.LinksChooseAndSend := by
  intro l s
  refine ⟨linkChoose l s, rfl, fun idle => if_pos idle, fun running free => ⟨fun b reset => ?_, fun b none_ next => ?_, fun none_ next => ?_⟩⟩
  · obtain ⟨link, board⟩ := sendReset_spec l b s
    rw [linkChoose_reset running free reset, link, board]
    exact ⟨rfl, rfl, rfl⟩
  · obtain ⟨link, board⟩ := chosen_spec l b s
    rw [linkChoose_next running free none_ next]
    have count : ((startFrame l b (s.brd.boards[b]).nextFrame (chosen l b s)).brd.boards[b]).sent
        = min ((s.brd.boards[b]).sent + 1) 65535 := by
      unfold startFrame
      split
      · rw [endFrame_sent, countSent_board, board]
      · rw [(sendFrame_spec ..).2, board]
    refine ⟨?_, count, fun d def_ answers => ?_⟩
    · unfold startFrame
      split
      · rw [endFrame_link]
        show ((chosen l b s).brd.links[l]).rotation = b
        rw [link]
      · rw [(sendFrame_spec ..).1, link]
    · have loud : ((((chosen l b s).brd.boards[b]).definition.map BoardDef.silent).getD false) = false := by
        rw [board]
        simp [def_, answers, -Fin.getElem_fin]
      rw [startFrame, loud, if_neg (by decide), (sendFrame_spec ..).1]
      rfl
  · rw [linkChoose, if_neg (by simp [running, free, -Fin.getElem_fin]), boardOnly_brd, linkChooseStep, none_, next]

end Sys2Proof.Machine
end

section
/-! Proofs for the ends of frames on a display link: replies and ended waits (sections 9.3 to 9.5). -/

namespace Sys2Proof.Machine

variable {s t u : State}

/-! ### What a row rewritten, and an owner's blocks taken over, leave to a slot -/

theorem State.shows.syncRow {k : Fin 24} {g : Half} {x : Answer} (h : t.shows k g x) (old : State) (r : Row) :
    (syncRow old r t).shows k g x :=
  h.congr (((Stays.refl (f := Scope.logged []) t).thenSyncRow (by simp) old).sameSlot k)

/-! ### An attempt that fails (R148) -/

theorem failFrame_again {l : Fin 2} {o : Outstanding} (early : o.attempt < 3) (s : State) :
    failFrame l o s = sendFrame l o.board o.kind (o.attempt + 1) s := if_pos early

theorem failFrame_ends {l : Fin 2} {o : Outstanding} (last : 3 ≤ o.attempt) (s : State) :
    failFrame l o s = endFrame l o.board o.kind false s := if_neg (by omega)

/-- A field frame that has failed takes its board to FAULT (R148). -/
theorem endFrame_fields (l : Fin 2) (b : Fin 16) (c : List (Fin 32 × Content)) (s : State) :
    endFrame l b (.fields c) false s = enterFault b 4 (updLink l (fun v => { v with frame := none }) s) := rfl

/-- A probe that has failed leaves its board, which is probed again 5 s later (R148). -/
theorem endFrame_probe_board (l : Fin 2) (b : Fin 16) (s : State) :
    (endFrame l b .probe false s).brd.boards[b] = { s.brd.boards[b] with probeAt := some (s.ms + 5000) } := by
  show (updBoard b _ (updLink l _ s)).brd.boards[b] = _
  rw [updBoard_board, if_pos rfl]
  rfl

theorem countNoAnswer_board (b : Fin 16) (s : State) : (countNoAnswer b s).brd.boards[b]
    = { s.brd.boards[b] with noAnswer := min ((s.brd.boards[b]).noAnswer + 1) 65535 } := by
  rw [countNoAnswer, updBoard_board, if_pos rfl]
  rfl

theorem allStale_of_definition {v : Board} {d : BoardDef} (def_ : v.definition = some d) (f : Fin 32) :
    (v.allStale).stale[f] = decide (num f ≤ d.fields) := by
  rw [allStale_getElem, Board.inUse, def_]

theorem enterOnline_stale {b : Fin 16} {d : BoardDef} (n : Nat) (def_ : (s.brd.boards[b]).definition = some d) (f : Fin 32) :
    ((enterOnline b n s).brd.boards[b]).stale[f] = decide (num f ≤ d.fields) := by
  rw [enterOnline_board]
  dsimp only
  exact allStale_of_definition def_ f

theorem enterOnline_fields (b : Fin 16) (n : Nat) (s : State) : ((enterOnline b n s).brd.boards[b]).state = .online
    ∧ ((enterOnline b n s).brd.boards[b]).resetSlot = none
    ∧ ((enterOnline b n s).brd.boards[b]).refreshAt = some (s.ms + 1000 * s.brd.refresh) := by
  rw [enterOnline_board]
  exact ⟨rfl, rfl, rfl⟩

/-! ### The end of a reset (R152) -/

/-- The board and the link when a RESETTING board is ready. -/
theorem resetReady_brd (l : Fin 2) (b : Fin 16) (s : State) : (resetReady l b s).brd
    = (enterOnline b 6 (updLink l (fun v => { v with frame := none }) s)).brd := endReset_brd ..

/-- A reset that ends answers its slot, in work and TAKEN before a step that leaves the slots alone. -/
theorem endReset_shows {bs : List Block} {k : Fin 24} {w : Work} {z : Option (Fin 24)} (x : Answer) (slot : z = some k)
    (work : (s.ord.inWork.find? fun w => w.slot == k) = some w) (taken : s.slotState k = 2) (same : t.ord = s.ord)
    (stays : Stays (Scope.logged bs) s t) : (endReset z x t).shows k w.tag x := by
  subst slot
  exact (endLong_taken x (by rw [same]; exact work) ((stays.sameSlot k).slotState.trans taken)).1

theorem resetReady_shows {l : Fin 2} {b : Fin 16} {k : Fin 24} {w : Work} (slot : (s.brd.boards[b]).resetSlot = some k)
    (work : (s.ord.inWork.find? fun w => w.slot == k) = some w) (taken : s.slotState k = 2) :
    (resetReady l b s).shows k w.tag (done 0 []) := by
  refine endReset_shows (bs := [.boards, .rendering, .journal, .interrupts]) _ slot work taken ?_
    (((Stays.refl s).thenUpdLink (by simp) l _).thenEnterOnline {} b 6)
  rw [enterOnline, changeLinkState_ord]
  rfl

/-- A reset frame without an answer: the link is free and the board in FAULT, before the slot is answered. -/
def resetFailed (l : Fin 2) (b : Fin 16) (s : State) : State :=
  enterFault b 7 (countNoAnswer b (updLink l (fun v => { v with frame := none }) s))

theorem resetFailed_ord (l : Fin 2) (b : Fin 16) (s : State) : (resetFailed l b s).ord = s.ord := by
  rw [resetFailed, enterFault, changeLinkState_ord]
  rfl

theorem resetFailed_shows {l : Fin 2} {b : Fin 16} {k : Fin 24} {w : Work} (slot : (s.brd.boards[b]).resetSlot = some k)
    (work : (s.ord.inWork.find? fun w => w.slot == k) = some w) (taken : s.slotState k = 2) :
    (endReset (s.brd.boards[b]).resetSlot (refuse resNoAnswer 0) (resetFailed l b s)).shows k w.tag (refuse 11 0 []) :=
  endReset_shows (bs := [.boards, .rendering, .journal, .interrupts]) _ slot work taken (resetFailed_ord ..)
    ((((Stays.refl s).thenUpdLink (by simp) l _).thenUpdBoard (by simp) b _ (.inl (by simp))).thenEnterFault {} b 7)

theorem resetFailed_board (l : Fin 2) (b : Fin 16) (s : State) : (resetFailed l b s).brd.boards[b] = { s.brd.boards[b] with
    noAnswer := min ((s.brd.boards[b]).noAnswer + 1) 65535, refreshAt := none, probeAt := some (s.ms + 5000), probeDue := false,
    resetUnsent := false, resetSlot := none, state := .fault } := by
  rw [resetFailed, enterFault_board, countNoAnswer_board, updLink_boards]
  rfl

theorem resetFailed_link (l : Fin 2) (b : Fin 16) (s : State) :
    (resetFailed l b s).brd.links[l] = { s.brd.links[l] with frame := none } := by
  have links : (resetFailed l b s).brd.links = (updLink l (fun v => { v with frame := none }) s).brd.links := by
    rw [resetFailed, enterFault_links]
    rfl
  exact (congrArg (fun v : Vector Link 2 => v[l]) links).trans ((updLink_link ..).trans (if_pos rfl))

/-- The end of a reset keeps a pending cause. -/
theorem endReset_raised {c : CauseName} (h : s.raised c) (k : Option (Fin 24)) (x : Answer) : (endReset k x s).raised c :=
  ((Stays.refl (f := Scope.onBlocks [.orders, .journal, .interrupts] false) s).thenEndReset {} k x).causes c h

theorem resetUnanswered_silent {l : Fin 2} {b : Fin 16} {d : BoardDef} (def_ : (s.brd.boards[b]).definition = some d)
    (silent : d.silent = true) : resetUnanswered l b s = resetReady l b s := by
  rw [resetUnanswered, def_]
  exact if_pos silent

theorem resetUnanswered_answering {l : Fin 2} {b : Fin 16} {d : BoardDef} (def_ : (s.brd.boards[b]).definition = some d)
    (answering : d.silent = false) :
    resetUnanswered l b s = endReset (s.brd.boards[b]).resetSlot (refuse resNoAnswer 0) (resetFailed l b s) := by
  rw [resetUnanswered, def_]
  exact if_neg (by simp [answering])

/-- A board that is ready after its reset: ONLINE, every field stale, its refresh timer started, its link free. -/
theorem resetReady_spec {l : Fin 2} {b : Fin 16} {d : BoardDef} (def_ : (s.brd.boards[b]).definition = some d) :
    ((resetReady l b s).brd.links[l]).frame = none ∧ ((resetReady l b s).brd.boards[b]).state = .online
      ∧ ((resetReady l b s).brd.boards[b]).resetSlot = none
      ∧ ((resetReady l b s).brd.boards[b]).refreshAt = some (s.ms + 1000 * s.brd.refresh)
      ∧ ∀ f : Fin 32, ((resetReady l b s).brd.boards[b]).stale[f] = decide (num f ≤ d.fields) := by
  have link : (enterOnline b 6 (updLink l (fun v => { v with frame := none }) s)).brd.links[l] = { s.brd.links[l] with frame := none } :=
    (congrArg (fun v : Vector Link 2 => v[l]) (enterOnline_links ..)).trans ((updLink_link ..).trans (if_pos rfl))
  obtain ⟨online, slot, timer⟩ := enterOnline_fields b 6 (updLink l (fun v => { v with frame := none }) s)
  rw [resetReady_brd, link]
  exact ⟨rfl, online, slot, timer, enterOnline_stale 6 def_⟩

/-! ### Replies and ended waits -/

theorem boardReply_brd {l : Fin 2} {o : Outstanding} (frame : (s.brd.links[l]).frame = some o) (a : Nat) (c : Half) (r : Bool) :
    boardReply l (.reply a c r) s = boardOnly s (syncRow s (.board o.board)
      (if o.kind = .reset then judgeReady l o a r s else judgeReply l o a c s)) := by
  simp only [boardReply, frame]

theorem judgeReply_confirms {l : Fin 2} {o : Outstanding} {d : BoardDef} (def_ : (s.brd.boards[o.board]).definition = some d) :
    judgeReply l o d.address o.kind.expected s = endFrame l o.board o.kind true s := by
  simp [judgeReply, def_, -Fin.getElem_fin]

theorem judgeReply_check {l : Fin 2} {o : Outstanding} {d : BoardDef} {c : Half} (def_ : (s.brd.boards[o.board]).definition = some d)
    (wrong : c ≠ o.kind.expected) : judgeReply l o d.address c s
      = failFrame l o (updBoard o.board (fun v => { v with checkBad := satAdd 65535 v.checkBad 1 }) s) := by
  simp [judgeReply, def_, wrong, -Fin.getElem_fin]

theorem judgeReply_address {l : Fin 2} {o : Outstanding} {d : BoardDef} {a : Nat} {c : Half}
    (def_ : (s.brd.boards[o.board]).definition = some d) (wrong : a ≠ d.address) : judgeReply l o a c s
      = failFrame l o (updBoard o.board (fun v => { v with addressBad := satAdd 65535 v.addressBad 1 }) s) := by
  simp [judgeReply, def_, wrong, -Fin.getElem_fin]

theorem judgeReady_ready {l : Fin 2} {o : Outstanding} {d : BoardDef} (def_ : (s.brd.boards[o.board]).definition = some d) :
    judgeReady l o d.address true s = resetReady l o.board s := by
  simp [judgeReady, def_, -Fin.getElem_fin]

theorem linkWaitExpiry_eq {l : Fin 2} {o : Outstanding} (frame : (s.brd.links[l]).frame = some o) (rotation : o.kind ≠ .reset) :
    linkWaitExpiry l s = boardOnly (s.reach o.waitEnd) (syncRow (s.reach o.waitEnd) (.board o.board)
      (failFrame l o (countNoAnswer o.board (s.reach o.waitEnd)))) := by
  rw [linkWaitExpiry, frame]
  exact if_neg rotation

theorem resetWaitExpiry_eq {l : Fin 2} {o : Outstanding} (frame : (s.brd.links[l]).frame = some o) (reset : o.kind = .reset) :
    resetWaitExpiry l s = boardOnly (s.reach o.waitEnd) (syncRow (s.reach o.waitEnd) (.board o.board)
      (resetUnanswered l o.board (s.reach o.waitEnd))) := by
  rw [resetWaitExpiry, frame]
  exact if_pos reset

/-- A confirmed field frame frees its link and takes off the stale set what it showed (R148). -/
theorem confirmed_fields (l : Fin 2) (b : Fin 16) (c : List (Fin 32 × Content)) (s : State) (f : Fin 32) :
    ((endFrame l b (.fields c) true s).brd.boards[b]).stale[f]
      = ((s.brd.boards[b]).stale[f] && !(c.any fun x => x.1 == f && x.2 == (s.brd.boards[b]).content[f])) := by
  show ((updBoard b _ (updLink l _ s)).brd.boards[b]).stale[f] = _
  rw [updBoard_board, if_pos rfl]
  exact confirm_stale ..

/-- The last attempt of a frame of the rotation has failed: a field frame's board is in FAULT, a probe's stays. -/
theorem failed_rotation (l : Fin 2) (b : Fin 16) {k : FrameKind} (rotation : k ≠ .reset) (s : State) :
    ((endFrame l b k false s).brd.links[l]).frame = none
      ∧ ((endFrame l b k false s).brd.boards[b]).probeAt = some (s.ms + 5000)
      ∧ ((endFrame l b k false s).brd.boards[b]).noAnswer = (s.brd.boards[b]).noAnswer
      ∧ (k = .probe → ((endFrame l b k false s).brd.boards[b]).state = (s.brd.boards[b]).state)
      ∧ (k ≠ .probe → ((endFrame l b k false s).brd.boards[b]).state = .fault ∧ (endFrame l b k false s).raised .fault) := by
  have link := endFrame_link l b k false s
  rw [link]
  cases k with
  | fields carried =>
    rw [endFrame_fields, enterFault_board, updLink_boards]
    exact ⟨rfl, rfl, rfl, fun h => by simp at h, fun _ => ⟨rfl, enterFault_raised ..⟩⟩
  | probe =>
    rw [endFrame_probe_board]
    exact ⟨rfl, rfl, rfl, fun _ => rfl, fun h => absurd rfl h⟩
  | reset => exact absurd rfl rotation

/-- Settles O46: the attempts of field frames and probes by the reply and the wait, and the end of a reset. -/
theorem repliesAndWaitsEndFrames : Obligations.RepliesAndWaitsEndFrames := by
  refine ⟨fun l s o d frame def_ => ?_, fun l s o d frame def_ => ?_⟩
  · intro v
    have reply (a c r) := boardReply_brd frame a c r
    refine ⟨fun carried fields => ⟨_, rfl, ?_⟩, fun probe => ⟨_, rfl, ?_⟩, fun reset => ⟨_, rfl, ?_⟩,
      fun rotation early c wrong => ⟨_, rfl, ?_⟩, fun rotation early a c wrong => ⟨_, rfl, ?_⟩⟩
    · have rotation : o.kind ≠ .reset := by simp [fields]
      have check : checkValue carried = o.kind.expected := by rw [fields]; rfl
      rw [reply, if_neg rotation, check, judgeReply_confirms def_]
      refine ⟨congrArg Link.frame (endFrame_link ..), fun f => ?_⟩
      rw [fields]
      exact confirmed_fields ..
    · have rotation : o.kind ≠ .reset := by simp [probe]
      have check : (0 : Half) = o.kind.expected := by rw [probe]; rfl
      rw [reply, if_neg rotation, check, judgeReply_confirms def_]
      refine ⟨congrArg Link.frame (endFrame_link ..), ?_⟩
      have board : (boardOnly s (syncRow s (.board o.board) (endFrame l o.board o.kind true s))).brd.boards[o.board]
          = (enterOnline o.board 3 (updLink l (fun v => { v with frame := none }) s)).brd.boards[o.board] := by
        rw [probe]; rfl
      obtain ⟨online, -, timer⟩ := enterOnline_fields o.board 3 (updLink l (fun v => { v with frame := none }) s)
      rw [board]
      exact ⟨online, timer, enterOnline_stale 3 def_⟩
    · rw [reply, if_pos reset, judgeReady_ready def_]
      obtain ⟨free, online, slot_, timer, stale⟩ := resetReady_spec (l := l) def_
      exact ⟨free, online, slot_, timer, stale, fun k w slot work taken =>
        boardOnly_shows ((resetReady_shows slot work taken).syncRow ..)⟩
    · rw [reply, if_neg rotation, judgeReply_check def_ wrong, failFrame_again early]
      obtain ⟨link, board⟩ := sendFrame_spec l o.board o.kind (o.attempt + 1)
        (updBoard o.board (fun v => { v with checkBad := satAdd 65535 v.checkBad 1 }) s)
      rw [updBoard_board, if_pos rfl] at board
      exact ⟨(congrArg Board.checkBad board).trans rfl, (congrArg Link.frame link).trans rfl⟩
    · rw [reply, if_neg rotation, judgeReply_address def_ wrong, failFrame_again early]
      obtain ⟨link, board⟩ := sendFrame_spec l o.board o.kind (o.attempt + 1)
        (updBoard o.board (fun v => { v with addressBad := satAdd 65535 v.addressBad 1 }) s)
      rw [updBoard_board, if_pos rfl] at board
      exact ⟨(congrArg Board.addressBad board).trans rfl, (congrArg Link.frame link).trans rfl⟩
  · intro v ms
    refine ⟨fun rotation => ⟨linkWaitExpiry l s, rfl, ?_⟩, fun reset => ⟨resetWaitExpiry l s, rfl, ?_⟩⟩
    · rw [linkWaitExpiry_eq frame rotation]
      have counted := countNoAnswer_board o.board (s.reach o.waitEnd)
      obtain early | last := Nat.lt_or_ge o.attempt 3
      · obtain ⟨link, board⟩ := sendFrame_spec l o.board o.kind (o.attempt + 1) (countNoAnswer o.board (s.reach o.waitEnd))
        rw [counted] at board
        rw [failFrame_again early]
        exact ⟨rfl, (congrArg Board.noAnswer board).trans rfl,
          fun _ => ⟨(congrArg Link.frame link).trans rfl, (congrArg Board.sent board).trans rfl⟩, fun late => by omega⟩
      · obtain ⟨free, probe, counter, stays, faulted⟩ := failed_rotation l o.board rotation (countNoAnswer o.board (s.reach o.waitEnd))
        rw [counted] at counter stays
        rw [failFrame_ends last]
        exact ⟨rfl, counter, fun early => by omega, fun _ => ⟨free, probe, stays, faulted⟩⟩
    · rw [resetWaitExpiry_eq frame reset]
      have def' : ((s.reach o.waitEnd).brd.boards[o.board]).definition = some d := def_
      cases silent : d.silent with
      | true =>
        rw [resetUnanswered_silent def' silent]
        obtain ⟨free, online, slot_, timer, stale⟩ := resetReady_spec (l := l) def'
        exact ⟨rfl, free, slot_, online, fun h => by simp at h, fun k w slot work taken =>
          boardOnly_shows ((resetReady_shows (s := s.reach o.waitEnd) slot work taken).syncRow ..)⟩
      | false =>
        rw [resetUnanswered_answering def' silent]
        have brd := endReset_brd ((s.reach o.waitEnd).brd.boards[o.board]).resetSlot (refuse resNoAnswer 0)
          (resetFailed l o.board (s.reach o.waitEnd))
        have board := (congrArg (fun v : Boards => v.boards[o.board]) brd).trans (resetFailed_board ..)
        have link := (congrArg (fun v : Boards => v.links[l]) brd).trans (resetFailed_link ..)
        have raised : (endReset ((s.reach o.waitEnd).brd.boards[o.board]).resetSlot (refuse resNoAnswer 0)
          (resetFailed l o.board (s.reach o.waitEnd))).raised .fault := endReset_raised (enterFault_raised ..) _ _
        have shows := fun k w => resetFailed_shows (l := l) (s := s.reach o.waitEnd) (b := o.board) (k := k) (w := w)
        generalize endReset ((s.reach o.waitEnd).brd.boards[o.board]).resetSlot (refuse resNoAnswer 0)
          (resetFailed l o.board (s.reach o.waitEnd)) = t at board link raised shows ⊢
        exact ⟨rfl, (congrArg Link.frame link).trans rfl, (congrArg Board.resetSlot board).trans rfl,
          (congrArg Board.state board).trans rfl,
          fun _ => ⟨(congrArg Board.noAnswer board).trans rfl, (congrArg Board.probeAt board).trans rfl, raised⟩,
          fun k w slot work taken => boardOnly_shows ((shows k w slot work taken).syncRow ..)⟩

end Sys2Proof.Machine
end

section
/-! Proofs for the plan store's operations (chapter 11) and for the choice of a panel to poll (section 3.3). -/

namespace Sys2Proof.Machine

variable {p : Post} {o : Order} {s t u : State}

/-! ### The take count field and the journal's room -/

/-- No row holds the take count field (sections 1.2 and 10.2). -/
theorem Row.ranges_clear_takeField (r : Row) : ∀ x ∈ r.ranges, x.1 + x.2 ≤ 0x10 ∨ 0x14 ≤ x.1 := by
  intro x hx
  cases r with
  | header =>
    simp only [Row.ranges, List.mem_cons, List.not_mem_nil, or_false] at hx
    rcases hx with rfl | rfl <;> simp
  | _ =>
    simp only [Row.ranges, Row.base, List.mem_cons, List.not_mem_nil, or_false] at hx
    subst hx
    exact .inr (by simp; try omega)

theorem Stays.takeField {bs : List Block} (h : Stays (Scope.unlogged bs) s t) : t.takeField = s.takeField := by
  refine congrArg (wordAt · 0) (readRun_congr fun i hi => h.memory.2.1 _ fun r hr => ?_)
  simp only [unlogged_ranges, List.append_nil, List.mem_flatten, List.mem_map] at hr
  obtain ⟨_, ⟨row, -, rfl⟩, hr⟩ := hr
  have clear := row.ranges_clear_takeField r hr
  simp only [takeCountOffset] at *
  omega

/-- What journals nothing leaves the journal's room. -/
theorem Stays.hasRoom {bs : List Block} {n : Nat} (h : Stays (Scope.unlogged bs) s t) (quiet : .journal ∉ bs) (room : s.hasRoom n) :
    t.hasRoom n := room.congr h.takeField (h.blocks .journal quiet)

/-- An entry appended after a step that journals nothing (R155). -/
theorem Stays.thenLogged {bs : List Block} (h : Stays (Scope.unlogged bs) s t) (quiet : .journal ∉ bs) (room : s.hasRoom 1)
    (kind flags subject a b : Nat) : Journaled [⟨t.partTime, kind, flags, subject, a, b⟩] s (log kind flags subject a b t) := by
  have jrn : s.jrn = t.jrn := (h.blocks .journal quiet).symm
  exact (journal_journaled _ t (h.hasRoom quiet room)).congr jrn rfl fun _ _ => rfl

/-- The end of a long order in its slot writes nothing in the ring. -/
theorem Journaled.endLong {es : List Entry} {k : Fin 24} {w : Work} (h : Journaled es s t) (a : Answer)
    (work : (t.ord.inWork.find? fun w => w.slot == k) = some w) (taken : t.slotState k = 2) : Journaled es s (endLong k a t) := by
  have dropped : (dropWork k t).slotState k = 2 := taken
  simp only [Machine.endLong, work, dropped, if_true]
  refine h.congr rfl rfl fun x high => ((touches_answerSlot k w.notify w.tag a (dropWork k t)).2.1 x ?_).trans rfl
  simp [outside, slotRange, slotBase]
  omega

/-! ### A store order accepted (R162, R163) -/

theorem storeOrder_accepts {k : Fin 24} (j : StoreJob) (free : s.store.op = none) :
    storeOrder k j false s = (beginStore k j s, none) := by
  simp only [storeOrder, free]
  rfl

theorem beginStore_ord (k : Fin 24) (j : StoreJob) (s : State) : (beginStore k j s).ord = s.ord := rfl

theorem savePlan_begins {k : Fin 24} {b : Byte} {i : Fin 16} {q : PlanBlock} (named : b.toNat = num i) (good : planError q = none)
    (unused : s.inUse (num i) = false) (free : s.store.op = none) :
    savePlan k b q s = (beginStore k (.savePlan i q) s, none) := by
  simp only [savePlan, index?_of_eq named, good, unused]
  exact storeOrder_accepts _ free

theorem erasePlan_begins {k : Fin 24} {b : Byte} {i : Fin 16} (named : b.toNat = num i) (unused : s.inUse (num i) = false)
    (free : s.store.op = none) : erasePlan k b s = (beginStore k (.erasePlan i) s, none) := by
  simp only [erasePlan, index?_of_eq named, unused]
  exact storeOrder_accepts _ free

theorem saveSetup_begins {k : Fin 24} {b : Byte} (fits : b.toNat ≤ 16) (free : s.store.op = none) :
    saveSetup k b s = (beginStore k (.saveSetup (s.image b.toNat)) s, none) := by
  rw [saveSetup, if_neg (by omega)]
  exact storeOrder_accepts _ free

/-! ### The end of an operation (R165) -/

/-- The store when an operation has ended, before its slot is answered. -/
def storeEnded (o : StoreOp) (v : Bool) (s : State) : State :=
  raiseIf (!v) .fault (updStore (fun w => { (if v then w.finish o.job else w.fail o.job) with op := none }) s)

/-- The result of an operation, by its verification. -/
def storeResult (v : Bool) : Nat := if v then resDone else resStoreFailed

theorem endStore_eq (o : StoreOp) (v : Bool) (s : State) : endStore o v s
    = endLong o.slot { code := storeResult v } (logStore o.job (storeResult v) (writeRow .header (storeEnded o v s))) := rfl

theorem storeEnded_store (o : StoreOp) (v : Bool) (s : State) :
    (storeEnded o v s).store = { (if v then s.store.finish o.job else s.store.fail o.job) with op := none } := by
  rw [storeEnded, raiseIf_store]
  rfl

theorem storeEnded_raised (o : StoreOp) (s : State) : (storeEnded o false s).raised .fault := raiseCause_raised ..

theorem stays_storeEnded (o : StoreOp) (v : Bool) (s : State) :
    Stays (Scope.unlogged [.store, .interrupts]) s (writeRow .header (storeEnded o v s)) :=
  (((Stays.refl s).thenUpdStore (by simp) _).thenRaiseIf (by simp) _ _).thenWriteRow (by simp)

theorem storeEnded_ord (o : StoreOp) (v : Bool) (s : State) : (storeEnded o v s).ord = s.ord := by
  rw [storeEnded, raiseIf_ord]
  rfl

theorem logStore_store (j : StoreJob) (n : Nat) (s : State) : (logStore j n s).store = s.store := log_store ..

theorem endStore_store (o : StoreOp) (v : Bool) (s : State) : (endStore o v s).store = (storeEnded o v s).store := by
  rw [endStore_eq, endLong_store, logStore_store]
  rfl

theorem endStore_raised (o : StoreOp) (s : State) : (endStore o false s).raised .fault := by
  rw [endStore_eq]
  have stays : Stays (Scope.onBlocks [.orders, .journal, .interrupts] false) (storeEnded o false s) (endLong o.slot { code := storeResult false }
      (logStore o.job (storeResult false) (writeRow .header (storeEnded o false s)))) :=
    (((Stays.refl _).thenWriteRow (by simp)).thenLog {} _ _ _ _ _).thenEndLong {} _ _
  exact stays.causes _ (storeEnded_raised o s)

/-- The slot of the operation, in work and TAKEN, shows the result; STORE DONE is journaled. -/
theorem endStore_ends {o : StoreOp} {w : Work} (v : Bool) (work : (s.ord.inWork.find? fun w => w.slot == o.slot) = some w)
    (taken : s.slotState o.slot = 2) : (endStore o v s).shows o.slot w.tag { code := storeResult v }
      ∧ (endStore o v s).slotInWork o.slot = false
      ∧ (s.hasRoom 1 → Journaled [⟨s.partTime, 0x40, o.job.code, o.job.subject, storeResult v, (endStore o v s).store.stateOf o.job⟩] s
          (endStore o v s)) := by
  have store := endStore_store o v s
  have stays := stays_storeEnded o v s
  have entry := fun room => stays.thenLogged (by simp) room kindStoreDone o.job.code o.job.subject (storeResult v)
    ((writeRow .header (storeEnded o v s)).store.stateOf o.job)
  have same : SameSlot o.slot s (logStore o.job (storeResult v) (writeRow .header (storeEnded o v s))) :=
    (((((Stays.refl (f := Scope.logged [.store, .journal, .interrupts]) s).thenUpdStore (by simp) _).thenRaiseIf (by simp) _ _).thenWriteRow
      (by simp)).thenLog {} _ _ _ _ _).sameSlot o.slot
  have ord : (logStore o.job (storeResult v) (writeRow .header (storeEnded o v s))).ord = s.ord :=
    (log_ord ..).trans (storeEnded_ord o v s)
  have work' : ((logStore o.job (storeResult v) (writeRow .header (storeEnded o v s))).ord.inWork.find? fun w => w.slot == o.slot)
      = some w := by rw [ord]; exact work
  rw [store]
  rw [endStore_eq]
  obtain ⟨shows, ended⟩ := endLong_taken { code := storeResult v } work' (same.slotState.trans taken)
  refine ⟨shows, ?_, fun room => ?_⟩
  · rw [State.slotInWork, ended]
    exact not_inWork_filter ..
  · exact (entry room).endLong _ work' (same.slotState.trans taken)

theorem storeOperationEnd_eq {o : StoreOp} (v : Bool) (op : s.store.op = some o) :
    storeOperationEnd v s = storeOnly (s.reach o.endAt) (endStore o v (s.reach o.endAt)) := by
  simp only [storeOperationEnd, op]

/-- What the end of an operation leaves in its place, by the job and the verification (R165). -/
theorem storeEnded_places (o : StoreOp) (v : Bool) (s : State) :
    (∀ i b, o.job = .savePlan i b → (storeEnded o v s).store.setup = s.store.setup
        ∧ (storeEnded o v s).store.plans = s.store.plans.set i.val (if v then ⟨.valid, .good b, false⟩ else ⟨.damaged, .bad, false⟩))
    ∧ (∀ i, o.job = .erasePlan i → (storeEnded o v s).store.setup = s.store.setup
        ∧ (storeEnded o v s).store.plans = s.store.plans.set i.val (if v then ⟨.empty, .erased, false⟩ else ⟨.damaged, .bad, false⟩))
    ∧ (∀ g, o.job = .saveSetup g → (storeEnded o v s).store.plans = s.store.plans
        ∧ (storeEnded o v s).store.setup = (if v then ⟨.valid, .good g, false⟩ else ⟨.damaged, .bad, false⟩)) := by
  rw [storeEnded_store]
  cases v <;> exact ⟨fun i b job => by rw [job]; exact ⟨rfl, rfl⟩, fun i job => by rw [job]; exact ⟨rfl, rfl⟩,
    fun g job => by rw [job]; exact ⟨rfl, rfl⟩⟩

/-- Settles O48: the three orders mark their place, and the end of the operation leaves it as the verification says. -/
theorem storeOperationsAreAcceptedAndEnd : Obligations.StoreOperationsAreAcceptedAndEnd := by
  refine ⟨fun p s ready free => ⟨fun b i q named good unused => ?_, fun b i named unused => ?_, fun b open_ fits => ?_⟩,
    fun v s o op => ⟨storeOperationEnd v s, rfl, ?_⟩⟩
  · exact .intro rfl ready (savePlan_begins (s := handed p _ s) named good unused free) (beginStore_ord ..) (accepted_store ..)
  · exact .intro rfl ready (erasePlan_begins (s := handed p _ s) named unused free) (beginStore_ord ..) (accepted_store ..)
  · exact .intro rfl ready ((guarded_passes _ open_).trans (saveSetup_begins (s := handed p _ s) fits free)) (beginStore_ord ..)
      (accepted_store ..)
  · rw [storeOperationEnd_eq v op]
    have store := endStore_store o v (s.reach o.endAt)
    have places := storeEnded_places o v (s.reach o.endAt)
    have raised := endStore_raised o (s.reach o.endAt)
    have ends := fun w => endStore_ends (o := o) (s := s.reach o.endAt) (w := w) v
    have idle : (storeEnded o v (s.reach o.endAt)).store.op = none := by rw [storeEnded_store]
    rw [← store] at places idle
    obtain ⟨save, erase, setup⟩ := places
    refine ⟨rfl, idle, save, erase, setup, ?_, fun w work taken => ?_⟩
    · rintro rfl
      exact raised
    · obtain ⟨shows, free, entry⟩ := ends w work taken
      generalize endStore o v (s.reach o.endAt) = t at shows free entry ⊢
      refine ⟨?_, free, fun room => ?_⟩
      · cases v <;> exact shows
      · cases v <;> exact (entry (room.congr rfl rfl)).congr rfl rfl fun _ _ => rfl

/-! ### The choice of a panel (R40) -/

theorem pollSend_idle (idle : s.part = .starting ∨ s.loop.poll.isSome) : pollSend s = s := if_pos idle

theorem pollSend_sends (running : s.part = .running) (free : s.loop.poll = none) : pollSend s =
    match s.lostDue with
    | some p => sendAttempt p 1 false (updPanel p (fun v => { v with due := false }) s)
    | none =>
      match s.nextInRotation with
      | some p => sendAttempt p 1 false { s with loop := { s.loop with rotation := p } }
      | none => s := if_neg (by simp [running, free])

theorem lostPollDue_eq {q : Fin 40} {x : Nat} (lost : (s.loop.panels[q]).state = .lost) (timer : (s.loop.panels[q]).dueAt = some x) :
    lostPollDue q s = updPanel q (fun v => { v with due := true, dueAt := none }) (s.reach x) := by
  simp only [lostPollDue, lost, timer]

/-- Settles O50: a due LOST panel is polled first, else the rotation's next; a due poll waits for the choice. -/
theorem pollsAreChosenAndSent : Obligations.PollsAreChosenAndSent := by
  refine ⟨fun s => ⟨pollSend s, rfl, pollSend_idle, fun running free => ⟨fun q lost => ?_, fun q none_ next => ?_, fun none_ next => ?_⟩⟩,
    fun q s x lost timer => ⟨lostPollDue q s, rfl, ?_⟩⟩
  · rw [pollSend_sends running free, lost]
    exact ⟨rfl, rfl, rfl⟩
  · rw [pollSend_sends running free, none_, next]
    exact ⟨rfl, rfl, rfl⟩
  · rw [pollSend_sends running free, none_, next]
  · rw [lostPollDue_eq lost timer]
    exact ⟨rfl, rfl⟩

end Sys2Proof.Machine
end

section
/-! Proofs for the journal's notices and the reads of the take count (sections 10.2 to 10.4). -/

namespace Sys2Proof.Machine

variable {p : Post} {o : Order} {s t u : State}

/-! ### The parts of the journal unit -/

/-- Entries written rest, at the start, on the put count and the sequence number alone. -/
theorem Journaled.of_counts {es : List Entry} (h : Journaled es s t) (put : u.jrn.put = s.jrn.put)
    (sequence : u.jrn.sequence = s.jrn.sequence) : Journaled es u t := by
  simpa only [Journaled, put, sequence] using h

theorem followOldest_jrn (s : State) : ∃ x, (followOldest s).jrn = { s.jrn with ageTimer := x } := by
  unfold followOldest expireAge raiseNotice raiseIf
  split
  · exact ⟨_, rfl⟩
  · split <;> exact ⟨_, rfl⟩

theorem acceptTake_jrn (v : Word) (s : State) : ∃ x, (acceptTake v s).jrn = { s.jrn with accepted := v, ageTimer := x } := by
  unfold acceptTake
  split
  · next same => exact ⟨s.jrn.ageTimer, by rw [same]⟩
  · exact followOldest_jrn _

theorem closeGap_none (none_ : s.jrn.gap = 0) : closeGap s = s := if_neg (by omega)

theorem closeGap_closes (gap : 0 < s.jrn.gap) (room : s.unread < 512) : (closeGap s).jrn.gap = 0 ∧ (closeGap s).jrn.overflow = false
    ∧ (closeGap s).jrn.accepted = s.jrn.accepted ∧ (closeGap s).jrn.lastBad = s.jrn.lastBad
    ∧ Journaled [ownEntry kindGap s.jrn.gap s] s (closeGap s) := by
  rw [closeGap, if_pos ⟨gap, room⟩]
  refine ⟨rfl, rfl, rfl, rfl, ?_⟩
  have entry := writeEntry_journaled (ownEntry kindGap s.jrn.gap s) s
  generalize writeEntry (ownEntry kindGap s.jrn.gap s) s = t at entry
  have counts : Journaled [ownEntry kindGap s.jrn.gap s] s { t with jrn := { t.jrn with gap := 0, overflow := false } } := entry
  exact counts.stays (bs := []) ((Stays.refl _).thenWriteRow (by simp)) (by simp)

theorem closeGap_keeps (s : State) : (closeGap s).jrn.accepted = s.jrn.accepted ∧ (closeGap s).jrn.lastBad = s.jrn.lastBad := by
  unfold closeGap
  split <;> exact ⟨rfl, rfl⟩

/-! ### The read of the take count (R156, R157) -/

/-- A value that is adopted: the state before the gap, if any, is closed. -/
def adopting (s : State) : State := { acceptTake s.takeField s with jrn := { (acceptTake s.takeField s).jrn with lastBad := none } }

theorem readTakeStep_good (good : (s.jrn.put - s.takeField).toNat ≤ 512) : readTakeStep s = closeGap (adopting s) := if_pos good

theorem adopting_jrn (s : State) : ∃ x, (adopting s).jrn = { s.jrn with accepted := s.takeField, ageTimer := x, lastBad := none } := by
  obtain ⟨x, jrn⟩ := acceptTake_jrn s.takeField s
  exact ⟨x, congrArg (fun j : Journal => { j with lastBad := none }) jrn⟩

/-- A bad value with no gap open: everything up to the put count is taken as read. -/
theorem readTakeStep_bad (bad : 512 < (s.jrn.put - s.takeField).toNat) (none_ : s.jrn.gap = 0) : readTakeStep s
    = if s.jrn.lastBad = some s.takeField then acceptTake s.jrn.put s
      else writeEntry (ownEntry kindTakeFault s.takeField.toNat (acceptTake s.jrn.put s))
        { acceptTake s.jrn.put s with jrn := { (acceptTake s.jrn.put s).jrn with lastBad := some s.takeField } } := by
  obtain ⟨x, jrn⟩ := acceptTake_jrn s.jrn.put s
  have closed : closeGap (acceptTake s.jrn.put s) = acceptTake s.jrn.put s := closeGap_none (by rw [jrn]; exact none_)
  unfold readTakeStep
  dsimp only
  rw [if_neg (by omega), closed]

theorem ownEntry_time {k v : Nat} (same : t.ms = s.ms) : ownEntry k v t = ⟨s.partTime, k, 0, 0, v % 65536, v / 65536 % 65536⟩ := by
  simp only [ownEntry, State.partTime, same]

/-- An adopted value, and the gap closed where there is room. -/
theorem readTakeStep_adopts (good : (s.jrn.put - s.takeField).toNat ≤ 512) :
    (readTakeStep s).jrn.accepted = s.takeField ∧ (readTakeStep s).jrn.lastBad = none
      ∧ (s.jrn.gap = 0 → (readTakeStep s).jrn.put = s.jrn.put ∧ (readTakeStep s).jrn.sequence = s.jrn.sequence)
      ∧ (0 < s.jrn.gap → (s.jrn.put - s.takeField).toNat < 512 → (readTakeStep s).jrn.gap = 0 ∧ (readTakeStep s).jrn.overflow = false
          ∧ Journaled [⟨s.partTime, 0x45, 0, 0, s.jrn.gap % 65536, s.jrn.gap / 65536 % 65536⟩] s (readTakeStep s)) := by
  obtain ⟨x, jrn⟩ := adopting_jrn s
  have time : (adopting s).ms = s.ms := acceptTake_ms ..
  rw [readTakeStep_good good]
  obtain ⟨accepted, last⟩ := closeGap_keeps (adopting s)
  refine ⟨by rw [accepted, jrn], by rw [last, jrn], fun none_ => ?_, fun gap room => ?_⟩
  · rw [closeGap_none (by rw [jrn]; exact none_), jrn]
    exact ⟨rfl, rfl⟩
  · have gap' : (adopting s).jrn.gap = s.jrn.gap := by rw [jrn]
    have room' : (adopting s).unread < 512 := by rw [State.unread, jrn]; exact room
    obtain ⟨cleared, flow, -, -, entry⟩ := closeGap_closes (by rw [gap']; exact gap) room'
    rw [ownEntry_time time, gap'] at entry
    exact ⟨cleared, flow, entry.of_counts (by rw [jrn]) (by rw [jrn])⟩

/-- A bad value is reported once. -/
theorem readTakeStep_refuses (bad : 512 < (s.jrn.put - s.takeField).toNat) (none_ : s.jrn.gap = 0) :
    (readTakeStep s).jrn.accepted = s.jrn.put ∧ (readTakeStep s).jrn.lastBad = some s.takeField
      ∧ (s.jrn.lastBad = some s.takeField → (readTakeStep s).jrn.put = s.jrn.put ∧ (readTakeStep s).jrn.sequence = s.jrn.sequence)
      ∧ (s.jrn.lastBad ≠ some s.takeField →
          Journaled [⟨s.partTime, 0x44, 0, 0, s.takeField.toNat % 65536, s.takeField.toNat / 65536 % 65536⟩] s (readTakeStep s)) := by
  obtain ⟨x, jrn⟩ := acceptTake_jrn s.jrn.put s
  have time : (acceptTake s.jrn.put s).ms = s.ms := acceptTake_ms ..
  rw [readTakeStep_bad bad none_]
  split
  · next again =>
    rw [jrn]
    exact ⟨rfl, again, fun _ => ⟨rfl, rfl⟩, fun new => absurd again new⟩
  · next new =>
    have accepted : (acceptTake s.jrn.put s).jrn.accepted = s.jrn.put := by rw [jrn]
    refine ⟨accepted, rfl, fun again => absurd again new, fun _ => ?_⟩
    rw [ownEntry_time time]
    have entry := writeEntry_journaled ⟨s.partTime, 0x44, 0, 0, s.takeField.toNat % 65536, s.takeField.toNat / 65536 % 65536⟩
      { acceptTake s.jrn.put s with jrn := { (acceptTake s.jrn.put s).jrn with lastBad := some s.takeField } }
    exact entry.of_counts (by dsimp only; rw [jrn]) (by dsimp only; rw [jrn])

/-- The journal's own writes leave the take count field. -/
theorem Stays.field {bs : List Block} (h : Stays (Scope.logged bs) s t) : t.takeField = s.takeField := by
  refine congrArg (wordAt · 0) (readRun_congr fun i hi => h.memory.2.1 _ fun r hr => ?_)
  rcases List.mem_append.1 hr with hr | hr
  · simp only [List.mem_flatten, List.mem_map] at hr
    obtain ⟨_, ⟨row, -, rfl⟩, hr⟩ := hr
    have clear := row.ranges_clear_takeField r hr
    simp only [takeCountOffset] at *
    omega
  · obtain rfl : r = journalRange := by simpa using hr
    simp only [journalRange, takeCountOffset]
    omega

theorem readTake_takeField (s : State) : (readTake s).takeField = s.takeField :=
  ((Stays.refl (f := Scope.logged [.journal, .interrupts]) s).thenReadTake {}).field

/-! ### The age timer and SET JOURNAL NOTICE (R158) -/

theorem raiseNotice_due (due : s.noticeCondition = true) : (raiseNotice s).raised .journal := by
  rw [raiseNotice, due]
  exact raiseCause_raised ..

theorem raiseNotice_quiet (quiet : s.noticeCondition = false) : (raiseNotice s).irq = s.irq := by
  rw [raiseNotice, quiet]
  rfl

theorem noticeCondition_iff (s : State) : s.noticeCondition = true ↔ s.jrn.threshold ≤ s.unread
    ∨ 0 < s.unread ∧ s.jrn.writtenAt[ringRow s.jrn.accepted] + s.jrn.ageLimit ≤ s.ms := by
  rw [State.noticeCondition, Bool.or_eq_true, Bool.and_eq_true, decide_eq_true_iff, decide_eq_true_iff, decide_eq_true_iff]
  exact Iff.rfl

theorem expireAge_jrn (s : State) :
    (expireAge s).jrn = { s.jrn with ageTimer := if 0 < s.unread then some (s.ms + s.jrn.ageLimit) else none } := rfl

theorem ageTimerExpiry_due {x : Nat} (timer : s.jrn.ageTimer = some x) (due : x ≤ s.ms) : ageTimerExpiry s = expireAge s := by
  simp only [ageTimerExpiry, timer, due, if_true]

theorem ageTimerExpiry_idle (idle : ∀ x, s.jrn.ageTimer = some x → s.ms < x) : ageTimerExpiry s = s := by
  unfold ageTimerExpiry
  split
  · next x timer => exact if_neg (by have := idle x timer; omega)
  · rfl

/-- The settings taken, before the age timer follows the oldest unread entry. -/
def noticed (x y : Nat) (s : State) : State := writeRow .header { s with jrn := { s.jrn with threshold := x, ageLimit := y } }

/-- The journal unit after SET JOURNAL NOTICE. -/
def renoticed (x y : Nat) (s : State) : State := raiseNotice (followOldest (noticed x y s))

theorem setJournalNotice_sets {x y : Half} (low : 1 ≤ x.toNat) (high : x.toNat ≤ 512) (low' : 10 ≤ y.toNat) (high' : y.toNat ≤ 10000) :
    setJournalNotice x y s = ({ s with win := (renoticed x.toNat y.toNat s).win, jrn := (renoticed x.toNat y.toNat s).jrn,
                                       irq := (renoticed x.toNat y.toNat s).irq },
      some (done 0 (leBytes 2 s.jrn.threshold ++ leBytes 2 s.jrn.ageLimit))) := by
  have first : within 1 512 x.toNat = true := within_iff.2 ⟨low, high⟩
  have second : within 10 10000 y.toNat = true := within_iff.2 ⟨low', high'⟩
  simp only [setJournalNotice, first, second]
  rfl

theorem renoticed_jrn (x y : Nat) (s : State) :
    ∃ a, (renoticed x y s).jrn = { s.jrn with threshold := x, ageLimit := y, ageTimer := a } := followOldest_jrn (noticed x y s)

theorem renoticed_threshold {x : Nat} (y : Nat) (met : x ≤ s.unread) : (renoticed x y s).raised .journal := by
  obtain ⟨a, jrn⟩ := followOldest_jrn (noticed x y s)
  refine raiseNotice_due ((noticeCondition_iff _).2 (.inl ?_))
  rw [State.unread, jrn]
  exact met

/-- The age timer after SET JOURNAL NOTICE. -/
theorem renoticed_timer (x y : Nat) (s : State) :
    (s.unread = 0 → (renoticed x y s).jrn.ageTimer = none)
      ∧ (0 < s.unread →
        (renoticed x y s).jrn.ageTimer = (if s.jrn.writtenAt[ringRow s.jrn.accepted] + y ≤ s.ms then some (s.ms + y)
          else some (s.jrn.writtenAt[ringRow s.jrn.accepted] + y))
        ∧ (s.jrn.writtenAt[ringRow s.jrn.accepted] + y ≤ s.ms → (renoticed x y s).raised .journal)) := by
  have timer : (renoticed x y s).jrn.ageTimer = (followOldest (noticed x y s)).jrn.ageTimer := rfl
  rw [timer]
  refine ⟨fun none_ => ?_, fun some_ => ⟨?_, fun past => ?_⟩⟩
  · rw [followOldest, if_pos (show (noticed x y s).unread = 0 from none_)]
  · rw [followOldest, if_neg (show ¬ (noticed x y s).unread = 0 from by show ¬ s.unread = 0; omega)]
    show (if s.jrn.writtenAt[ringRow s.jrn.accepted] + y ≤ s.ms then expireAge (noticed x y s)
      else { noticed x y s with jrn := { (noticed x y s).jrn with ageTimer := some (s.jrn.writtenAt[ringRow s.jrn.accepted] + y) } }).jrn.ageTimer = _
    split
    · exact if_pos some_
    · rfl
  · obtain ⟨a, jrn⟩ := followOldest_jrn (noticed x y s)
    have time : (followOldest (noticed x y s)).ms = s.ms := by
      unfold followOldest
      split
      · rfl
      · split <;> rfl
    refine raiseNotice_due ((noticeCondition_iff _).2 (.inr ?_))
    simp only [State.unread, jrn, time]
    exact ⟨some_, past⟩

/-- A cause that the owner raised is pending when the event is closed. -/
theorem answered_raised {c : CauseName} (x : Answer) (h : t.raised c) : (answered p o s x t).raised c :=
  (((Stays.refl (f := everything false) t).thenAnswerSlot (Footprint.covers_slot (by simp [everything]) _) (by simp) _ _ x).thenSettle {} _).causes c h

/-- Settles O49: the settings and the age timer, and the two judgements of a take count. -/
theorem journalNoticesAndTakeCounts : Obligations.JournalNoticesAndTakeCounts := by
  refine ⟨⟨fun p x y s ready low high low' high' => ?_, fun s none_ => ?_, fun s x timer early => ?_, fun s x timer due => ?_⟩,
    fun l s inside => ⟨readTake (hostWrites l s), if_pos inside, ?_⟩⟩
  · refine .intro rfl ready (setJournalNotice_sets (s := handed p _ s) low high low' high') rfl ?_
    obtain ⟨a, jrn⟩ := renoticed_jrn x.toNat y.toNat (handed p (.setJournalNotice x y) s)
    obtain ⟨empty, waiting⟩ := renoticed_timer x.toNat y.toNat (handed p (.setJournalNotice x y) s)
    have met := renoticed_threshold (s := handed p (.setJournalNotice x y) s) (x := x.toNat) y.toNat
    generalize renoticed x.toNat y.toNat (handed p (.setJournalNotice x y) s) = u at jrn empty waiting met ⊢
    rw [answered_jrn]
    refine ⟨by rw [jrn], by rw [jrn], by rw [jrn]; rfl, by rw [jrn]; rfl, by rw [jrn]; rfl, by rw [jrn]; rfl, by rw [jrn]; rfl,
      by rw [jrn]; rfl, by rw [jrn]; rfl, fun h => answered_raised _ (met h), empty, fun some_ => ?_⟩
    obtain ⟨timer, raised⟩ := waiting some_
    exact ⟨timer, fun past => answered_raised _ (raised past)⟩
  · exact congrArg Host.Outcome.next (ageTimerExpiry_idle fun x timer => by simp [none_] at timer)
  · exact congrArg Host.Outcome.next (ageTimerExpiry_idle fun y timer' => by
      obtain rfl : x = y := Option.some.inj (timer.symm.trans timer')
      exact early)
  · refine ⟨ageTimerExpiry s, rfl, ?_⟩
    rw [ageTimerExpiry_due timer due]
    refine ⟨rfl, expireAge_jrn s, fun met => ?_, fun met => ?_⟩
    · exact raiseNotice_due ((noticeCondition_iff s).2 met)
    · exact raiseNotice_quiet (Bool.eq_false_iff.2 fun h => met ((noticeCondition_iff s).1 h))
  · refine ⟨readTake_takeField .., fun good => ?_, fun bad none_ => ?_⟩
    · obtain ⟨accepted, last, same, closes⟩ := readTakeStep_adopts (s := hostWrites l s) good
      refine ⟨accepted, last, same, fun gap room => ?_⟩
      obtain ⟨cleared, flow, entry⟩ := closes gap room
      exact ⟨cleared, flow, entry.congr rfl rfl fun _ _ => rfl⟩
    · obtain ⟨accepted, last, same, reports⟩ := readTakeStep_refuses (s := hostWrites l s) bad none_
      exact ⟨accepted, last, same, fun new => (reports new).congr rfl rfl fun _ _ => rfl⟩

end Sys2Proof.Machine
end

section
/-! Proofs for the run feedback: the records it opens and closes, and the stop response supervision (sections 6.5, 7.2 and 7.5). -/

namespace Sys2Proof.Machine

variable {s t u : State}

/-! ### The cause of a stop (R108) -/

/-- The cause rests on the demand set, the setup and the buffers. -/
theorem evaluate_congr {d : Fin 8} (demand : (t.drive d).demand = (s.drive d).demand) (setup : t.setup = s.setup)
    (buffers : t.drv.buffers = s.drv.buffers) : t.evaluate d = s.evaluate d := by
  have zones : t.zonesOn d = s.zonesOn d := by simp only [State.zonesOn, State.zoneDrive, State.zone, setup]
  have same : t.setup.zones = s.setup.zones := congrArg Setup.zones setup
  have full : t.bufferFull = s.bufferFull := funext fun k => by
    simp only [State.bufferFull, bufferExists_congr same, bufferCapacity_congr same, State.bufferCount, buffers]
  have empty : t.bufferEmpty = s.bufferEmpty := funext fun k => by
    simp only [State.bufferEmpty, bufferExists_congr same, State.bufferCount, buffers]
  have exit : t.exitFull d = s.exitFull d := by unfold State.exitFull; rw [zones, full]
  have entry : t.entryEmpty d = s.entryEmpty d := by unfold State.entryEmpty; rw [zones, empty]
  simp only [State.evaluate, exit, entry, demand]

theorem workingZones_congr (setup : t.setup = s.setup) (d : Fin 8) : t.workingZones d = s.workingZones d := by
  have works : t.works = s.works := funext fun z => by simp only [State.works, setup]
  simp only [State.workingZones, works, State.zonesOn, State.zoneDrive, State.zone, setup]

theorem endSupervision_keeps (d : Fin 8) (s : State) : (endSupervision d s).setup = s.setup ∧ (endSupervision d s).shift = s.shift
    ∧ (endSupervision d s).attr = s.attr ∧ (endSupervision d s).ms = s.ms ∧ (endSupervision d s).drv.buffers = s.drv.buffers := by
  unfold endSupervision
  dsimp only
  split
  · exact ⟨log_setup .., log_shift .., log_attr .., log_ms .., congrArg (·.buffers) (log_drv ..)⟩
  · exact ⟨rfl, rfl, rfl, rfl, rfl⟩

/-! ### A record opens (R106) -/

/-- The charge that a drive's stop begins under (R108). -/
def State.firstCharge (s : State) (d : Fin 8) : Charge := if s.shift.state = .onBreak then .onBreak else .cause (s.evaluate d)

/-- The record that a stop of a drive opens. -/
def State.newRecord (s : State) (d : Fin 8) (overrun : Nat) (continued : Bool) : StopRecord :=
  { number := s.attr.lastNumber + 1, drive := d, isShort := false, isCut := false, continued := continued,
    continues := false, outside := !s.shiftOpen, folded := false, folds := 0, start := s.partTime,
    startE := if s.shiftOpen then some s.shiftE else none, endAt := none, duration := none, overrun := overrun,
    segments := [⟨s.firstCharge d, 0, 0⟩], evaluated := s.evaluate d, charge := s.firstCharge d, holders := s.holdersOf d (s.firstCharge d),
    zones := s.workingZones d, shortLimit := ((s.setup.drives[d]).map DriveDef.short).getD 0 }

theorem openRecordFor_opens (d : Fin 8) (n : Nat) (b : Bool) (s : State) :
    (openRecordFor d n b s).openRecord d = some (s.newRecord d n b) := by
  have slots : (openRecordFor d n b s).attr.slots[d] = .opened (s.newRecord d n b) := by
    have step : (openRecordAt d n b s).attr.slots[d] = .opened (s.newRecord d n b) := by
      unfold openRecordAt
      simp only [writeRow_attr, follow_attr, log_attr]
      exact (upd_getElem ..).trans (if_pos rfl)
    exact step
  rw [State.openRecord, slots]

/-! ### A record closes (R113) -/

theorem filed_slots (b : Bool) (r : StopRecord) (s : State) : (if b then s else fileRecord r s).attr.slots = s.attr.slots := by
  cases b <;> rfl

theorem closeRecord_closes {d : Fin 8} {r : StopRecord} (held : s.openRecord d = some r) (how : Closing) :
    (closeRecord how d s).attr.slots[d] = .closed (r.closedAs how s.partTime) := by
  have step : (closeRecordStep how d s).attr.slots[d] = .closed (r.closedAs how s.partTime) := by
    unfold closeRecordStep
    simp only [held, follow_attr, writeRow_attr, log_attr, filed_slots]
    exact (upd_getElem ..).trans (if_pos rfl)
  exact step

theorem closeRecord_none {d : Fin 8} (none_ : s.openRecord d = none) (how : Closing) : (closeRecord how d s).attr = s.attr := by
  have step : closeRecordStep how d s = s := by simp only [closeRecordStep, none_]
  rw [closeRecord, step, attributionOnly_attr]

theorem closeRecord_openRecord (how : Closing) (d : Fin 8) (s : State) : (closeRecord how d s).openRecord d = none := by
  cases held : s.openRecord d with
  | none =>
    rw [← held]
    exact openRecord_congr (congrArg Attribution.slots (closeRecord_none held how)) d
  | some r => rw [State.openRecord, closeRecord_closes held]

/-! ### A drive that stops -/

/-- A drive that has stopped, before its record opens. -/
def halted (d : Fin 8) (s : State) : State :=
  updDrive d (fun v => { v with feedback := .stopped, watching := false, overrun := 0 }) (endSupervision d s)

theorem halted_drive (d : Fin 8) (s : State) :
    (halted d s).drive d = { s.drive d with feedback := .stopped, supervision := .idle, watching := false, overrun := 0 } := by
  rw [halted, updDrive_drive, endSupervision_drive]

theorem halted_keeps (d : Fin 8) (s : State) : (halted d s).setup = s.setup ∧ (halted d s).shift = s.shift
    ∧ (halted d s).attr = s.attr ∧ (halted d s).ms = s.ms ∧ (halted d s).drv.buffers = s.drv.buffers := endSupervision_keeps d s

theorem feedbackStopped_eq (d : Fin 8) (s : State) : feedbackStopped d s = driveStopped d (s.drive d).overrun (halted d s) := rfl

theorem driveStopped_drive (d e : Fin 8) (n : Nat) (s : State) : (driveStopped d n s).drive e = s.drive e := by
  unfold driveStopped
  split
  · rfl
  · rw [State.drive, openRecordFor_drv_drives, State.drive]

/-- The record that a stopping drive opens, in terms of the state before it stopped. -/
theorem newRecord_halted (d : Fin 8) (n : Nat) (s : State) : ∃ r, (halted d s).newRecord d n false = r ∧ r.number = s.attr.lastNumber + 1
    ∧ r.drive = d ∧ r.start = s.partTime ∧ r.overrun = n ∧ r.outside = !s.shiftOpen ∧ r.continued = false
    ∧ r.evaluated = s.evaluate d ∧ r.zones = s.workingZones d ∧ r.segments = [⟨r.charge, 0, 0⟩]
    ∧ r.charge = (if s.shift.state = .onBreak then .onBreak else .cause (s.evaluate d)) := by
  obtain ⟨setup, shift, attr, ms, buffers⟩ := halted_keeps d s
  have cause : (halted d s).evaluate d = s.evaluate d :=
    evaluate_congr (by rw [halted_drive]) setup buffers
  refine ⟨_, rfl, ?_, rfl, ?_, rfl, ?_, rfl, cause, workingZones_congr setup d, rfl, ?_⟩
  · simp only [State.newRecord, attr]
  · simp only [State.newRecord, State.partTime, ms]
  · simp only [State.newRecord, State.shiftOpen, shift]
  · simp only [State.newRecord, State.firstCharge, shift, cause]

/-! ### The change of the reading (R94) -/

theorem runFeedbackChange_idle {d : Fin 8} {x : Feedback} (idle : s.part = .starting ∨ (s.drive d).feedback = x) :
    runFeedbackChange d x s = setFeedbackPin d x s := if_pos idle

/-- A change of the reading, its drive's row rewritten and the event closed. -/
def feedbackClosed (d : Fin 8) (p t : State) : State := settle p (syncRow p (.drive d) (motionOnly p t))

theorem runFeedbackChange_stopped {d : Fin 8} (running : s.part = .running) (moving : (s.drive d).feedback = .moving) :
    runFeedbackChange d .stopped s
      = feedbackClosed d (setFeedbackPin d .stopped s) (feedbackStopped d (setFeedbackPin d .stopped s)) := by
  unfold runFeedbackChange
  dsimp only
  rw [if_neg (by simp [running, moving])]
  rfl

theorem runFeedbackChange_moving {d : Fin 8} (running : s.part = .running) (halt : (s.drive d).feedback = .stopped) :
    runFeedbackChange d .moving s
      = feedbackClosed d (setFeedbackPin d .moving s) (feedbackMoving d (setFeedbackPin d .moving s)) := by
  unfold runFeedbackChange
  dsimp only
  rw [if_neg (by simp [running, halt])]
  rfl

theorem runFeedbackChange_pin (d : Fin 8) (x : Feedback) (s : State) : (runFeedbackChange d x s).pins.feedback[d] = x := by
  have pin : (setFeedbackPin d x s).pins.feedback[d] = x := (upd_getElem ..).trans (if_pos rfl)
  unfold runFeedbackChange
  dsimp only
  split
  · exact pin
  · simp only [settle_pins, syncRow_pins, motionOnly_pins]
    exact pin

theorem feedbackClosed_drive (d : Fin 8) (p t : State) (e : Fin 8) : (feedbackClosed d p t).drive e = t.drive e := by
  simp only [feedbackClosed, State.drive, settle_drv_drives, syncRow_drv, motionOnly_drv]

theorem feedbackClosed_attr (d : Fin 8) (p t : State) : (feedbackClosed d p t).attr = t.attr := by
  simp only [feedbackClosed, settle_attr, syncRow_attr, motionOnly_attr]

/-- What a drive that moves again keeps and takes. -/
theorem feedbackMoving_spec (d : Fin 8) (s : State) :
    ((feedbackMoving d s).drive d).feedback = .moving ∧ ((feedbackMoving d s).drive d).demand = (s.drive d).demand
      ∧ ((feedbackMoving d s).drive d).stopRequest = (s.drive d).stopRequest
      ∧ ((feedbackMoving d s).drive d).watching = ((s.drive d).watching || !(dueCalls (s.drive d).demand).isEmpty)
      ∧ ((s.drive d).stopRequest = false → ((feedbackMoving d s).drive d).supervision = (s.drive d).supervision)
      ∧ (∀ f, (s.drive d).stopRequest = true → s.setup.drives[d] = some f →
          ((feedbackMoving d s).drive d).supervision = .timing s.tenths f.response)
      ∧ (feedbackMoving d s).attr = (closeRecord .plain d (updDrive d (fun v => { v with feedback := .moving }) s)).attr := by
  have closed : (closeRecord .plain d (updDrive d (fun v => { v with feedback := .moving }) s)).drive d
      = { s.drive d with feedback := .moving } := by
    rw [State.drive, closeRecord_drv_drives]
    exact updDrive_drive ..
  have setup : (closeRecord .plain d (updDrive d (fun v => { v with feedback := .moving }) s)).setup = s.setup := rfl
  have time : (closeRecord .plain d (updDrive d (fun v => { v with feedback := .moving }) s)).ms = s.ms := rfl
  have shape : feedbackMoving d s = (if (dueCalls (s.drive d).demand).isEmpty
      then (if (s.drive d).stopRequest then startTiming d (closeRecord .plain d (updDrive d (fun v => { v with feedback := .moving }) s))
        else closeRecord .plain d (updDrive d (fun v => { v with feedback := .moving }) s))
      else updDrive d (fun v => { v with watching := true })
        (if (s.drive d).stopRequest then startTiming d (closeRecord .plain d (updDrive d (fun v => { v with feedback := .moving }) s))
        else closeRecord .plain d (updDrive d (fun v => { v with feedback := .moving }) s))) := rfl
  rw [shape]
  generalize closeRecord .plain d (updDrive d (fun v => { v with feedback := .moving }) s) = t at closed setup time ⊢
  have timed : ((if (s.drive d).stopRequest then startTiming d t else t).drive d).feedback = .moving
      ∧ ((if (s.drive d).stopRequest then startTiming d t else t).drive d).demand = (s.drive d).demand
      ∧ ((if (s.drive d).stopRequest then startTiming d t else t).drive d).stopRequest = (s.drive d).stopRequest
      ∧ ((if (s.drive d).stopRequest then startTiming d t else t).drive d).watching = (s.drive d).watching
      ∧ ((s.drive d).stopRequest = false →
          ((if (s.drive d).stopRequest then startTiming d t else t).drive d).supervision = (s.drive d).supervision)
      ∧ (∀ f, (s.drive d).stopRequest = true → s.setup.drives[d] = some f →
          ((if (s.drive d).stopRequest then startTiming d t else t).drive d).supervision = .timing s.tenths f.response)
      ∧ (if (s.drive d).stopRequest then startTiming d t else t).attr = t.attr := by
    cases asked : (s.drive d).stopRequest with
    | false =>
      simp only [Bool.false_eq_true, if_false, closed]
      exact ⟨trivial, trivial, asked, trivial, fun _ => trivial, fun f h => absurd h (by decide), trivial⟩
    | true =>
      simp only [if_true]
      have timing := startTiming_drive d d t
      rw [closed] at timing
      refine ⟨(congrArg Drive.feedback timing).trans rfl, (congrArg Drive.demand timing).trans rfl,
        (congrArg Drive.stopRequest timing).trans asked, (congrArg Drive.watching timing).trans rfl, fun h => absurd h (by decide),
        fun f _ def_ => ?_, ?_⟩
      · have tenths : t.tenths = s.tenths := by simp only [State.tenths, time]
        rw [startTiming, setup, def_]
        exact (congrArg Drive.supervision (updDrive_drive ..)).trans (by rw [tenths])
      · unfold startTiming
        split <;> rfl
  obtain ⟨moving, demand, request, watching, kept, timing, attr⟩ := timed
  generalize (if (s.drive d).stopRequest then startTiming d t else t) = u at moving demand request watching kept timing attr ⊢
  cases none_ : (dueCalls (s.drive d).demand).isEmpty with
  | true =>
    simp only [if_true]
    exact ⟨moving, demand, request, by simp [watching], kept, timing, attr⟩
  | false =>
    simp only [Bool.false_eq_true, if_false, updDrive_drive]
    exact ⟨moving, demand, request, by simp, kept, timing, attr⟩

/-! ### The supervision runs out (R95) -/

/-- The drive reported as not stopping. -/
def unstopped (d : Fin 8) (a b : Nat) (s : State) : State :=
  raiseCause .fault (log kindDriveNotStopping 1 (num d) b (s.drive d).pitch.toNat
    (updDrive d (fun v => { v with supervision := .notStopping a }) (s.reach (100 * (a + 10 * b)))))

theorem supervisionExpiry_eq {d : Fin 8} {a b : Nat} (timing : (s.drive d).supervision = .timing a b) :
    supervisionExpiry d s = settle s (syncRow s (.drive d) (unstopped d a b s)) := by
  simp only [supervisionExpiry, timing]
  rfl

theorem raiseCause_drive (c : CauseName) (s : State) (e : Fin 8) : (raiseCause c s).drive e = s.drive e := rfl

theorem unstopped_drive (d : Fin 8) (a b : Nat) (s : State) :
    (unstopped d a b s).drive d = { s.drive d with supervision := .notStopping a } := by
  rw [unstopped, raiseCause_drive, log_drive, updDrive_drive]
  rfl

theorem unstopped_journaled (d : Fin 8) (a b : Nat) (room : s.hasRoom 1) :
    Journaled [⟨(s.reach (100 * (a + 10 * b))).partTime, 0x16, 1, num d, b, (s.drive d).pitch.toNat⟩] s (unstopped d a b s) := by
  have entry := ((Stays.refl (f := Scope.unlogged [.drives]) (s.reach (100 * (a + 10 * b)))).thenUpdDrive (by simp) d
    (fun v => { v with supervision := .notStopping a }) (by simp)).thenLogged (by simp) (room.congr rfl rfl)
    kindDriveNotStopping 1 (num d) b (s.drive d).pitch.toNat
  exact (entry.congr (s' := s) rfl rfl fun _ _ => rfl).stays (bs := [.interrupts]) ((Stays.refl _).thenRaise (by simp) .fault) (by simp)

/-- Settles O56: a stop opens the drive's record under its cause, a move closes it, and the supervision runs out once. -/
theorem feedbackOpensAndClosesRecords : Obligations.FeedbackOpensAndClosesRecords := by
  refine ⟨fun d x s => ⟨runFeedbackChange d x s, rfl, ?_⟩, fun d s a b timing => ⟨supervisionExpiry d s, rfl, ?_⟩⟩
  · refine ⟨runFeedbackChange_pin d x s, runFeedbackChange_idle, fun running moving stopped => ?_, fun running halt moves => ?_⟩
    · subst stopped
      rw [runFeedbackChange_stopped running moving, feedbackStopped_eq]
      have drive := halted_drive d (setFeedbackPin d .stopped s)
      obtain ⟨setup, -, attr, -, -⟩ := halted_keeps d (setFeedbackPin d .stopped s)
      have zones := workingZones_congr setup d
      obtain ⟨r, record, facts⟩ := newRecord_halted d (s.drive d).overrun (setFeedbackPin d .stopped s)
      have overrun : ((setFeedbackPin d .stopped s).drive d).overrun = (s.drive d).overrun := rfl
      rw [overrun]
      generalize halted d (setFeedbackPin d .stopped s) = u at drive attr zones record ⊢
      refine ⟨?_, fun some_ => ⟨r, ?_, facts⟩, fun none_ => ?_⟩
      · rw [feedbackClosed_drive, driveStopped_drive, drive]
        rfl
      · have shape : driveStopped d (s.drive d).overrun u = openRecordFor d (s.drive d).overrun false u := if_neg (by
          rw [zones, List.isEmpty_iff]
          exact some_)
        rw [shape, ← record]
        exact (openRecord_congr (congrArg Attribution.slots (feedbackClosed_attr ..)) d).trans (openRecordFor_opens ..)
      · have shape : driveStopped d (s.drive d).overrun u = u := if_pos (by
          rw [zones, List.isEmpty_iff]
          exact none_)
        rw [shape, feedbackClosed_attr]
        exact attr
    · subst moves
      rw [runFeedbackChange_moving running halt]
      obtain ⟨moving, demand, request, watching, kept, timing, attr⟩ := feedbackMoving_spec d (setFeedbackPin d .moving s)
      have records := feedbackClosed_attr d (setFeedbackPin d .moving s) (feedbackMoving d (setFeedbackPin d .moving s))
      rw [attr] at records
      rw [feedbackClosed_drive]
      generalize feedbackMoving d (setFeedbackPin d .moving s) = u at moving demand request watching kept timing records ⊢
      refine ⟨moving, demand, request, watching, kept, timing, ?_, fun r held => ⟨r.closedAs .plain s.partTime, ?_, rfl, rfl, rfl⟩⟩
      · exact (openRecord_congr (congrArg Attribution.slots records) d).trans (closeRecord_openRecord ..)
      · simp only [records]
        exact closeRecord_closes (s := updDrive d _ (setFeedbackPin d .moving s)) held .plain
  · rw [supervisionExpiry_eq timing]
    have time : (settle s (syncRow s (.drive d) (unstopped d a b s))).ms = max s.ms (100 * (a + 10 * b)) := by
      rw [settle_ms]; rfl
    refine ⟨time, ?_, ?_, fun room => ?_⟩
    · have drives : (settle s (syncRow s (.drive d) (unstopped d a b s))).drive d = (unstopped d a b s).drive d := by
        simp only [State.drive, settle_drv_drives, syncRow_drv]
      rw [drives, unstopped_drive]
    · exact (((Stays.refl (f := everything false) _).thenSyncRow (r := .drive d) (by simp) s).thenSettle {} s).causes _ (raiseCause_raised ..)
    · have part : (settle s (syncRow s (.drive d) (unstopped d a b s))).partTime = (s.reach (100 * (a + 10 * b))).partTime := by
        simp only [State.partTime, time]
        rfl
      rw [part]
      exact (unstopped_journaled d a b room).stays (bs := [.display, .rendering])
        (((Stays.refl _).thenSyncRow (by simp) s).thenSettle {} s) (by simp)

end Sys2Proof.Machine
end

section
/-! Proofs about the call table and the escalation unit: what an entry reads after a change, the alert outputs, and the climb
of a call when its timer expires (chapters 4 and 5). -/

namespace Sys2Proof.Machine

variable {s t u : State}

/-! ### Entries of the call table -/

theorem Kind.index_injective {j k : Kind} (h : j.index = k.index) : j = k := by
  cases j <;> cases k <;> simp [Kind.index] at h ⊢

theorem setCall_call (n m : Fin 160) (k j : Kind) (c : Option Call) (s : State) :
    (setCall n k c s).call m j = if (m, j) = (n, k) then c else s.call m j := by
  have station : (setCall n k c s).calls.stations[m]
      = if m = n then { s.calls.stations[m] with calls := upd s.calls.stations[m].calls k.index fun _ => c } else s.calls.stations[m] :=
    upd_getElem ..
  unfold State.call
  by_cases same : m = n
  · rw [if_pos same] at station
    simp only [station, upd_getElem]
    by_cases kind : j = k
    · rw [if_pos (congrArg Kind.index kind), if_pos (by rw [same, kind])]
    · rw [if_neg fun h => kind (Kind.index_injective h), if_neg fun h => kind (congrArg Prod.snd h)]
  · rw [if_neg same] at station
    rw [if_neg fun h => same (congrArg Prod.fst h)]
    simp only [station]

theorem setCall_call_same (n : Fin 160) (k : Kind) (c : Option Call) (s : State) : (setCall n k c s).call n k = c :=
  (setCall_call ..).trans (if_pos rfl)

theorem setCall_call_other {n m : Fin 160} {k j : Kind} (ne : (m, j) ≠ (n, k)) (c : Option Call) (s : State) :
    (setCall n k c s).call m j = s.call m j := (setCall_call ..).trans (if_neg ne)

theorem updCall_call_same (n : Fin 160) (k : Kind) (g : Call → Call) (s : State) :
    (updCall n k g s).call n k = (s.call n k).map g := setCall_call_same ..

theorem updCall_call_other {n m : Fin 160} {k j : Kind} (ne : (m, j) ≠ (n, k)) (g : Call → Call) (s : State) :
    (updCall n k g s).call m j = s.call m j := setCall_call_other ne ..

/-- The entries rest on the call table. -/
theorem call_congr (calls : t.calls = s.calls) (n : Fin 160) (k : Kind) : t.call n k = s.call n k := by
  simp only [State.call, calls]

/-! ### The rows of groups -/

theorem num_of_index? {n v : Nat} {i : Fin n} (h : index? n v = some i) : v = num i := by
  unfold index? at h
  split at h
  · obtain rfl := Option.some.inj h
    simp only [num]
    omega
  · simp at h

theorem groupRow_cases (g : Nat) : (∃ i : Fin 24, g = num i ∧ groupRow g = [.group i]) ∨ (∀ i : Fin 24, g ≠ num i) ∧ groupRow g = [] := by
  unfold groupRow
  cases index : index? 24 g with
  | some i => exact .inl ⟨i, num_of_index? index, rfl⟩
  | none => exact .inr ⟨fun i h => by simp [index?_of_eq h] at index, rfl⟩

theorem writeRow_counts (r q : Row) (s : State) :
    (writeRow r s).win.counts[q.index] = if q = r then s.win.counts[q.index] + 2 else s.win.counts[q.index] := by
  by_cases same : q = r
  · rw [if_pos same, same]
    exact writeRow_count r s
  · rw [if_neg same]
    exact (touches_writeRow r s).1 q (by simpa using same)

/-- A station's row and its call's group row, each rewritten once. -/
theorem writeRows_station_counts (n : Fin 160) (g : Nat) (s : State) :
    (writeRows (.station n :: groupRow g) s).win.counts[(Row.station n).index] = s.win.counts[(Row.station n).index] + 2
      ∧ ∀ i : Fin 24, (writeRows (.station n :: groupRow g) s).win.counts[(Row.group i).index]
        = if g = num i then s.win.counts[(Row.group i).index] + 2 else s.win.counts[(Row.group i).index] := by
  rcases groupRow_cases g with ⟨j, rfl, row⟩ | ⟨none_, row⟩
  · rw [row]
    have shape : (writeRows [.station n, .group j] s).win = (writeRow (.group j) (writeRow (.station n) s)).win := rfl
    rw [shape]
    refine ⟨?_, fun i => ?_⟩
    · rw [writeRow_counts, if_neg (by simp), writeRow_counts, if_pos rfl]
    · rw [writeRow_counts, writeRow_counts, if_neg (show ¬ Row.group i = .station n by simp)]
      by_cases same : i = j
      · rw [if_pos (by rw [same]), if_pos (by rw [same])]
      · rw [if_neg (by simpa using same), if_neg (fun h => same (Fin.ext (by simp only [num] at h; omega)))]
  · rw [row]
    have shape : (writeRows [.station n] s).win = (writeRow (.station n) s).win := rfl
    rw [shape]
    refine ⟨by rw [writeRow_counts, if_pos rfl], fun i => ?_⟩
    rw [writeRow_counts, if_neg (by simp), if_neg (none_ i)]

/-! ### The alert outputs (R75) -/

theorem openCalls_congr (calls : t.calls.stations = s.calls.stations) : t.openCalls = s.openCalls := by
  simp only [State.openCalls, calls]

theorem alertCounts_congr (calls : t.calls.stations = s.calls.stations) (setup : t.setup.ladders = s.setup.ladders) :
    t.alertCounts = s.alertCounts := by
  have output : t.outputOf = s.outputOf := funext fun c => by simp only [State.outputOf, State.ladder, setup]
  simp only [State.alertCounts, openCalls_congr calls, output]

theorem alertCounts_getElem (s : State) (i : Fin 8) :
    s.alertCounts[i] = (s.openCalls.filter fun c => s.outputOf c == num i).length := Vector.getElem_ofFn ..

/-! ### A climb (R72, R73) -/

/-- The entry after a climb. -/
def State.climbed (s : State) (c : Call) (x : Nat) : Call :=
  { c with level := c.level + 1, nextEscalation := s.climbTime c.group (c.level + 1) x }

/-- The level that a climb reaches. -/
def State.nextLevel (s : State) (c : Call) : Level := ((s.ladder c.group).level? (c.level + 1)).getD ⟨0, 0, false⟩

theorem climb_eq {n : Fin 160} {k : Kind} {c : Call} (held : s.call n k = some c) (source x : Nat) : climb n k source x s
    = reevaluateAlerts (logAt x kindCallEscalated (k.code + 4 * source + 8 * bit (s.nextLevel c).flash) (num n) (c.serial % 65536)
      (c.level + 1 + 256 * (s.nextLevel c).output) (setCall n k (some (s.climbed c x)) s)) := by
  simp only [climb, held]
  rfl

theorem climb_calls {n : Fin 160} {k : Kind} {c : Call} (held : s.call n k = some c) (source x : Nat) :
    (climb n k source x s).calls = (setCall n k (some (s.climbed c x)) s).calls := by
  rw [climb_eq held]
  rfl

theorem climb_setup (n : Fin 160) (k : Kind) (source x : Nat) (s : State) : (climb n k source x s).setup = s.setup := by
  unfold climb
  split <;> rfl

theorem climb_ms (n : Fin 160) (k : Kind) (source x : Nat) (s : State) : (climb n k source x s).ms = s.ms := by
  unfold climb
  split <;> rfl

theorem climb_alerts {n : Fin 160} {k : Kind} {c : Call} (held : s.call n k = some c) (source x : Nat) :
    (climb n k source x s).alerts = (climb n k source x s).alertCounts := by
  rw [climb_eq held]
  exact (alertCounts_congr rfl rfl).symm

theorem climb_journaled {n : Fin 160} {k : Kind} {c : Call} (held : s.call n k = some c) (source x : Nat) (room : s.hasRoom 1) :
    Journaled [⟨BitVec.ofNat 32 x, 0x03, k.code + 4 * source + 8 * bit (s.nextLevel c).flash, num n, c.serial % 65536,
      c.level + 1 + 256 * (s.nextLevel c).output⟩] s (climb n k source x s) := by
  rw [climb_eq held]
  exact (journal_journaled _ (setCall n k (some (s.climbed c x)) s) (room.congr rfl rfl)).congr rfl rfl fun _ _ => rfl

/-! ### The timer (R72) -/

theorem escalationExpiry_early {n : Fin 160} {k : Kind} {c : Call} {x : Nat} (held : s.call n k = some c)
    (timer : c.nextEscalation = some x) (early : s.ms < 100 * x) : escalationExpiry n k s = s := by
  simp only [escalationExpiry, held, timer, early]
  simp

theorem escalationExpiry_climbs {n : Fin 160} {k : Kind} {c : Call} {x : Nat} (held : s.call n k = some c) (raised : c.answered = false)
    (below : c.level < (s.ladder c.group).count) (timer : c.nextEscalation = some x) (due : 100 * x ≤ s.ms) :
    escalationExpiry n k s = settle s (writeRows (.station n :: groupRow c.group) (climb n k 0 x s)) := by
  simp only [escalationExpiry, held, timer]
  rw [if_neg]
  simp [raised, State.atTop]
  omega

/-- What an event rewrites that climbs one call, but for its station's and its group's row. -/
def Scope.climbing : Scope :=
  { blocks := [.calls, .alerts, .display, .rendering, .journal, .interrupts], rows := .header :: (zoneRows ++ boardRows),
    ranges := [journalRange] }

theorem settle_counts (old s : State) {r : Row} (zone : r ∉ zoneRows) (board : r ∉ boardRows) :
    (settle old s).win.counts[r.index] = s.win.counts[r.index] := by
  have stays : Stays { Scope.climbing with rows := zoneRows ++ boardRows } s (settle old s) :=
    (Stays.refl s).thenSettle
      { display := by simp [Scope.climbing], rendering := by simp [Scope.climbing], zones := by simp [zoneRows], boards := by simp [boardRows] } old
  exact stays.memory.1 r (by simp [zone, board])

theorem climb_counts (n : Fin 160) (k : Kind) (source x : Nat) (s : State) {r : Row} (ne : r ≠ .header) :
    (climb n k source x s).win.counts[r.index] = s.win.counts[r.index] := by
  have stays : Stays { Scope.climbing with rows := [.header] } s (climb n k source x s) :=
    (Stays.refl s).thenClimb
      { journal := by simp [Scope.climbing], interrupts := by simp [Scope.climbing], header := by simp, ring := by simp [Scope.climbing],
        calls := by simp [Scope.climbing], alerts := by simp [Scope.climbing] } n k source x
  exact stays.memory.1 r (by simpa using ne)

/-- Settles O54: the call climbs at its timer's instant, the outputs are counted afresh, its two rows are rewritten. -/
theorem callsClimbWhenTheirTimersExpire : Obligations.CallsClimbWhenTheirTimersExpire := by
  refine fun n k s c x held raised below timer => ⟨fun early => congrArg Host.Outcome.next (escalationExpiry_early held timer early),
    fun due => ⟨escalationExpiry n k s, rfl, ?_⟩⟩
  rw [escalationExpiry_climbs held raised below timer due]
  have calls : (settle s (writeRows (.station n :: groupRow c.group) (climb n k 0 x s))).calls
      = (setCall n k (some (s.climbed c x)) s).calls := by
    rw [settle_calls, writeRows_calls, climb_calls held]
  have setup : (settle s (writeRows (.station n :: groupRow c.group) (climb n k 0 x s))).setup = s.setup := by
    rw [settle_setup, writeRows_setup, climb_setup]
  refine ⟨?_, ?_, fun m j ne => ?_, ?_, fun i => ?_, fun room => ?_, ?_, fun g => ?_⟩
  · rw [settle_ms, writeRows_ms, climb_ms]
  · rw [call_congr calls, setCall_call_same]
    rfl
  · rw [call_congr calls, setCall_call_other ne]
  · rw [calls]
    rfl
  · rw [settle_alerts, writeRows_alerts, climb_alerts held, alertCounts_congr (t := climb n k 0 x s)
      (s := settle s (writeRows (.station n :: groupRow c.group) (climb n k 0 x s))) (by rw [calls, climb_calls held]) (by rw [setup, climb_setup])]
    exact alertCounts_getElem ..
  · have entry := climb_journaled held 0 x room
    have flags : k.code + 4 * 0 + 8 * bit (s.nextLevel c).flash = k.code + (if (s.nextLevel c).flash then 8 else 0) := by
      cases (s.nextLevel c).flash <;> rfl
    rw [flags] at entry
    exact entry.stays (bs := [.display, .rendering]) (((Stays.refl _).thenWriteRows fun r _ => by simp).thenSettle {} s) (by simp)
  · rw [settle_counts _ _ (by simp [zoneRows]) (by simp [boardRows]), (writeRows_station_counts ..).1, climb_counts _ _ _ _ _ (by simp)]
  · rw [settle_counts _ _ (by simp [zoneRows]) (by simp [boardRows]), (writeRows_station_counts ..).2, climb_counts _ _ _ _ _ (by simp)]

end Sys2Proof.Machine
end

section
/-! Proofs for the motion of a drive: the crossings of an advance or a marker, and the calls that become DUE at them
(sections 6.2 to 6.4). -/

namespace Sys2Proof.Machine

variable {s t u : State} {d : Fin 8}

/-! ### The armed calls of a drive (R80) -/

theorem mem_insertSerial (r x : CallRef) (l : List CallRef) : x ∈ insertSerial r l ↔ x = r ∨ x ∈ l := by
  induction l with
  | nil => simp [insertSerial]
  | cons y ys ih =>
    unfold insertSerial
    split
    · simp
    · simp only [List.mem_cons, ih]
      exact or_left_comm

theorem mem_sortSerial (x : CallRef) (l : List CallRef) : x ∈ l.foldr insertSerial [] ↔ x ∈ l := by
  induction l with
  | nil => simp
  | cons y ys ih => simp only [List.foldr_cons, mem_insertSerial, ih, List.mem_cons]

/-- The reference stands in the list of a zone of the drive. -/
def State.onDrive (s : State) (d : Fin 8) (r : CallRef) : Prop := ∃ z ∈ s.zonesOn d, r ∈ s.calls.active[z]

theorem mem_armedCalls (r : CallRef) :
    r ∈ s.armedCalls d ↔ s.onDrive d r ∧ ((s.callAt r).map Call.stop).getD .none ≠ .none := by
  rw [State.armedCalls, mem_sortSerial, List.mem_filter, bne_iff_ne]
  refine and_congr_left' ?_
  simp [State.onDrive]

theorem mem_callsDueAt {n : Half} (r : CallRef) :
    r ∈ s.callsDueAt d n ↔ s.onDrive d r ∧ (s.callAt r).map Call.stop = some (.armed n) := by
  rw [State.callsDueAt, List.mem_filter, mem_armedCalls, beq_iff_eq]
  exact ⟨fun ⟨⟨listed, _⟩, armed⟩ => ⟨listed, armed⟩, fun ⟨listed, armed⟩ => ⟨⟨listed, by rw [armed]; simp⟩, armed⟩⟩

theorem onDrive_congr (setup : t.setup = s.setup) (active : t.calls.active = s.calls.active) (r : CallRef) :
    t.onDrive d r ↔ s.onDrive d r := by
  simp only [State.onDrive, State.zonesOn, State.zoneDrive, State.zone, setup, active]

/-! ### Calls that become DUE (R87) -/

/-- A drive with entries in its set has its stop request asserted. -/
def State.asked (s : State) (d : Fin 8) : Prop := (s.drive d).demand ≠ [] → (s.drive d).stopRequest = true

/-- What makes the calls of some references DUE changes. -/
structure Due (d : Fin 8) (l : List CallRef) (s t : State) : Prop where
  pitch : (t.drive d).pitch = (s.drive d).pitch
  count : (t.drive d).count = (s.drive d).count
  reverse : (t.drive d).reverse = (s.drive d).reverse
  faults : (t.drive d).markerFaults = (s.drive d).markerFaults
  setup : t.setup = s.setup
  ms : t.ms = s.ms
  active : t.calls.active = s.calls.active
  call : ∀ m k, t.call m k = (s.call m k).map fun c =>
    if l.any fun r => r.station == m && r.kind == k then { c with stop := .due s.partTime } else c
  stays : ∀ e ∈ (s.drive d).demand, e ∈ (t.drive d).demand
  joins : ∀ r ∈ l, (s.callAt r).isSome → .call r ∈ (t.drive d).demand
  asked : s.asked d → t.asked d
  other : ∀ e, e ≠ d → t.drive e = s.drive e

theorem Due.refl (s : State) : Due d [] s s where
  pitch := rfl
  count := rfl
  reverse := rfl
  faults := rfl
  setup := rfl
  ms := rfl
  active := rfl
  call m k := by simp
  stays _ h := h
  joins _ h := by simp at h
  asked h := h
  other _ _ := rfl

theorem Due.append {l l' : List CallRef} (h : Due d l s t) (h' : Due d l' t u) : Due d (l ++ l') s u where
  pitch := h'.pitch.trans h.pitch
  count := h'.count.trans h.count
  reverse := h'.reverse.trans h.reverse
  faults := h'.faults.trans h.faults
  setup := h'.setup.trans h.setup
  ms := h'.ms.trans h.ms
  active := h'.active.trans h.active
  call m k := by
    have time : t.partTime = s.partTime := partTime_congr h.ms
    rw [h'.call, h.call, Option.map_map, time, List.any_append]
    refine congrArg (fun f => Option.map f _) (funext fun c => ?_)
    cases l.any (fun r => r.station == m && r.kind == k) <;> cases l'.any (fun r => r.station == m && r.kind == k) <;> simp
  stays e he := h'.stays e (h.stays e he)
  joins r hr some_ := by
    rcases List.mem_append.1 hr with hr | hr
    · exact h'.stays _ (h.joins r hr some_)
    · exact h'.joins r hr (by rw [State.callAt, h.call, Option.isSome_map]; exact some_)
  asked q := h'.asked (h.asked q)
  other e ne := (h'.other e ne).trans (h.other e ne)

theorem writeRow_drive (r : Row) (s : State) (e : Fin 8) : (writeRow r s).drive e = s.drive e := rfl

theorem updDrive_self (d : Fin 8) (s : State) : updDrive d (fun v => v) s = s := by
  have same : upd s.drv.drives d (fun v => v) = s.drv.drives := Vector.set_getElem_self ..
  simp only [updDrive, same]

theorem assertStop_keeps (d : Fin 8) (x y : Nat) (s : State) :
    (assertStop d x y s).setup = s.setup ∧ (assertStop d x y s).ms = s.ms ∧ (assertStop d x y s).calls = s.calls := by
  unfold assertStop startTiming
  dsimp only
  split
  · split <;> exact ⟨rfl, rfl, rfl⟩
  · exact ⟨rfl, rfl, rfl⟩

theorem addDemand_keeps (d : Fin 8) (e : Demand) (x y : Nat) (s : State) :
    (addDemand d e x y s).setup = s.setup ∧ (addDemand d e x y s).ms = s.ms ∧ (addDemand d e x y s).calls = s.calls := by
  unfold addDemand
  split
  · exact ⟨rfl, rfl, rfl⟩
  · dsimp only
    rw [follow_setup, follow_ms, follow_calls, reevaluate_setup, reevaluate_ms, reevaluate_calls]
    split
    · exact assertStop_keeps ..
    · exact ⟨rfl, rfl, rfl⟩

/-- An addition to the set of a drive: what else of the drive stands, and that the entry is in. -/
theorem addDemand_joins (e : Demand) (x y : Nat) (s : State) :
    ((addDemand d e x y s).drive d).pitch = (s.drive d).pitch ∧ ((addDemand d e x y s).drive d).count = (s.drive d).count
      ∧ ((addDemand d e x y s).drive d).reverse = (s.drive d).reverse
      ∧ ((addDemand d e x y s).drive d).markerFaults = (s.drive d).markerFaults
      ∧ (∀ a ∈ (s.drive d).demand, a ∈ ((addDemand d e x y s).drive d).demand) ∧ e ∈ ((addDemand d e x y s).drive d).demand
      ∧ (s.asked d → (addDemand d e x y s).asked d) := by
  cases held : (s.drive d).demand.contains e with
  | true =>
    rw [addDemand_held held]
    exact ⟨rfl, rfl, rfl, rfl, fun a ha => ha, List.contains_iff_mem.1 held, fun h => h⟩
  | false =>
    rw [State.asked, State.asked, addDemand_drive held]
    refine ⟨rfl, rfl, rfl, rfl, fun a ha => List.mem_append_left _ ha, List.mem_append_right _ (List.mem_singleton.2 rfl), fun asked _ => ?_⟩
    cases first : (s.drive d).demand.isEmpty with
    | true => rfl
    | false => exact asked fun none_ => by simp [none_] at first

/-- The state of a call made DUE, its demand added, before its entries are written. -/
def dueAdded (d : Fin 8) (r : CallRef) (s : State) : State :=
  addDemand d (.call r) 1 (r.serial % 65536) (updCall r.station r.kind (fun c => { c with stop := .due s.partTime }) s)

theorem dueAdded_keeps (r : CallRef) (s : State) : (dueAdded d r s).setup = s.setup ∧ (dueAdded d r s).ms = s.ms
    ∧ (dueAdded d r s).calls = (updCall r.station r.kind (fun c => { c with stop := .due s.partTime }) s).calls := addDemand_keeps ..

theorem dueAdded_call (r : CallRef) (s : State) (m : Fin 160) (k : Kind) : (dueAdded d r s).call m k
    = (s.call m k).map fun c => if r.station == m && r.kind == k then { c with stop := .due s.partTime } else c := by
  obtain ⟨-, -, calls⟩ := dueAdded_keeps (d := d) r s
  rw [call_congr calls]
  by_cases named : (m, k) = (r.station, r.kind)
  · obtain ⟨rfl, rfl⟩ := Prod.mk.inj named
    rw [updCall_call_same]
    simp
  · rw [updCall_call_other named]
    have apart : (r.station == m && r.kind == k) = false := by
      rw [Bool.and_eq_false_iff, beq_eq_false_iff_ne, beq_eq_false_iff_ne]
      by_cases station : r.station = m
      · exact .inr fun kind => named (by rw [station, kind])
      · exact .inl station
    simp [apart]

theorem makeDue_due (beyond : Nat) (r : CallRef) (s : State) : Due d [r] s (makeDue d beyond r s) := by
  cases held : s.callAt r with
  | none =>
    have same : makeDue d beyond r s = s := by simp only [makeDue, held]
    rw [same]
    exact { Due.refl s with
      call := fun m k => by
        by_cases named : (m, k) = (r.station, r.kind)
        · obtain ⟨rfl, rfl⟩ := Prod.mk.inj named
          rw [State.callAt] at held
          rw [held]
          rfl
        · have apart : (r.station == m && r.kind == k) = false := by
            rw [Bool.and_eq_false_iff, beq_eq_false_iff_ne, beq_eq_false_iff_ne]
            by_cases station : r.station = m
            · exact .inr fun kind => named (by rw [station, kind])
            · exact .inl station
          simp [apart]
      joins := fun x hx some_ => by
        obtain rfl := List.mem_singleton.1 hx
        simp [held] at some_ }
  | some c =>
    have shape : ∃ v : Drive → Drive, ∃ flags : Nat, makeDue d beyond r s = writeRow (.station r.station)
        (log kindCallDue flags (num r.station) (r.serial % 65536) (s.drive d).pitch.toNat (updDrive d v (dueAdded d r s)))
        ∧ ∀ w, (v w).pitch = w.pitch ∧ (v w).count = w.count ∧ (v w).reverse = w.reverse ∧ (v w).markerFaults = w.markerFaults
          ∧ (v w).demand = w.demand ∧ (v w).stopRequest = w.stopRequest := by
      simp only [makeDue, held]
      split
      · exact ⟨_, _, rfl, fun w => ⟨rfl, rfl, rfl, rfl, rfl, rfl⟩⟩
      · exact ⟨fun w => w, _, by rw [updDrive_self]; rfl, fun w => ⟨rfl, rfl, rfl, rfl, rfl, rfl⟩⟩
    obtain ⟨v, flags, shape, keeps⟩ := shape
    have drive : (makeDue d beyond r s).drive d = v ((dueAdded d r s).drive d) := by
      rw [shape, writeRow_drive, log_drive, updDrive_drive]
    obtain ⟨pitch, count, reverse, faults, stays, joined, asked⟩ := addDemand_joins (d := d) (.call r) 1 (r.serial % 65536)
      (updCall r.station r.kind (fun c => { c with stop := .due s.partTime }) s)
    obtain ⟨pitch', count', reverse', faults', demand', request'⟩ := keeps ((dueAdded d r s).drive d)
    obtain ⟨setup, ms, table⟩ := dueAdded_keeps (d := d) r s
    have calls : (makeDue d beyond r s).calls = (dueAdded d r s).calls := by
      rw [shape, writeRow_calls, log_calls]
      rfl
    exact {
      pitch := by rw [drive, pitch']; exact pitch
      count := by rw [drive, count']; exact count
      reverse := by rw [drive, reverse']; exact reverse
      faults := by rw [drive, faults']; exact faults
      setup := by rw [shape, writeRow_setup, log_setup]; exact setup
      ms := by rw [shape, writeRow_ms, log_ms]; exact ms
      active := by rw [calls, table]; rfl
      call := fun m k => by
        rw [call_congr calls, dueAdded_call]
        simp
      stays := fun e he => by rw [drive, demand']; exact stays e he
      joins := fun x hx _ => by
        obtain rfl := List.mem_singleton.1 hx
        rw [drive, demand']
        exact joined
      asked := fun h => by
        rw [State.asked, drive, demand', request']
        exact asked h
      other := fun e ne => by
        rw [shape, writeRow_drive, log_drive, updDrive_drive_other ne]
        exact addDemand_drive_other ne .. }

theorem each_makeDue (beyond : Nat) (l : List CallRef) (s : State) : Due d l s (each l (makeDue d beyond) s) := by
  induction l generalizing s with
  | nil => exact .refl s
  | cons r rs ih => exact (makeDue_due beyond r s).append (ih _)

/-! ### Crossings (R83, R87) -/

/-- A deadline among the first `c` pitches after `n`. -/
def hit (n : Half) (c : Nat) (x : Half) : Prop := 1 ≤ (x - n).toNat ∧ (x - n).toNat ≤ c

theorem hit_zero (n x : Half) : ¬ hit n 0 x := fun ⟨low, high⟩ => by omega

theorem hit_one (n x : Half) : hit n 1 x ↔ x = n + 1 := by
  have at_least : ∀ v : Half, (1 ≤ v.toNat ∧ v.toNat ≤ 1) ↔ v = 1 := fun v =>
    ⟨fun ⟨low, high⟩ => BitVec.eq_of_toNat_eq (Nat.le_antisymm high low), fun h => by rw [h]; decide⟩
  exact (at_least _).trans sub_eq_iff_eq_add'

theorem hit_add {a b : Nat} (small : a + b ≤ 65535) (n x : Half) : hit n (a + b) x ↔ hit n a x ∨ hit (n + BitVec.ofNat 16 a) b x := by
  have far : (x - (n + BitVec.ofNat 16 a)).toNat = ((x - n).toNat + 65536 - a) % 65536 := by
    have bound := (x - n).isLt
    have shift : x - (n + BitVec.ofNat 16 a) = x - n - BitVec.ofNat 16 a := sub_add_eq_sub_sub ..
    rw [shift, BitVec.toNat_sub]
    simp only [BitVec.toNat_ofNat]
    omega
  have bound := (x - n).isLt
  simp only [hit, far]
  omega

/-- What `c` crossings of a drive change: the position, and the calls whose deadline is reached. -/
structure Crossed (d : Fin 8) (c : Nat) (s t : State) : Prop where
  pitch : (t.drive d).pitch = (s.drive d).pitch + BitVec.ofNat 16 c
  reverse : (t.drive d).reverse = (s.drive d).reverse
  faults : (t.drive d).markerFaults = (s.drive d).markerFaults
  setup : t.setup = s.setup
  ms : t.ms = s.ms
  active : t.calls.active = s.calls.active
  due : ∀ r, s.onDrive d r → ∀ x n, s.callAt r = some x → x.stop = .armed n → hit (s.drive d).pitch c n →
    t.callAt r = some { x with stop := .due s.partTime } ∧ .call r ∈ (t.drive d).demand
  keeps : ∀ m k x, s.call m k = some x →
    (∀ r, s.onDrive d r → (r.station, r.kind) ≠ (m, k)) ∨ (∀ n, x.stop = .armed n → ¬ hit (s.drive d).pitch c n) → t.call m k = some x
  none_ : ∀ m k, s.call m k = none → t.call m k = none
  stays : ∀ e ∈ (s.drive d).demand, e ∈ (t.drive d).demand
  asked : s.asked d → t.asked d
  other : ∀ e, e ≠ d → t.drive e = s.drive e

/-- A change of the count or of the overrun watch crosses nothing. -/
theorem Crossed.updDrive {v : Drive → Drive} (s : State) (keeps : ∀ w, (v w).pitch = w.pitch ∧ (v w).reverse = w.reverse
    ∧ (v w).markerFaults = w.markerFaults ∧ (v w).demand = w.demand ∧ (v w).stopRequest = w.stopRequest) :
    Crossed d 0 s (updDrive d v s) := by
  obtain ⟨pitch, reverse, faults, demand, request⟩ := keeps (s.drive d)
  have drive : (Machine.updDrive d v s).drive d = v (s.drive d) := updDrive_drive ..
  exact {
    pitch := by rw [drive, pitch]; exact (BitVec.add_zero _).symm
    reverse := by rw [drive, reverse]
    faults := by rw [drive, faults]
    setup := rfl
    ms := rfl
    active := rfl
    due := fun r _ x n _ _ reached => absurd reached (hit_zero _ _)
    keeps := fun m k x held _ => held
    none_ := fun m k h => h
    stays := fun e he => by rw [drive, demand]; exact he
    asked := fun h => by rw [State.asked, drive, demand, request]; exact h
    other := fun e ne => updDrive_drive_other ne v s }

theorem Crossed.trans {a b : Nat} (small : a + b ≤ 65535) (h : Crossed d a s t) (h' : Crossed d b t u) : Crossed d (a + b) s u where
  pitch := by rw [h'.pitch, h.pitch, BitVec.add_assoc, BitVec.ofNat_add]
  reverse := h'.reverse.trans h.reverse
  faults := h'.faults.trans h.faults
  setup := h'.setup.trans h.setup
  ms := h'.ms.trans h.ms
  active := h'.active.trans h.active
  due r listed x n held armed reached := by
    have listed' : t.onDrive d r := (onDrive_congr h.setup h.active r).2 listed
    by_cases early : hit (s.drive d).pitch a n
    · obtain ⟨due, joined⟩ := h.due r listed x n held armed early
      exact ⟨h'.keeps _ _ _ due (.inr fun n h => by simp at h), h'.stays _ joined⟩
    · have late : hit (t.drive d).pitch b n := by
        rw [h.pitch]
        exact ((hit_add small _ _).1 reached).resolve_left early
      have held' : t.callAt r = some x := h.keeps _ _ x held (.inr fun n' armed' => by
        obtain rfl := StopStatus.armed.inj (armed.symm.trans armed')
        exact early)
      have time : t.partTime = s.partTime := partTime_congr h.ms
      rw [← time]
      exact h'.due r listed' x n held' armed late
  keeps m k x held safe := by
    have first : t.call m k = some x := h.keeps m k x held (safe.imp_right fun apart n armed reached =>
      apart n armed ((hit_add small _ _).2 (.inl reached)))
    refine h'.keeps m k x first (safe.imp (fun apart r listed => apart r ((onDrive_congr h.setup h.active r).1 listed))
      fun apart n armed reached => apart n armed ((hit_add small _ _).2 (.inr ?_)))
    rw [← h.pitch]
    exact reached
  none_ m k none_ := h'.none_ m k (h.none_ m k none_)
  stays e he := h'.stays e (h.stays e he)
  asked q := h'.asked (h.asked q)
  other e ne := (h'.other e ne).trans (h.other e ne)

/-- The position after a crossing, before the calls are looked at. -/
def stepped (d : Fin 8) (s : State) : State := updDrive d (fun v => { v with pitch := (s.drive d).pitch + 1, count := 0 }) s

theorem crossing_due (beyond : Nat) (s : State) :
    Due d ((stepped d s).callsDueAt d ((s.drive d).pitch + 1)) (stepped d s) (crossing d beyond s) := each_makeDue ..

theorem stepped_drive (s : State) : (stepped d s).drive d = { s.drive d with pitch := (s.drive d).pitch + 1, count := 0 } := updDrive_drive ..

theorem crossing_count (beyond : Nat) (s : State) : ((crossing d beyond s).drive d).count = 0 := by
  rw [(crossing_due beyond s).count, stepped_drive]

theorem crossing_crossed (beyond : Nat) (s : State) : Crossed d 1 s (crossing d beyond s) := by
  have h := crossing_due (d := d) beyond s
  have drive := stepped_drive (d := d) s
  have named (m : Fin 160) (k : Kind) : (((stepped d s).callsDueAt d ((s.drive d).pitch + 1)).any fun r => r.station == m && r.kind == k) = true
      ↔ ∃ r, s.onDrive d r ∧ (s.callAt r).map Call.stop = some (.armed ((s.drive d).pitch + 1)) ∧ (r.station, r.kind) = (m, k) := by
    rw [List.any_eq_true]
    refine exists_congr fun r => ?_
    rw [mem_callsDueAt, Bool.and_eq_true, beq_iff_eq, beq_iff_eq, Prod.mk.injEq, and_assoc]
    exact Iff.rfl
  exact {
    pitch := by rw [h.pitch, drive]; rfl
    reverse := by rw [h.reverse, drive]
    faults := by rw [h.faults, drive]
    setup := h.setup
    ms := h.ms
    active := h.active
    due := fun r listed x n held armed reached => by
      have now : n = (s.drive d).pitch + 1 := (hit_one _ _).1 reached
      have armed' : (s.callAt r).map Call.stop = some (.armed ((s.drive d).pitch + 1)) := by rw [held, ← now]; exact congrArg some armed
      refine ⟨?_, h.joins r ((mem_callsDueAt r).2 ⟨listed, armed'⟩) ?_⟩
      · have some_ := (named r.station r.kind).2 ⟨r, listed, armed', rfl⟩
        rw [State.callAt, h.call, some_]
        exact congrArg (Option.map _) held
      · exact Option.isSome_iff_exists.2 ⟨x, held⟩
    keeps := fun m k x held safe => by
      have none_ : (((stepped d s).callsDueAt d ((s.drive d).pitch + 1)).any fun r => r.station == m && r.kind == k) = false :=
        Bool.eq_false_iff.2 fun yes => by
          obtain ⟨r, listed, armed, same⟩ := (named m k).1 yes
          rcases safe with apart | apart
          · exact apart r listed same
          · obtain ⟨rfl, rfl⟩ := Prod.mk.inj same
            rw [State.callAt, held] at armed
            exact apart _ (Option.some.inj armed) ((hit_one _ _).2 rfl)
      rw [h.call, none_]
      exact congrArg (Option.map _) held
    none_ := fun m k none_ => by
      rw [h.call]
      exact congrArg (Option.map _) none_
    stays := fun e he => h.stays e (by rw [drive]; exact he)
    asked := fun q => h.asked (by rw [State.asked, drive]; exact q)
    other := fun e ne => (h.other e ne).trans (updDrive_drive_other ne ..) }

theorem crossings_crossed (pitch : Nat) (c : Nat) (small : c ≤ 65535) (beyond : Nat) (s : State) :
    Crossed d c s (crossings d pitch c beyond s) := by
  induction c generalizing beyond s with
  | zero =>
    have same : Crossed d 0 s (updDrive d (fun v => v) s) := .updDrive s fun w => ⟨rfl, rfl, rfl, rfl, rfl⟩
    rw [updDrive_self] at same
    exact same
  | succ c ih =>
    have both := (crossing_crossed (d := d) beyond s).trans (by omega) (ih (by omega) (beyond - pitch) (crossing d beyond s))
    rw [Nat.add_comm] at both
    exact both

/-! ### The closed event -/

/-- A motion event of a drive, its row rewritten and the event closed. -/
def motionClosed (d : Fin 8) (s t : State) : State := settle s (syncRow s (.drive d) (motionOnly s t))

theorem motionClosed_drive (s t : State) (e : Fin 8) : (motionClosed d s t).drive e = t.drive e := by
  simp only [motionClosed, State.drive, settle_drv_drives, syncRow_drv, motionOnly_drv]

theorem motionClosed_calls (s t : State) : (motionClosed d s t).calls = { s.calls with stations := t.calls.stations } := by
  rw [motionClosed, settle_calls, syncRow_calls]
  rfl

theorem motionClosed_call (s t : State) (n : Fin 160) (k : Kind) : (motionClosed d s t).call n k = t.call n k := by
  simp only [State.call, motionClosed_calls]

theorem motionClosed_jrn (s t : State) : (motionClosed d s t).jrn = t.jrn := by
  rw [motionClosed, settle_jrn, syncRow_jrn, motionOnly_jrn]

/-- What the closed event shows of the crossings of a drive. -/
theorem Crossed.closed {c : Nat} (h : Crossed d c s t) :
    (∀ r ∈ s.armedCalls d, ∀ x n, s.callAt r = some x → x.stop = .armed n → hit (s.drive d).pitch c n →
        (motionClosed d s t).callAt r = some { x with stop := .due s.partTime }
        ∧ ((motionClosed d s t).drive d).demand.contains (.call r) = true
        ∧ ((s.drive d).demand = [] → ((motionClosed d s t).drive d).stopRequest = true))
      ∧ (∀ m k x, s.call m k = some x → (∀ r ∈ s.armedCalls d, (r.station, r.kind) ≠ (m, k))
          ∨ (∀ n, x.stop = .armed n → ¬ hit (s.drive d).pitch c n) → (motionClosed d s t).call m k = some x)
      ∧ (∀ m k, s.call m k = none → (motionClosed d s t).call m k = none)
      ∧ ∀ e, e ≠ d → (motionClosed d s t).drive e = s.drive e := by
  simp only [motionClosed_drive, motionClosed_call, State.callAt]
  refine ⟨fun r armed x n held stop reached => ?_, fun m k x held safe => ?_, h.none_, h.other⟩
  · obtain ⟨due, joined⟩ := h.due r ((mem_armedCalls r).1 armed).1 x n held stop reached
    refine ⟨due, List.contains_iff_mem.2 joined, fun empty => h.asked (fun some_ => absurd empty some_) fun none_ => ?_⟩
    rw [none_] at joined
    exact absurd joined (by simp)
  · by_cases stopped : x.stop = .none
    · exact h.keeps m k x held (.inr fun n armed => by rw [stopped] at armed; simp at armed)
    · refine h.keeps m k x held (safe.imp_left fun apart r listed same => ?_)
      obtain ⟨rfl, rfl⟩ := Prod.mk.inj same
      refine apart r ((mem_armedCalls r).2 ⟨listed, ?_⟩) rfl
      rw [State.callAt, held]
      exact stopped

theorem advance_idle {x : Half} {r : Direction} (idle : s.part = .starting ∨ s.setup.drives[d] = none) : advance d x r s = s := by
  unfold advance
  rcases idle with starting | missing
  · exact if_pos starting
  · rw [missing]
    split <;> rfl

theorem advance_forward {x : Half} {f : DriveDef} (running : s.part = .running) (def_ : s.setup.drives[d] = some f) :
    advance d x .forward s = motionClosed d s (advanceForward d f.pitch x.toNat s) := by
  rw [advance, if_neg (by simp [running]), def_]
  rfl

theorem advance_reverse {x : Half} {f : DriveDef} (running : s.part = .running) (def_ : s.setup.drives[d] = some f) :
    advance d x .reverse s = motionClosed d s (advanceReverse d x.toNat s) := by
  rw [advance, if_neg (by simp [running]), def_]
  rfl

theorem execAdvance_eq {x : Half} (some_ : x ≠ 0) (r : Direction) : exec (.advance d x r) s = .next (advance d x r s) := if_neg some_

/-- The crossings of an advance fit 16 bits: the count stands below the pitch. -/
theorem crossings_small {count pitch k : Nat} (below : count < pitch) (word : k < 65536) : (count + k) / pitch ≤ 65535 := by
  rw [← Nat.lt_succ_iff, Nat.div_lt_iff_lt_mul (by omega)]
  have := Nat.mul_le_mul (Nat.le_refl 65535) (show 1 ≤ pitch by omega)
  rw [Nat.succ_mul]
  omega

theorem advanceForward_crossed {pitch k : Nat} (below : (s.drive d).count < pitch) (word : k < 65536) :
    Crossed d (((s.drive d).count + k) / pitch) s (advanceForward d pitch k s) := by
  have small := crossings_small below word
  have start : Crossed d 0 s (if (s.drive d).watching then updDrive d (fun v => { v with overrun := satAdd 4294967295 v.overrun k }) s else s) := by
    split
    · exact .updDrive s fun w => ⟨rfl, rfl, rfl, rfl, rfl⟩
    · have same : Crossed d 0 s (updDrive d (fun v => v) s) := .updDrive s fun w => ⟨rfl, rfl, rfl, rfl, rfl⟩
      rw [updDrive_self] at same
      exact same
  have crossed := (start.trans (by omega) (crossings_crossed pitch _ small (k - (pitch - (s.drive d).count)) _)).trans (by omega)
    (.updDrive _ (v := fun w => { w with count := ((s.drive d).count + k) % pitch }) fun w => ⟨rfl, rfl, rfl, rfl, rfl⟩)
  rw [Nat.zero_add, Nat.add_zero] at crossed
  exact crossed

theorem advanceForward_count (pitch k : Nat) (s : State) :
    ((advanceForward d pitch k s).drive d).count = ((s.drive d).count + k) % pitch := by
  rw [advanceForward, updDrive_drive]

theorem marker_idle (idle : s.part = .starting ∨ s.setup.drives[d] = none) : marker d s = s := by
  unfold marker
  rcases idle with starting | missing
  · exact if_pos starting
  · rw [missing]
    split <;> rfl

theorem marker_running {f : DriveDef} (running : s.part = .running) (def_ : s.setup.drives[d] = some f) : marker d s
    = motionClosed d s (if f.pitch - f.tolerance ≤ (s.drive d).count then crossing d 0 s
        else if (s.drive d).count ≤ f.tolerance then updDrive d (fun v => { v with count := 0 }) s
        else log kindMarkerFault 0 (num d) (s.drive d).count (s.drive d).pitch.toNat
          (updDrive d (fun v => { v with markerFaults := satAdd 65535 v.markerFaults 1 }) s)) := by
  rw [marker, if_neg (by simp [running]), def_]
  rfl

/-- A marker that is a fault journals it. -/
theorem markerFault_journaled (room : s.hasRoom 1) : Journaled [⟨s.partTime, 0x17, 0, num d, (s.drive d).count, (s.drive d).pitch.toNat⟩] s
    (motionClosed d s (log kindMarkerFault 0 (num d) (s.drive d).count (s.drive d).pitch.toNat
      (updDrive d (fun v => { v with markerFaults := satAdd 65535 v.markerFaults 1 }) s))) := by
  have entry := ((Stays.refl (f := Scope.unlogged [.drives]) s).thenUpdDrive (by simp) d
    (fun v => { v with markerFaults := satAdd 65535 v.markerFaults 1 }) (by simp)).thenLogged (by simp) room
    kindMarkerFault 0 (num d) (s.drive d).count (s.drive d).pitch.toNat
  exact (entry.wrap (motionOnly_jrn ..) (motionOnly_win ..)).stays (bs := [.display, .rendering])
    (((Stays.refl _).thenSyncRow (by simp) s).thenSettle {} s) (by simp)

/-- Settles O55, by the crossings of an advance and of a marker. -/
theorem motionEventsMoveTheDrive : Obligations.MotionEventsMoveTheDrive := by
  refine ⟨⟨fun d x r s some_ idle => ?_, fun d x s f some_ running def_ below => ⟨_, execAdvance_eq some_ .forward, ?_⟩,
    fun d x s f some_ running def_ => ⟨_, execAdvance_eq some_ .reverse, ?_⟩⟩,
    fun d s => ⟨marker d s, rfl, marker_idle, fun f running def_ => ?_⟩⟩
  · rw [execAdvance_eq some_, advance_idle idle]
  · rw [advance_forward running def_]
    have crossed := advanceForward_crossed below x.isLt
    obtain ⟨due, keeps, none_, other⟩ := crossed.closed
    refine ⟨?_, ?_, ?_, ?_, due, keeps, none_, other⟩
    · rw [motionClosed_drive, crossed.pitch]
    · rw [motionClosed_drive, advanceForward_count]
    · rw [motionClosed_drive, crossed.reverse]
    · rw [motionClosed_drive, crossed.faults]
  · rw [advance_reverse running def_]
    refine ⟨?_, fun e ne => ?_, ?_, ?_⟩
    · rw [motionClosed_drive, advanceReverse, updDrive_drive]
      rfl
    · rw [motionClosed_drive, advanceReverse, updDrive_drive_other ne]
    · rw [motionClosed_calls]
      rfl
    · rw [motionClosed_jrn]
      rfl
  · rw [marker_running running def_]
    refine ⟨fun crosses => ?_, fun short near => ?_, fun short far => ?_, fun e ne => ?_⟩
    · rw [if_pos crosses]
      have crossed := crossing_crossed (d := d) 0 s
      obtain ⟨due, keeps, none_, -⟩ := crossed.closed
      refine ⟨?_, ?_, ?_, ?_, fun r armed c held stop => due r armed c _ held stop ((hit_one _ _).2 rfl), fun n k c held safe => ?_, none_⟩
      · rw [motionClosed_drive, crossed.pitch]
        rfl
      · rw [motionClosed_drive, crossing_count]
      · rw [motionClosed_drive, crossed.reverse]
      · rw [motionClosed_drive, crossed.faults]
      · refine keeps n k c held (safe.imp_right fun apart m armed reached => apart ?_)
        rw [armed, (hit_one _ _).1 reached]
    · rw [if_neg (by omega), if_pos near, motionClosed_drive, updDrive_drive, motionClosed_calls]
      exact ⟨rfl, rfl⟩
    · rw [if_neg (by omega), if_neg (by omega)]
      refine ⟨?_, ?_, markerFault_journaled⟩
      · rw [motionClosed_drive, log_drive, updDrive_drive]
        rfl
      · rw [motionClosed_calls, log_calls]
        rfl
    · rw [motionClosed_drive]
      split
      · exact (crossing_crossed 0 s).other e ne
      · split
        · exact updDrive_drive_other ne ..
        · rw [log_drive, updDrive_drive_other ne]

end Sys2Proof.Machine
end

section
/-! Proofs for the call orders RAISE CALL, ANSWER CALL and CLEAR CALL (sections 4.2, 4.3 and 4.5). -/

namespace Sys2Proof.Machine

variable {p : Post} {o : Order} {s t u : State} {n : Fin 160} {k : Kind} {z : Fin 8}

/-! ### What an operation leaves, read off its frame -/

theorem Stays.sameSetup {f : Scope} (h : Stays f s t) (definitions : .definitions ∉ f.blocks) (service : .service ∉ f.blocks) :
    t.setup = s.setup := by
  have same : serviceOf t.setup s.setup = s.setup := h.blocks .definitions definitions
  obtain ⟨states, slots, calls⟩ := h.blocks .service service
  rw [← same, serviceOf, ← states, ← slots, ← calls]

/-- What a change of calls and what follows it may touch: never the setup, the time, the orders or the shift. -/
def callBlocks : List Block := [.calls, .alerts, .drives, .display, .attribution, .rendering, .journal, .interrupts]

theorem Stays.callFrame (h : Stays (Scope.logged callBlocks) s t) : t.setup = s.setup ∧ t.ms = s.ms ∧ t.ord = s.ord ∧ t.shift = s.shift :=
  ⟨h.sameSetup (by simp [callBlocks]) (by simp [callBlocks]), h.blocks .time (by simp [callBlocks]), h.blocks .orders (by simp [callBlocks]),
    h.blocks .shift (by simp [callBlocks])⟩

theorem callsOnly_call (s t : State) (m : Fin 160) (j : Kind) : (callsOnly s t).call m j = t.call m j := rfl

theorem callsOnly_ord {s t : State} (same : t.ord = s.ord) : (callsOnly s t).ord = s.ord := by
  show orderEnds s.ord t.ord = s.ord
  rw [same]
  rfl

theorem rewriteCallRows_calls (old : State) (n : Fin 160) (groups : List Row) (z : Fin 8) (s : State) :
    (rewriteCallRows old n groups z s).calls = s.calls := rfl

theorem rewriteCallRows_ord (old : State) (n : Fin 160) (groups : List Row) (z : Fin 8) (s : State) :
    (rewriteCallRows old n groups z s).ord = s.ord := rfl

theorem callParams_names {b x : Byte} (station : b.toNat = num n) (kind : x.toNat = k.code) : callParams b x = .inl (n, k) := by
  have code : Kind.ofCode? k.code = some k := by cases k <;> rfl
  simp only [callParams, index?_of_eq station, kind, code]

theorem answered_call (x : Answer) (t : State) (m : Fin 160) (j : Kind) : (answered p o s x t).call m j = t.call m j :=
  call_congr (answered_calls ..) m j

/-! ### A call opens (R58) -/

/-- The call table with a call opened. -/
def opened (n : Fin 160) (z : Fin 8) (k : Kind) (c : Call) (s : State) : State :=
  { setCall n k (some c) s with calls := { (setCall n k (some c) s).calls with
    nextSerial := s.calls.nextSerial + 1,
    active := upd s.calls.active z fun l => l ++ [⟨n, k, c.serial⟩] } }

theorem openCall_eq (origin : Origin) (s : State) : openCall n z k origin s
    = follow s (logCall kindCallRaised (k.code + 4 * origin.code) n (s.newCall n z k origin)
        ((s.newCall n z k origin).serial / 65536 % 65536) (countRaised n (opened n z k (s.newCall n z k origin) s))) := rfl

/-- In an open shift an opening counts at its station. -/
theorem countRaised_calls (s : State) : (countRaised n s).calls
    = if s.shiftOpen then (updStation n (fun r => { r with raisedShift := satAdd 65535 r.raisedShift 1 }) s).calls else s.calls := by
  unfold countRaised
  split
  · exact ((Stays.refl (f := Scope.onBlocks [.shift] false) _).thenShowShift (by simp) (by simp) (by simp) []).blocks .calls (by simp)
  · rfl

theorem updStation_call {g : Station → Station} (keeps : ∀ r, (g r).calls = r.calls) (m : Fin 160) (j : Kind) (s : State) :
    (updStation n g s).call m j = s.call m j := by
  have station : (updStation n g s).calls.stations[m] = if m = n then g s.calls.stations[m] else s.calls.stations[m] := upd_getElem ..
  have entries : ((updStation n g s).calls.stations[m]).calls = (s.calls.stations[m]).calls := by
    rw [station]
    split
    · exact keeps _
    · rfl
  simp only [State.call, entries]

theorem countRaised_call (m : Fin 160) (j : Kind) (s : State) : (countRaised n s).call m j = s.call m j := by
  have counted := updStation_call (n := n) (g := fun r => { r with raisedShift := satAdd 65535 r.raisedShift 1 }) (fun _ => rfl) m j s
  have calls := countRaised_calls (n := n) s
  generalize updStation n (fun r => { r with raisedShift := satAdd 65535 r.raisedShift 1 }) s = u at counted calls
  generalize countRaised n s = t at calls ⊢
  cases open_ : s.shiftOpen with
  | true =>
    rw [open_, if_pos rfl] at calls
    exact (call_congr calls m j).trans counted
  | false =>
    rw [open_, if_neg (by decide)] at calls
    exact call_congr calls m j

theorem countRaised_lists (s : State) : (countRaised n s).calls.active = s.calls.active
    ∧ (countRaised n s).calls.nextSerial = s.calls.nextSerial := by
  rw [countRaised_calls]
  split <;> exact ⟨rfl, rfl⟩

theorem countRaised_count (s : State) : (countRaised n s).shift.callsRaised
    = if s.shiftOpen then min (s.shift.callsRaised + 1) 65535 else s.shift.callsRaised := by
  unfold countRaised
  split
  · next open_ =>
    show (bringTally _).shift.callsRaised = _
    unfold bringTally
    split <;> rfl
  · rfl

theorem countRaised_keeps (s : State) : (countRaised n s).ord = s.ord ∧ (countRaised n s).setup = s.setup := by
  have stays : Stays (Scope.onBlocks [.calls, .alerts, .shift, .display, .rendering, .journal, .interrupts] false) s (countRaised n s) :=
    (Stays.refl s).thenCountRaised {} n
  exact ⟨stays.blocks .orders (by simp), stays.sameSetup (by simp) (by simp)⟩

theorem openCall_calls (origin : Origin) (s : State) :
    (openCall n z k origin s).calls = (countRaised n (opened n z k (s.newCall n z k origin) s)).calls := by
  rw [openCall_eq, follow_calls, logCall, log_calls]

theorem openCall_shift (origin : Origin) (s : State) :
    (openCall n z k origin s).shift = (countRaised n (opened n z k (s.newCall n z k origin) s)).shift := by
  rw [openCall_eq, follow_shift, logCall, log_shift]

theorem openCall_ord (origin : Origin) (s : State) : (openCall n z k origin s).ord = s.ord := by
  rw [openCall_eq, follow_ord, logCall, log_ord, (countRaised_keeps ..).1]
  rfl

theorem openCall_call (origin : Origin) (s : State) (m : Fin 160) (j : Kind) :
    (openCall n z k origin s).call m j = if (m, j) = (n, k) then some (s.newCall n z k origin) else s.call m j := by
  rw [call_congr (openCall_calls ..), countRaised_call]
  exact setCall_call ..

/-- The next escalation time of a call that opens (R70). -/
theorem climbTime_zero (group x : Nat) (s : State) : s.climbTime group 0 x
    = if 1 ≤ (s.ladder group).count then some (x + 10 * ((s.ladder group).levels[0]).delay) else none := by
  unfold State.climbTime Ladder.level?
  split <;> rfl

/-! ### A call is repeated (R59, R73) -/

theorem repeatCall_calls {c : Call} (origin : Origin) (s : State) : (repeatCall n k origin c s).calls
    = (if c.answered then updCall n k (fun c => { c with repeats := satAdd 255 c.repeats 1 }) s
        else escalateRepeat n k (updCall n k (fun c => { c with repeats := satAdd 255 c.repeats 1 }) s)).calls := by
  rw [repeatCall, follow_calls, logCall, log_calls]

theorem callsOf_callBlocks : Machine.Calls (Scope.logged callBlocks) where
  journal := by simp [callBlocks]
  interrupts := by simp [callBlocks]
  calls := by simp [callBlocks]
  alerts := by simp [callBlocks]

theorem stays_repeatCall (origin : Origin) (c : Call) (s : State) : Stays (Scope.logged callBlocks) s (repeatCall n k origin c s) := by
  unfold repeatCall
  have calls := callsOf_callBlocks
  have counted := (Stays.refl (f := Scope.logged callBlocks) s).thenUpdCall calls.calls n k fun c => { c with repeats := satAdd 255 c.repeats 1 }
  refine (Stays.thenLog ?_ calls.toJournals _ _ _ _ _).thenFollow { display := by simp [callBlocks], rendering := by simp [callBlocks] } s
  split
  · exact counted
  · exact counted.thenEscalateRepeat calls n k

theorem escalateRepeat_calls {c : Call} (held : s.call n k = some c) : (escalateRepeat n k s).calls
    = if (s.ladder c.group).count ≤ c.level then s.calls else (setCall n k (some (s.climbed c s.tenths)) s).calls := by
  simp only [escalateRepeat, held, State.atTop, decide_eq_true_eq]
  split
  · rfl
  · exact climb_calls held ..

/-- The entry of a call after a repeat. -/
def State.repeated (s : State) (c : Call) : Call :=
  let v := { c with repeats := satAdd 255 c.repeats 1 }
  if c.answered = true ∨ (s.ladder c.group).count ≤ c.level then v else s.climbed v s.tenths

theorem repeated_stands {c : Call} (top : c.answered = true ∨ (s.ladder c.group).count ≤ c.level) :
    s.repeated c = { c with repeats := satAdd 255 c.repeats 1 } := if_pos top

theorem repeated_climbs {c : Call} (below : ¬ (c.answered = true ∨ (s.ladder c.group).count ≤ c.level)) :
    s.repeated c = s.climbed { c with repeats := satAdd 255 c.repeats 1 } s.tenths := if_neg below

theorem repeatCall_table {c : Call} (held : s.call n k = some c) (origin : Origin) :
    (∀ m j, (repeatCall n k origin c s).call m j = if (m, j) = (n, k) then some (s.repeated c) else s.call m j)
      ∧ (repeatCall n k origin c s).calls.active = s.calls.active
      ∧ (repeatCall n k origin c s).calls.nextSerial = s.calls.nextSerial := by
  have counted (m : Fin 160) (j : Kind) : (updCall n k (fun c => { c with repeats := satAdd 255 c.repeats 1 }) s).call m j
      = if (m, j) = (n, k) then some { c with repeats := satAdd 255 c.repeats 1 } else s.call m j := by
    rw [updCall, setCall_call, held]
    rfl
  have calls := repeatCall_calls (n := n) (k := k) (c := c) origin s
  have held' := (counted n k).trans (if_pos rfl)
  by_cases top : c.answered = true ∨ (s.ladder c.group).count ≤ c.level
  · have stands : (repeatCall n k origin c s).calls = (updCall n k (fun c => { c with repeats := satAdd 255 c.repeats 1 }) s).calls := by
      rw [calls]
      rcases top with answered | top
      · rw [if_pos answered]
      · split
        · rfl
        · exact (escalateRepeat_calls held').trans (if_pos top)
    refine ⟨fun m j => ?_, by rw [stands]; rfl, by rw [stands]; rfl⟩
    rw [call_congr stands, counted, State.repeated, if_pos top]
  · obtain ⟨raised, below⟩ := not_or.1 top
    have climbs : (repeatCall n k origin c s).calls = (setCall n k (some (s.climbed { c with repeats := satAdd 255 c.repeats 1 } s.tenths))
        (updCall n k (fun c => { c with repeats := satAdd 255 c.repeats 1 }) s)).calls := by
      rw [calls, if_neg raised]
      exact (escalateRepeat_calls held').trans (if_neg below)
    refine ⟨fun m j => ?_, by rw [climbs]; rfl, by rw [climbs]; rfl⟩
    rw [call_congr climbs, setCall_call, counted, State.repeated, if_neg top]
    split <;> rfl

/-! ### RAISE CALL (R64) -/

/-- RAISE CALL's state. -/
def raised (n : Fin 160) (k : Kind) (z : Fin 8) (s : State) : State :=
  callsOnly s (rewriteCallRows s n (s.pressGroup n k) z (kindPress n z k .order s))

theorem raised_calls (n : Fin 160) (k : Kind) (z : Fin 8) (s : State) : (raised n k z s).calls = (kindPress n z k .order s).calls := rfl

theorem raised_shift (n : Fin 160) (k : Kind) (z : Fin 8) (s : State) :
    (raised n k z s).shift = tallyOf s.shift (kindPress n z k .order s).shift := rfl

theorem raised_ord (same : (kindPress n z k .order s).ord = s.ord) : (raised n k z s).ord = s.ord := callsOnly_ord same

theorem raiseCall_presses {b x : Byte} (station : b.toNat = num n) (kind : x.toNat = k.code) (here : s.stationZone n = some z)
    (working : s.setup.service[z] = .inService) : raiseCall b x s = (raised n k z s,
      some (raiseAnswer (s.call n k).isSome (((raised n k z s).call n k).getD (s.newCall n z k .order)))) := by
  simp only [raiseCall, callParams_names station kind, here, working]
  rfl

theorem kindPress_opens (origin : Origin) (free : s.call n k = none) : kindPress n z k origin s = openCall n z k origin s := by
  simp only [kindPress, free]

theorem kindPress_repeats {c : Call} (origin : Origin) (held : s.call n k = some c) :
    kindPress n z k origin s = repeatCall n k origin c s := by
  simp only [kindPress, held]

/-- Settles O34: a press of a free kind opens a call, one of an open kind repeats it. -/
theorem raiseCallOpensOrRepeats : Obligations.RaiseCallOpensOrRepeats := by
  refine ⟨fun p b x s n k z ready station kind here working free => ?_, fun p b x s n k z c ready station kind here working held => ?_⟩
  · intro ladder stop c
    have new : (handed p (.raiseCall b x) s).newCall n z k .order = c := by
      simp only [State.newCall, c, climbTime_zero]
      rfl
    have press := kindPress_opens (n := n) (z := z) (s := handed p (.raiseCall b x) s) .order free
    have calls := (raised_calls n k z (handed p (.raiseCall b x) s)).trans (congrArg State.calls press)
    have shift := (raised_shift n k z (handed p (.raiseCall b x) s)).trans (congrArg (tallyOf _) (congrArg State.shift press))
    have ord := raised_ord ((congrArg State.ord press).trans (openCall_ord ..))
    have entry (m : Fin 160) (j : Kind) : (raised n k z (handed p (.raiseCall b x) s)).call m j
        = if (m, j) = (n, k) then some c else s.call m j := by
      rw [call_congr calls, openCall_call, new]
      rfl
    have answer := raiseCall_presses (s := handed p (.raiseCall b x) s) station kind here working
    have free' : (handed p (.raiseCall b x) s).call n k = none := free
    rw [entry, if_pos rfl, new, free'] at answer
    generalize raised n k z (handed p (.raiseCall b x) s) = t at calls shift ord entry answer
    refine .intro rfl ready answer ord ⟨?_, ?_, ?_, fun m j ne => ?_, ?_⟩
    · rw [answered_call, entry, if_pos rfl]
    · rw [answered_calls, calls, openCall_calls, (countRaised_lists ..).2]
      rfl
    · rw [answered_calls, calls, openCall_calls]
      simp only [(countRaised_lists _).1]
      exact (upd_getElem ..).trans (if_pos rfl)
    · rw [answered_call, entry, if_neg ne]
    · rw [answered_shift, shift, openCall_shift]
      exact countRaised_count _
  · intro repeats ladder
    have press := kindPress_repeats (z := z) (s := handed p (.raiseCall b x) s) .order held
    obtain ⟨table, active, serial⟩ := repeatCall_table (s := handed p (.raiseCall b x) s) held .order
    obtain ⟨-, -, ord, shift⟩ := (stays_repeatCall (n := n) (k := k) .order c (handed p (.raiseCall b x) s)).callFrame
    have calls := (raised_calls n k z (handed p (.raiseCall b x) s)).trans (congrArg State.calls press)
    have shift' := (raised_shift n k z (handed p (.raiseCall b x) s)).trans
      (congrArg (tallyOf _) ((congrArg State.shift press).trans shift))
    have ord' := raised_ord ((congrArg State.ord press).trans ord)
    have entry (m : Fin 160) (j : Kind) := (call_congr calls m j).trans (table m j)
    have answer := raiseCall_presses (s := handed p (.raiseCall b x) s) station kind here working
    have held' : (handed p (.raiseCall b x) s).call n k = some c := held
    rw [entry, if_pos rfl, held'] at answer
    generalize raised n k z (handed p (.raiseCall b x) s) = t at calls shift' ord' entry answer
    have shown : raiseAnswer (some c).isSome ((some ((handed p (.raiseCall b x) s).repeated c)).getD
          ((handed p (.raiseCall b x) s).newCall n z k .order))
        = done 1 (leBytes 4 c.serial ++ [BitVec.ofNat 8 c.stop.code, BitVec.ofNat 8 repeats, 0]) := by
      simp only [State.repeated, Option.getD_some]
      split <;> rfl
    rw [shown] at answer
    refine .intro rfl ready answer ord' ⟨fun top => ?_, fun raised below => ?_, fun m j ne => ?_, ?_, ?_, ?_⟩
    · rw [answered_call, entry, if_pos rfl, repeated_stands (s := handed p (.raiseCall b x) s) top]
      rfl
    · have climbs : ¬ (c.answered = true ∨ ((handed p (.raiseCall b x) s).ladder c.group).count ≤ c.level) := by
        rintro (answered | top)
        · simp [raised] at answered
        · exact absurd below (Nat.not_lt.2 top)
      rw [answered_call, entry, if_pos rfl, repeated_climbs climbs]
      rfl
    · rw [answered_call, entry, if_neg ne]
      rfl
    · rw [answered_calls, calls, active]
      rfl
    · rw [answered_calls, calls, serial]
      rfl
    · rw [answered_shift, shift']
      rfl

end Sys2Proof.Machine
end

section
/-! Proofs for ANSWER CALL and CLEAR CALL (sections 4.2, 4.3 and 4.5). -/

namespace Sys2Proof.Machine

variable {p : Post} {o : Order} {s t u : State} {n : Fin 160} {k : Kind} {z : Fin 8}

/-! ### A removal from a demand set -/

theorem endSupervision_same (d : Fin 8) (s : State) :
    (endSupervision d s).ord = s.ord ∧ (endSupervision d s).calls = s.calls := by
  unfold endSupervision
  dsimp only
  split <;> exact ⟨rfl, rfl⟩

theorem releaseStop_keeps (d : Fin 8) (x y : Nat) (s : State) : (releaseStop d x y s).setup = s.setup
    ∧ (releaseStop d x y s).ms = s.ms ∧ (releaseStop d x y s).calls = s.calls ∧ (releaseStop d x y s).ord = s.ord := by
  obtain ⟨setup, -, -, ms, -⟩ := endSupervision_keeps d (log kindStopReleased x (num d) (satTo 65535 y) (s.drive d).pitch.toNat
    (updDrive d (fun v => { v with stopRequest := false }) s))
  obtain ⟨ord, calls⟩ := endSupervision_same d (log kindStopReleased x (num d) (satTo 65535 y) (s.drive d).pitch.toNat
    (updDrive d (fun v => { v with stopRequest := false }) s))
  exact ⟨setup, ms, calls, ord⟩

theorem removeDemand_keeps (d : Fin 8) (gone : Demand → Bool) (x : Nat) (s : State) : (removeDemand d gone x s).setup = s.setup
    ∧ (removeDemand d gone x s).ms = s.ms ∧ (removeDemand d gone x s).calls = s.calls ∧ (removeDemand d gone x s).ord = s.ord := by
  unfold removeDemand
  dsimp only
  split
  · exact ⟨rfl, rfl, rfl, rfl⟩
  · rw [follow_setup, follow_ms, follow_calls, follow_ord, reevaluate_setup, reevaluate_ms, reevaluate_calls, reevaluate_ord]
    split
    · exact releaseStop_keeps ..
    · exact ⟨rfl, rfl, rfl, rfl⟩

/-- A removed entry is gone. -/
theorem removeDemand_gone (d : Fin 8) {gone : Demand → Bool} {e : Demand} (names : gone e = true) (x : Nat) (s : State) :
    ((removeDemand d gone x s).drive d).demand.contains e = false := by
  rw [removeDemand_demand, Bool.eq_false_iff]
  intro h
  have := List.contains_iff_mem.1 h
  simp [names] at this

/-! ### The answer of one call (R60, R88) -/

/-- The stop status of an answered call (R88). -/
def State.answeredStop (s : State) (f : ZoneDef) : StopStatus → StopStatus
  | .none => .none
  | .armed old => .armed (extended (s.drive f.drive).pitch old f.extension)
  | .due at_ => if f.extension = 0 then .due at_ else .armed ((s.drive f.drive).pitch + BitVec.ofNat 16 f.extension)

theorem answerStop_table {r : CallRef} {c : Call} {f : ZoneDef} (zone : s.zone z = some f) (held : s.callAt r = some c) :
    (∀ m j, (answerStop r z s).call m j
        = if (m, j) = (r.station, r.kind) then some { c with stop := s.answeredStop f c.stop } else s.call m j)
      ∧ (answerStop r z s).calls.active = s.calls.active ∧ (answerStop r z s).ord = s.ord
      ∧ (∀ at_, c.stop = .due at_ → f.extension ≠ 0 → ((answerStop r z s).drive f.drive).demand.contains (.call r) = false) := by
  have stands : (m : Fin 160) → (j : Kind) → (x : Call) → x = c → s.call m j = if (m, j) = (r.station, r.kind) then some x else s.call m j := by
    intro m j x same
    split
    · next named =>
      obtain ⟨rfl, rfl⟩ := Prod.mk.inj named
      rw [same]
      exact held
    · rfl
  have changed (g : Call → Call) (m : Fin 160) (j : Kind) : (updCall r.station r.kind g s).call m j
      = if (m, j) = (r.station, r.kind) then some (g c) else s.call m j := by
    rw [updCall, setCall_call]
    split
    · exact congrArg (Option.map g) held
    · rfl
  simp only [answerStop, zone, held]
  cases stop : c.stop with
  | none => exact ⟨fun m j => stands m j _ (by rw [State.answeredStop, ← stop]), rfl, rfl, fun at_ h => by simp at h⟩
  | armed old => exact ⟨fun m j => changed _ m j, rfl, rfl, fun at_ h => by simp at h⟩
  | due x =>
    by_cases none_ : f.extension = 0
    · simp only [if_pos none_]
      exact ⟨fun m j => stands m j _ (by rw [State.answeredStop, if_pos none_, ← stop]), trivial, trivial, fun _ _ h => absurd none_ h⟩
    · simp only [if_neg none_]
      obtain ⟨-, -, calls, ord⟩ := removeDemand_keeps f.drive (isCallOf r) 1
        (updCall r.station r.kind (fun c => { c with stop := .armed ((s.drive f.drive).pitch + BitVec.ofNat 16 f.extension) }) s)
      refine ⟨fun m j => ?_, by rw [calls]; rfl, ord, fun _ _ _ => removeDemand_gone _ (by simp [isCallOf]) ..⟩
      rw [call_congr calls, changed, State.answeredStop, if_neg none_]

/-- The entry of a call that is answered. -/
def State.answeredCall (s : State) (f : ZoneDef) (c : Call) : Call :=
  { c with answered := true, answeredAt := some s.partTime, nextEscalation := none, stop := s.answeredStop f c.stop }

/-- A call marked answered, before the drive unit's part. -/
def marked (n : Fin 160) (k : Kind) (s : State) : State := reevaluateAlerts (updCall n k
  (fun c => { c with answered := true, answeredAt := some s.partTime, nextEscalation := none }) s)

theorem answerOne_eq (source : Nat) (c : Call) (s : State) : answerOne n z k source c s
    = follow s (logCall kindCallAnswered (k.code + 4 * source) n c (s.secondsOpen c) (answerStop ⟨n, k, c.serial⟩ z (marked n k s))) := rfl

theorem answerOne_table {c : Call} {f : ZoneDef} (zone : s.zone z = some f) (held : s.call n k = some c) (source : Nat) :
    (∀ m j, (answerOne n z k source c s).call m j = if (m, j) = (n, k) then some (s.answeredCall f c) else s.call m j)
      ∧ (answerOne n z k source c s).calls.active = s.calls.active ∧ (answerOne n z k source c s).ord = s.ord
      ∧ (∀ at_, c.stop = .due at_ → f.extension ≠ 0 →
          ((answerOne n z k source c s).drive f.drive).demand.contains (.call ⟨n, k, c.serial⟩) = false) := by
  have entry : (marked n k s).callAt ⟨n, k, c.serial⟩
      = some { c with answered := true, answeredAt := some s.partTime, nextEscalation := none } := by
    refine (updCall_call_same n k (fun c => { c with answered := true, answeredAt := some s.partTime, nextEscalation := none }) s).trans ?_
    rw [held]
    rfl
  obtain ⟨table, active, ord, gone⟩ := answerStop_table (s := marked n k s) (r := ⟨n, k, c.serial⟩) zone entry
  have calls : (answerOne n z k source c s).calls = (answerStop ⟨n, k, c.serial⟩ z (marked n k s)).calls := by
    rw [answerOne_eq, follow_calls, logCall, log_calls]
  refine ⟨fun m j => ?_, ?_, ?_, fun at_ due extends_ => ?_⟩
  · rw [call_congr calls, table]
    by_cases named : (m, j) = (n, k)
    · rw [if_pos named, if_pos named]
      rfl
    · rw [if_neg named, if_neg named]
      exact updCall_call_other named _ s
  · rw [calls, active]
    rfl
  · rw [answerOne_eq, follow_ord, logCall, log_ord, ord]
    rfl
  · rw [answerOne_eq, follow_drive, logCall, log_drive]
    exact gone at_ due extends_

/-- ANSWER CALL's state. -/
def answeredOne (n : Fin 160) (k : Kind) (z : Fin 8) (c : Call) (s : State) : State :=
  callsOnly s (rewriteCallRows s n (groupRow c.group) z (answerOne n z k 1 c s))

theorem rewriteCallRows_drive (old : State) (n : Fin 160) (groups : List Row) (z : Fin 8) (s : State) (d : Fin 8) :
    (rewriteCallRows old n groups z s).drive d = s.drive d := rfl

theorem callsOnly_drive (s t : State) (d : Fin 8) : (callsOnly s t).drive d = t.drive d := rfl

theorem answeredOne_keeps (n : Fin 160) (k : Kind) (z : Fin 8) (c : Call) (s : State) :
    (answeredOne n k z c s).calls = (answerOne n z k 1 c s).calls
      ∧ ∀ d, (answeredOne n k z c s).drive d = (answerOne n z k 1 c s).drive d := by
  refine ⟨?_, fun d => ?_⟩
  · rw [answeredOne, callsOnly_calls, rewriteCallRows_calls]
  · rw [answeredOne, callsOnly_drive, rewriteCallRows_drive]

theorem answeredOne_ord {c : Call} (same : (answerOne n z k 1 c s).ord = s.ord) : (answeredOne n k z c s).ord = s.ord :=
  callsOnly_ord ((rewriteCallRows_ord ..).trans same)

theorem answerCall_none {b x : Byte} (station : b.toNat = num n) (kind : x.toNat = k.code) (free : s.call n k = none) :
    answerCall b x s = (s, some (refuse resState 1)) := by
  simp only [answerCall, callParams_names station kind, free]

theorem answerCall_again {b x : Byte} {c : Call} (station : b.toNat = num n) (kind : x.toNat = k.code) (held : s.call n k = some c)
    (here : s.stationZone n = some z) (answered : c.answered = true) : answerCall b x s = (s, some (answerAnswer 2 c)) := by
  simp only [answerCall, callParams_names station kind, held, here]
  exact if_pos answered

theorem answerCall_answers {b x : Byte} {c : Call} (station : b.toNat = num n) (kind : x.toNat = k.code) (held : s.call n k = some c)
    (here : s.stationZone n = some z) (raised : c.answered = false) : answerCall b x s
      = (answeredOne n k z c s, some (answerAnswer 0 (((answeredOne n k z c s).call n k).getD c))) := by
  simp only [answerCall, callParams_names station kind, held, here]
  exact if_neg (by simp [raised])

/-! ### The clear of one call (R63, R89) -/

theorem changeService_drives (z : Fin 8) (v : Service) (x : Option (Fin 24)) (a b : Nat) (s : State) :
    (changeService z v x a b s).drv.drives = s.drv.drives := by
  have accrued : (accrue z s).drv = s.drv := rfl
  unfold changeService
  simp only [log_drv, writeRow_drv]
  split
  · unfold showOpen showSlot
    split
    · split <;> rfl
    · rfl
  · rfl

theorem zoneLeft_drives (z : Fin 8) (s : State) : (zoneLeft z s).drv.drives = s.drv.drives := by
  unfold zoneLeft
  split
  · rfl
  · split
    · exact closeRecord_drv_drives ..
    · rfl

theorem endLong_drv (k : Fin 24) (a : Answer) (s : State) : (endLong k a s).drv = s.drv := by
  unfold endLong
  split
  · rfl
  · dsimp only
    split
    · rfl
    · unfold violation
      split <;> rfl

theorem reportClosing_drives (z : Fin 8) (s : State) : (reportClosing z s).drv.drives = s.drv.drives := by
  have left : (follow s (zoneLeft z (changeService z .outOfService none 0 3 s))).drv.drives = s.drv.drives := by
    rw [follow_drv_drives, zoneLeft_drives, changeService_drives]
  unfold reportClosing
  split
  · unfold completeDrain
    rw [serviceOnly_drv]
    split
    · rw [endLong_drv]
      exact left
    · exact left
  · rfl

theorem reportClosing_calls (z : Fin 8) (s : State) : (reportClosing z s).calls = s.calls :=
  ((Stays.refl (f := Scope.onBlocks [.service, .orders, .drives, .attribution, .display, .rendering, .journal, .interrupts] false)
    s).thenReportClosing {} z).blocks .calls (by simp)

/-- A call taken out of the table and out of its zone's list. -/
def cleared (n : Fin 160) (z : Fin 8) (k : Kind) (c : Call) (s : State) : State :=
  { setCall n k none s with calls := { (setCall n k none s).calls with
    active := upd s.calls.active z fun l => l.filter fun r => r.serial != c.serial } }

/-- A clear before it is reported to the setup unit. -/
def clearing (n : Fin 160) (z : Fin 8) (k : Kind) (reason : Nat) (c : Call) (s : State) : State :=
  follow s (reevaluateAlerts (cleared n z k c
    (logCall kindCallCleared (k.code + 4 * reason) n c (s.secondsOpen c) (clearStop ⟨n, k, c.serial⟩ z s))))

theorem clearOne_eq (reason : Nat) (c : Call) (s : State) : clearOne n z k reason c s = reportClosing z (clearing n z k reason c s) := rfl

theorem clearStop_keeps (r : CallRef) (z : Fin 8) (s : State) :
    (clearStop r z s).setup = s.setup ∧ (clearStop r z s).ms = s.ms ∧ (clearStop r z s).calls = s.calls ∧ (clearStop r z s).ord = s.ord := by
  unfold clearStop
  split
  · exact removeDemand_keeps ..
  · exact ⟨rfl, rfl, rfl, rfl⟩

theorem cleared_calls (same : t.calls = s.calls) (c : Call) : (cleared n z k c t).calls = (cleared n z k c s).calls := by
  simp only [cleared, setCall, same]

theorem clearing_calls (reason : Nat) (c : Call) (s : State) : (clearing n z k reason c s).calls = (cleared n z k c s).calls := by
  obtain ⟨-, -, calls, -⟩ := clearStop_keeps ⟨n, k, c.serial⟩ z s
  have logged : (logCall kindCallCleared (k.code + 4 * reason) n c (s.secondsOpen c) (clearStop ⟨n, k, c.serial⟩ z s)).calls = s.calls := by
    rw [logCall, log_calls, calls]
  rw [clearing, follow_calls, reevaluateAlerts_calls]
  exact cleared_calls logged c

/-- The call table after a clear. -/
theorem clearOne_table (reason : Nat) (c : Call) (s : State) :
    (∀ m j, (clearOne n z k reason c s).call m j = if (m, j) = (n, k) then none else s.call m j)
      ∧ (∀ y : Fin 8, (clearOne n z k reason c s).calls.active[y]
        = if y = z then s.calls.active[y].filter (fun r => r.serial != c.serial) else s.calls.active[y]) := by
  have calls : (clearOne n z k reason c s).calls = (cleared n z k c s).calls := by
    rw [clearOne_eq, reportClosing_calls, clearing_calls]
  refine ⟨fun m j => (call_congr calls m j).trans (setCall_call ..), fun y => ?_⟩
  simp only [calls]
  exact upd_getElem ..

theorem clearing_drive (reason : Nat) (c : Call) (s : State) (d : Fin 8) :
    (clearing n z k reason c s).drive d = (clearStop ⟨n, k, c.serial⟩ z s).drive d := by
  have alerts (u : State) : (reevaluateAlerts (cleared n z k c u)).drive d = u.drive d := rfl
  rw [clearing, follow_drive, alerts, logCall, log_drive]

theorem clearOne_demand {d : Fin 8} (on_ : s.zoneDrive z = some d) (reason : Nat) (c : Call) :
    ((clearOne n z k reason c s).drive d).demand.contains (.call ⟨n, k, c.serial⟩) = false := by
  have drive : (clearOne n z k reason c s).drive d = (clearStop ⟨n, k, c.serial⟩ z s).drive d := by
    rw [clearOne_eq, State.drive, reportClosing_drives]
    exact clearing_drive ..
  have stop : clearStop ⟨n, k, c.serial⟩ z s = removeDemand d (isCallOf ⟨n, k, c.serial⟩) 2 s := by
    rw [clearStop, on_]
  rw [drive, stop]
  exact removeDemand_gone _ (by simp [isCallOf]) ..

/-- CLEAR CALL's state. -/
def clearedOne (n : Fin 160) (k : Kind) (z : Fin 8) (c : Call) (s : State) : State :=
  callsOnly s (rewriteCallRows s n (groupRow c.group) z (clearOne n z k clearOrder c s))

theorem clearedOne_keeps (n : Fin 160) (k : Kind) (z : Fin 8) (c : Call) (s : State) :
    (clearedOne n k z c s).calls = (clearOne n z k clearOrder c s).calls
      ∧ (∀ d, (clearedOne n k z c s).drive d = (clearOne n z k clearOrder c s).drive d)
      ∧ (clearedOne n k z c s).ord.takePos = s.ord.takePos := by
  refine ⟨?_, fun d => ?_, rfl⟩
  · rw [clearedOne, callsOnly_calls, rewriteCallRows_calls]
  · rw [clearedOne, callsOnly_drive, rewriteCallRows_drive]

theorem clearCall_none {b x : Byte} (station : b.toNat = num n) (kind : x.toNat = k.code) (free : s.call n k = none) :
    clearCall b x s = (s, some (refuse resState 1)) := by
  simp only [clearCall, callParams_names station kind, free]

theorem clearCall_clears {b x : Byte} {c : Call} (station : b.toNat = num n) (kind : x.toNat = k.code) (held : s.call n k = some c)
    (here : s.stationZone n = some z) : clearCall b x s = (clearedOne n k z c s,
      some (done (if c.answered then 2 else 1) (leBytes 4 c.serial ++ leBytes 4 (tenthsBetween c.raisedAt s.partTime)))) := by
  simp only [clearCall, callParams_names station kind, held, here]
  rfl

/-- Settles O35: an answer sets the call's stop status by the zone's extension, a clear takes the call from every list. -/
theorem callsAreAnsweredAndCleared : Obligations.CallsAreAnsweredAndCleared := by
  refine ⟨fun p b x s n k ready station kind => ⟨fun free => ?_, fun c z f held here zone => ?_⟩,
    fun p b x s n k ready station kind => ⟨fun free => ?_, fun c z held here => ?_⟩⟩
  · exact .intro rfl ready (answerCall_none (s := handed p _ s) station kind free) rfl (answered_calls ..)
  · intro v ahead stop
    refine ⟨fun again => ?_, fun fresh => ?_⟩
    · exact .intro rfl ready (answerCall_again (s := handed p _ s) station kind held here again) rfl ⟨answered_calls .., answered_jrn ..⟩
    · have status : (handed p (.answerCall b x) s).answeredStop f c.stop = stop := by
        cases before : c.stop with
        | none => simp only [stop, before]; rfl
        | armed old => simp only [stop, before]; rfl
        | due at_ => simp only [stop, before]; rfl
      obtain ⟨table, active, ord, gone⟩ := answerOne_table (s := handed p (.answerCall b x) s) (k := k) zone held 1
      obtain ⟨calls, drive⟩ := answeredOne_keeps n k z c (handed p (.answerCall b x) s)
      have ord' := answeredOne_ord ord
      have entry (m : Fin 160) (j : Kind) := (call_congr calls m j).trans (table m j)
      have answer := answerCall_answers (s := handed p (.answerCall b x) s) station kind held here fresh
      rw [entry, if_pos rfl] at answer
      generalize answeredOne n k z c (handed p (.answerCall b x) s) = t at calls drive ord' entry answer
      have shown : answerAnswer 0 ((some ((handed p (.answerCall b x) s).answeredCall f c)).getD c)
          = done 0 (leBytes 4 c.serial ++ [BitVec.ofNat 8 stop.code]) := by
        rw [← status]
        rfl
      rw [shown] at answer
      refine .intro rfl ready answer ord' ⟨?_, fun m j ne => ?_, ?_, fun at_ due extends_ => ?_⟩
      · rw [answered_call, entry, if_pos rfl, State.answeredCall, status]
        rfl
      · rw [answered_call, entry, if_neg ne]
        rfl
      · rw [answered_calls, calls, active]
        rfl
      · rw [answered_drive, drive]
        exact gone at_ due extends_
  · exact .intro rfl ready (clearCall_none (s := handed p _ s) station kind free) rfl (answered_calls ..)
  · obtain ⟨calls, drive, pos⟩ := clearedOne_keeps n k z c (handed p (.clearCall b x) s)
    obtain ⟨table, active⟩ := clearOne_table (n := n) (k := k) (z := z) clearOrder c (handed p (.clearCall b x) s)
    have demand := fun d on_ => clearOne_demand (s := handed p (.clearCall b x) s) (n := n) (k := k) (z := z) (d := d) on_ clearOrder c
    refine .ends rfl ready (clearCall_clears (s := handed p _ s) station kind held here) pos ?_
    generalize clearedOne n k z c (handed p (.clearCall b x) s) = t at calls drive
    generalize clearOne n z k clearOrder c (handed p (.clearCall b x) s) = u at calls drive table active demand
    refine ⟨?_, fun m j ne => ?_, ?_, fun d on_ => ?_⟩
    · rw [answered_call, call_congr calls, table, if_pos rfl]
    · rw [answered_call, call_congr calls, table, if_neg ne]
      rfl
    · simp only [answered_calls, calls, active]
      rw [if_pos trivial]
      rfl
    · rw [answered_drive, drive]
      exact demand d on_

end Sys2Proof.Machine
end

section
/-! Proofs for the orders of zone service: PLACE ZONE IN SERVICE, TAKE ZONE OUT OF SERVICE and FORCE DRAIN (section 2.7). -/

namespace Sys2Proof.Machine

variable {p : Post} {o : Order} {s t u : State} {z : Fin 8}

/-! ### A change of a zone's service state (R32) -/

/-- The setup with one zone's service state, drain slot and drain count changed. -/
def serviceSet (z : Fin 8) (v : Service) (slot : Option (Fin 24)) (calls : Nat) (x : Setup) : Setup :=
  { x with service := upd x.service z fun _ => v, drainSlot := upd x.drainSlot z fun _ => slot,
           drainCalls := upd x.drainCalls z fun _ => calls }

theorem serviceSet_service (z y : Fin 8) (v : Service) (slot : Option (Fin 24)) (calls : Nat) (x : Setup) :
    (serviceSet z v slot calls x).service[y] = if y = z then v else x.service[y] := upd_getElem ..

theorem serviceSet_drainSlot (z : Fin 8) (v : Service) (slot : Option (Fin 24)) (calls : Nat) (x : Setup) :
    (serviceSet z v slot calls x).drainSlot[z] = slot := (upd_getElem ..).trans (if_pos rfl)

theorem serviceSet_drainCalls (z : Fin 8) (v : Service) (slot : Option (Fin 24)) (calls : Nat) (x : Setup) :
    (serviceSet z v slot calls x).drainCalls[z] = calls := (upd_getElem ..).trans (if_pos rfl)

theorem showOpen_setup (d : Fin 8) (s : State) : (showOpen d s).setup = s.setup ∧ (showOpen d s).ord = s.ord
    ∧ (showOpen d s).calls = s.calls := by
  unfold showOpen showSlot
  split
  · split <;> exact ⟨rfl, rfl, rfl⟩
  · exact ⟨rfl, rfl, rfl⟩

theorem changeService_keeps (z : Fin 8) (v : Service) (x : Option (Fin 24)) (a b : Nat) (s : State) :
    (changeService z v x a b s).setup = serviceSet z v x a s.setup ∧ (changeService z v x a b s).ord = s.ord
      ∧ (changeService z v x a b s).calls = s.calls := by
  have shown : ∀ d, (showOpen d (accrue z s)).setup = s.setup ∧ (showOpen d (accrue z s)).ord = s.ord
      ∧ (showOpen d (accrue z s)).calls = s.calls := fun d => showOpen_setup d (accrue z s)
  unfold changeService
  simp only [log_setup, log_ord, log_calls, writeRow_setup, writeRow_ord, writeRow_calls]
  cases s.zoneDrive z with
  | none => exact ⟨rfl, rfl, rfl⟩
  | some d =>
    obtain ⟨setup, ord, calls⟩ := shown d
    exact ⟨congrArg (serviceSet z v x a) setup, ord, calls⟩

theorem zoneLeft_keeps (z : Fin 8) (s : State) : (zoneLeft z s).setup = s.setup ∧ (zoneLeft z s).ord = s.ord ∧ (zoneLeft z s).calls = s.calls := by
  unfold zoneLeft
  split
  · exact ⟨rfl, rfl, rfl⟩
  · split
    · exact ⟨closeRecord_setup .., closeRecord_ord .., closeRecord_calls ..⟩
    · exact ⟨rfl, rfl, rfl⟩

theorem zoneJoins_setup (z : Fin 8) (s : State) : (zoneJoins z s).setup = s.setup := by
  unfold zoneJoins
  split
  · rfl
  · split
    · split <;> rfl
    · split
      · exact openRecordFor_setup ..
      · rfl

theorem serviceOnly_setup {x : Setup} {s t : State} {v : Service} {slot : Option (Fin 24)} {calls : Nat} (old : s.setup = x)
    (new : t.setup = serviceSet z v slot calls x) : (serviceOnly s t).setup = serviceSet z v slot calls x := by
  show serviceOf s.setup t.setup = _
  rw [new, old]
  rfl

theorem serviceOnly_ord {s t : State} (same : t.ord = s.ord) : (serviceOnly s t).ord = s.ord := by
  show orderEnds s.ord t.ord = s.ord
  rw [same]
  rfl

theorem zoneDrive_congr (zones : t.setup.zones = s.setup.zones) (z : Fin 8) : t.zoneDrive z = s.zoneDrive z := by
  simp only [State.zoneDrive, State.zone, zones]

theorem zoneDrive_of_zone {f : ZoneDef} (zone : s.zone z = some f) : s.zoneDrive z = some f.drive := by
  rw [State.zoneDrive, zone]
  rfl

/-! ### PLACE ZONE IN SERVICE (R33) -/

theorem addPanelDemand_eq {d : Fin 8} (here : s.zoneDrive z = some d) (q : Fin 40) :
    (addPanelDemand q z s).1 = demandOnly s (addDemand d (.panel q z) 3 (num q) s) := by
  simp only [addPanelDemand, here]

theorem addPanelDemand_setup (q : Fin 40) (z : Fin 8) (s : State) : (addPanelDemand q z s).1.setup = s.setup := by
  unfold addPanelDemand
  split
  · rfl
  · exact demandOnly_setup ..

theorem each_addPanelDemand {d : Fin 8} (l : List (Fin 40)) (s : State) (here : s.zoneDrive z = some d) :
    (each l (fun q t => (addPanelDemand q z t).1) s).setup = s.setup
      ∧ (∀ e ∈ (s.drive d).demand, e ∈ ((each l (fun q t => (addPanelDemand q z t).1) s).drive d).demand)
      ∧ ∀ q ∈ l, .panel q z ∈ ((each l (fun q t => (addPanelDemand q z t).1) s).drive d).demand := by
  induction l generalizing s with
  | nil => exact ⟨rfl, fun e he => he, fun q hq => by simp at hq⟩
  | cons q qs ih =>
    have setup := addPanelDemand_setup q z s
    obtain ⟨rest, kept, joined⟩ := ih (addPanelDemand q z s).1 ((zoneDrive_congr (congrArg Setup.zones setup) z).trans here)
    have drive : ((addPanelDemand q z s).1).drive d = (addDemand d (.panel q z) 3 (num q) s).drive d := by
      rw [addPanelDemand_eq here]
      simp only [State.drive, demandOnly_drv]
    obtain ⟨-, -, -, -, stays, joins, -⟩ := addDemand_joins (d := d) (.panel q z) 3 (num q) s
    rw [← drive] at stays joins
    refine ⟨rest.trans setup, fun e he => kept e (stays e he), fun x hx => ?_⟩
    rcases List.mem_cons.1 hx with rfl | hx
    · exact kept _ joins
    · exact joined x hx

/-- A zone in service, before its LOST panels are looked at. -/
def entered (z : Fin 8) (s : State) : State := follow s (zoneJoins z (changeService z .inService none 0 1 s))

theorem enterService_eq (z : Fin 8) (s : State) :
    enterService z 1 s = serviceOnly s (syncRows s (s.driveRow z) (addLostPanels z (entered z s))) := rfl

theorem entered_setup (z : Fin 8) (s : State) : (entered z s).setup = serviceSet z .inService none 0 s.setup := by
  rw [entered, follow_setup, zoneJoins_setup]
  exact (changeService_keeps ..).1

theorem entered_loop (z : Fin 8) (s : State) : (entered z s).loop = s.loop := by
  have stays : Stays (Scope.onBlocks [.service, .drives, .display, .attribution, .rendering, .journal, .interrupts] false) s (entered z s) :=
    (((Stays.refl s).thenChangeService {} z .inService none 0 1).thenZoneJoins (fun _ => {}) z).thenFollow {} s
  exact stays.blocks .loop (by simp)

theorem enterService_setup (z : Fin 8) (s : State) : (enterService z 1 s).setup = serviceSet z .inService none 0 s.setup := by
  rw [enterService_eq]
  refine serviceOnly_setup rfl ?_
  rw [syncRows_setup, addLostPanels_setup]
  exact entered_setup z s

theorem serves_congr (zones : t.setup.zones = s.setup.zones) (q : Fin 40) (z : Fin 8) : t.serves q z = s.serves q z := by
  have holds : t.zoneHolds = s.zoneHolds := funext fun n => funext fun z => by simp only [State.zoneHolds, State.zone, zones]
  simp only [State.serves, holds]

/-- Under the HOLD policy every LOST panel that serves the zone has its entry in the drive's set. -/
theorem enterService_demand {f : ZoneDef} {q : Fin 40} (zone : s.zone z = some f) (holds : f.ignoreLoss = false)
    (lost : (s.loop.panels[q]).state = .lost) (serves : s.serves q z = true) :
    ((enterService z 1 s).drive f.drive).demand.contains (.panel q z) = true := by
  have setup := entered_setup z s
  have zone' : (entered z s).zone z = some f := by simp only [State.zone, setup]; exact zone
  have here : (entered z s).zoneDrive z = some f.drive := zoneDrive_of_zone zone'
  have drive : (enterService z 1 s).drive f.drive = (addLostPanels z (entered z s)).drive f.drive := by
    rw [enterService_eq]
    simp only [State.drive, serviceOnly_drv, syncRows_drv]
  have panels : addLostPanels z (entered z s) = each ((List.finRange 40).filter fun p =>
      (entered z s).loop.panels[p].state == .lost && (entered z s).serves p z) (fun p t => (addPanelDemand p z t).1) (entered z s) := by
    simp only [addLostPanels, zone', holds, Bool.false_eq_true, if_false]
  obtain ⟨-, -, joined⟩ := each_addPanelDemand ((List.finRange 40).filter fun p =>
    (entered z s).loop.panels[p].state == .lost && (entered z s).serves p z) (entered z s) here
  rw [drive, panels]
  refine List.contains_iff_mem.2 (joined q (List.mem_filter.2 ⟨List.mem_finRange q, ?_⟩))
  have serves' : (entered z s).serves q z = true := (serves_congr (by rw [setup]; rfl) q z).trans serves
  rw [serves', entered_loop, lost]
  rfl

theorem placeZone_enters {b : Byte} {f : ZoneDef} (named : b.toNat = num z) (zone : s.zone z = some f)
    (driven : (s.setup.drives[f.drive]).isSome) (out : s.setup.service[z] = .outOfService) :
    placeZoneInService b s = (enterService z 1 s, some (done 1)) := by
  have some_ : (s.setup.drives[f.drive]).isNone = false := by simpa using driven
  simp only [placeZoneInService, index?_of_eq named, zone, some_, out, Bool.false_eq_true, if_false]

theorem placeZone_again {b : Byte} {f : ZoneDef} (named : b.toNat = num z) (zone : s.zone z = some f)
    (driven : (s.setup.drives[f.drive]).isSome) (in_ : s.setup.service[z] = .inService) :
    placeZoneInService b s = (s, some (done 0)) := by
  have some_ : (s.setup.drives[f.drive]).isNone = false := by simpa using driven
  simp only [placeZoneInService, index?_of_eq named, zone, some_, in_, Bool.false_eq_true, if_false]

/-! ### TAKE ZONE OUT OF SERVICE (R34) -/

theorem removeZoneDemands_eq {d : Fin 8} (here : s.zoneDrive z = some d) :
    removeZoneDemands z s = demandOnly s (syncRow s (.drive d) (removeDemand d (isZoneOf z) 5 s)) := by
  simp only [removeZoneDemands, here]

theorem removeZoneDemands_demand {d : Fin 8} (here : s.zoneDrive z = some d) :
    ((removeZoneDemands z s).drive d).demand = (s.drive d).demand.filter fun e => !isZoneOf z e := by
  rw [removeZoneDemands_eq here, demandOnly_syncRow_drive, removeDemand_demand]

theorem removeZoneDemands_keeps (z : Fin 8) (s : State) :
    (removeZoneDemands z s).setup = s.setup ∧ (removeZoneDemands z s).ord = s.ord := by
  unfold removeZoneDemands
  split
  · exact ⟨rfl, rfl⟩
  · exact ⟨demandOnly_setup .., demandOnly_ord ..⟩

/-- The state that a zone leaving IN SERVICE hands to its drive, for either way out. -/
structure Left (z : Fin 8) (v : Service) (slot : Option (Fin 24)) (calls : Nat) (s t : State) : Prop where
  setup : t.setup = serviceSet z v slot calls s.setup
  ord : t.ord = s.ord
  drives : t.drv.drives = s.drv.drives

theorem left_out (s : State) : Left z .outOfService none 0 s (follow s (zoneLeft z (changeService z .outOfService none 0 2 s))) := by
  obtain ⟨setup, ord, -⟩ := changeService_keeps z .outOfService none 0 2 s
  obtain ⟨setup', ord', -⟩ := zoneLeft_keeps z (changeService z .outOfService none 0 2 s)
  exact {
    setup := by rw [follow_setup, setup', setup]
    ord := by rw [follow_ord, ord', ord]
    drives := by rw [follow_drv_drives, zoneLeft_drives, changeService_drives] }

theorem left_draining (k : Fin 24) (s : State) :
    Left z .draining (some k) (s.openIn z) s (follow s (changeService z .draining (some k) (s.openIn z) 2 s)) := by
  obtain ⟨setup, ord, -⟩ := changeService_keeps z .draining (some k) (s.openIn z) 2 s
  exact {
    setup := by rw [follow_setup, setup]
    ord := by rw [follow_ord, ord]
    drives := by rw [follow_drv_drives, changeService_drives] }

theorem Left.taken {v : Service} {slot : Option (Fin 24)} {calls : Nat} {f : ZoneDef} (h : Left z v slot calls s t)
    (zone : s.zone z = some f) : (serviceOnly s (removeZoneDemands z t)).setup = serviceSet z v slot calls s.setup
      ∧ (serviceOnly s (removeZoneDemands z t)).ord = s.ord ∧ (serviceOnly s (removeZoneDemands z t)).calls = s.calls
      ∧ ((serviceOnly s (removeZoneDemands z t)).drive f.drive).demand = (s.drive f.drive).demand.filter (fun e => !isZoneOf z e) := by
  obtain ⟨setup, ord⟩ := removeZoneDemands_keeps z t
  have zone' : t.zone z = some f := by simp only [State.zone, h.setup]; exact zone
  have drive : (serviceOnly s (removeZoneDemands z t)).drive f.drive = (removeZoneDemands z t).drive f.drive := by
    simp only [State.drive, serviceOnly_drv]
  refine ⟨serviceOnly_setup rfl (setup.trans h.setup), serviceOnly_ord (ord.trans h.ord), serviceOnly_calls .., ?_⟩
  rw [drive, removeZoneDemands_demand (zoneDrive_of_zone zone')]
  simp only [State.drive, h.drives]

theorem takeZone_leaves {k : Fin 24} {b : Byte} {f : ZoneDef} (named : b.toNat = num z) (zone : s.zone z = some f)
    (in_ : s.setup.service[z] = .inService) (empty : s.calls.active[z] = []) : takeZoneOutOfService k b s
      = (leaveService z s, some (done 0)) := by
  have none_ : s.openIn z = 0 := by rw [State.openIn, empty]; rfl
  simp only [takeZoneOutOfService, index?_of_eq named, zone, in_, none_]
  rfl

theorem takeZone_drains {k : Fin 24} {b : Byte} {f : ZoneDef} (named : b.toNat = num z) (zone : s.zone z = some f)
    (in_ : s.setup.service[z] = .inService) (open_ : s.calls.active[z] ≠ []) : takeZoneOutOfService k b s
      = (beginDrain z k s, none) := by
  have some_ : ¬ s.openIn z = 0 := by rw [State.openIn, List.length_eq_zero_iff]; exact open_
  simp only [takeZoneOutOfService, index?_of_eq named, zone, in_, some_]
  rfl

/-! ### FORCE DRAIN (R35, R36) -/

/-- A drain that has ended: the zone is OUT OF SERVICE, and its slot, in work and TAKEN before, shows the end. -/
structure Drained (z : Fin 8) (s t : State) : Prop where
  service : t.setup.service[z] = .outOfService
  drainSlot : t.setup.drainSlot[z] = none
  slot : ∀ (k : Fin 24) (w : Work), s.setup.drainSlot[z] = some k → (s.ord.inWork.find? fun w => w.slot == k) = some w →
    s.slotState k = 2 → t.shows k w.tag (done s.setup.drainCalls[z] (wordBytes s.partTime)) ∧ t.slotInWork k = false

/-- What the clears before the last leave: setup, time, orders and slots. -/
structure Waiting (s t : State) : Prop where
  setup : t.setup = s.setup
  ms : t.ms = s.ms
  ord : t.ord = s.ord
  slots : ∀ k, SameSlot k s t

theorem callBlocks_demands (d : Fin 8) : Demands (Scope.logged callBlocks) d where
  journal := by simp [callBlocks]
  interrupts := by simp [callBlocks]
  display := by simp [callBlocks]
  rendering := by simp [callBlocks]
  attribution := by simp [callBlocks]
  drives := by simp [callBlocks]

theorem stays_clearing (n : Fin 160) (z : Fin 8) (k : Kind) (reason : Nat) (c : Call) (s : State) :
    Stays (Scope.logged callBlocks) s (clearing n z k reason c s) :=
  (((((((Stays.refl s).thenClearStop callBlocks_demands ⟨n, k, c.serial⟩ z).thenLog callsOf_callBlocks.toJournals _ _ _ _ _).thenSetCall
    callsOf_callBlocks.calls n k none).thenCalls callsOf_callBlocks.calls _).thenAlertCounts callsOf_callBlocks.alerts)).thenFollow
      (callBlocks_demands 0).toFollows s

theorem Waiting.clearing (h : Waiting s t) (n : Fin 160) (k : Kind) (c : Call) : Waiting s (clearing n z k clearForced c t) := by
  have stays := stays_clearing n z k clearForced c t
  obtain ⟨setup, ms, ord, -⟩ := stays.callFrame
  exact ⟨setup.trans h.setup, ms.trans h.ms, ord.trans h.ord, fun k => (h.slots k).trans (stays.sameSlot k)⟩

theorem Drained.clearing (h : Drained z s t) (n : Fin 160) (k : Kind) (c : Call) : Drained z s (clearing n z k clearForced c t) := by
  have stays := stays_clearing n z k clearForced c t
  obtain ⟨setup, -, ord, -⟩ := stays.callFrame
  refine ⟨by simp only [setup]; exact h.service, by simp only [setup]; exact h.drainSlot, fun k w slot work taken => ?_⟩
  obtain ⟨shows, free⟩ := h.slot k w slot work taken
  exact ⟨shows.congr (stays.sameSlot k), by rw [State.slotInWork, ord]; exact free⟩

/-- The state in which the drain's order is answered. -/
def drainLeft (z : Fin 8) (s : State) : State := follow s (zoneLeft z (changeService z .outOfService none 0 3 s))

theorem drainLeft_keeps (z : Fin 8) (s : State) : (drainLeft z s).setup = serviceSet z .outOfService none 0 s.setup
    ∧ (drainLeft z s).ord = s.ord ∧ ∀ k, SameSlot k s (drainLeft z s) := by
  obtain ⟨setup, ord, -⟩ := changeService_keeps z .outOfService none 0 3 s
  obtain ⟨setup', ord', -⟩ := zoneLeft_keeps z (changeService z .outOfService none 0 3 s)
  have stays : Stays (Scope.logged [.service, .drives, .display, .attribution, .rendering, .journal, .interrupts]) s (drainLeft z s) :=
    (((Stays.refl s).thenChangeService {} z .outOfService none 0 3).thenZoneLeft (fun d => {}) z).thenFollow {} s
  exact ⟨by rw [drainLeft, follow_setup, setup', setup], by rw [drainLeft, follow_ord, ord', ord], stays.sameSlot⟩

theorem completeDrain_drained (h : Waiting s t) : Drained z s (completeDrain z t) := by
  obtain ⟨setup, ord, slots⟩ := drainLeft_keeps z t
  have shape : completeDrain z t = serviceOnly t (match t.setup.drainSlot[z] with
      | some k => endLong k (done t.setup.drainCalls[z] (wordBytes t.partTime)) (drainLeft z t)
      | none => drainLeft z t) := rfl
  have after : (completeDrain z t).setup = serviceSet z .outOfService none 0 t.setup := by
    rw [shape]
    refine serviceOnly_setup rfl ?_
    split
    · rw [endLong_setup]
      exact setup
    · exact setup
  refine ⟨?_, ?_, fun k w slot work taken => ?_⟩
  · simp only [after]
    exact (serviceSet_service ..).trans (if_pos rfl)
  · simp only [after]
    exact serviceSet_drainSlot ..
  · have slot' : t.setup.drainSlot[z] = some k := by simp only [h.setup]; exact slot
    have calls : t.setup.drainCalls[z] = s.setup.drainCalls[z] := by simp only [h.setup]
    have work' : ((drainLeft z t).ord.inWork.find? fun w => w.slot == k) = some w := by rw [ord, h.ord]; exact work
    have taken' : (drainLeft z t).slotState k = 2 := ((h.slots k).trans (slots k)).slotState.trans taken
    obtain ⟨shows, ended⟩ := endLong_taken (done t.setup.drainCalls[z] (wordBytes t.partTime)) work' taken'
    rw [shape, slot']
    dsimp only
    rw [calls, partTime_congr h.ms] at shows ended ⊢
    generalize endLong k (done s.setup.drainCalls[z] (wordBytes s.partTime)) (drainLeft z t) = u at shows ended ⊢
    refine ⟨shows, ?_⟩
    show (u.ord.inWork.any fun w => w.slot == k) = false
    rw [ended]
    exact not_inWork_filter ..

/-- What stands while the calls of a drained zone's list `l` are cleared, with `rest` still to come: a call cleared is gone, one
still open is the one listed, and the list of the zone names open calls alone. The drain has ended unless a call is left. -/
structure Draining (z : Fin 8) (l rest : List CallRef) (s t : State) : Prop where
  gone : ∀ r ∈ l, r ∈ rest ∨ t.callAt r = none
  named : ∀ r ∈ l, ∀ c, t.callAt r = some c → c.serial = r.serial
  listed : ∀ r ∈ t.calls.active[z], r ∈ l ∧ (t.callAt r).isSome
  phase : (t.calls.active[z] ≠ [] ∧ Waiting s t) ∨ Drained z s t

/-- A clear that is reported once: the drain ends with the last call. -/
theorem reportClosing_phase (draining : s.setup.service[z] = .draining) (h : Waiting s t ∨ Drained z s t) :
    ((reportClosing z t).calls.active[z] ≠ [] ∧ Waiting s (reportClosing z t)) ∨ Drained z s (reportClosing z t) := by
  rcases h with waiting | drained
  · have service : t.setup.service[z] = .draining := by simp only [waiting.setup]; exact draining
    by_cases empty : t.openIn z = 0
    · have last : reportClosing z t = completeDrain z t := if_pos ⟨service, empty⟩
      exact .inr (last ▸ completeDrain_drained waiting)
    · have same : reportClosing z t = t := if_neg fun ⟨_, none_⟩ => empty none_
      rw [same]
      exact .inl ⟨fun none_ => empty (by rw [State.openIn, none_]; rfl), waiting⟩
  · have same : reportClosing z t = t := if_neg fun ⟨service, _⟩ => by
      rw [drained.service] at service
      exact absurd service (by decide)
    rw [same]
    exact .inr drained

theorem Draining.step {l rest : List CallRef} {r : CallRef} (draining : s.setup.service[z] = .draining) (among : r ∈ l)
    (h : Draining z l (r :: rest) s t) : Draining z l rest s (clearRef z clearForced r t) := by
  cases held : t.callAt r with
  | none =>
    have same : clearRef z clearForced r t = t := by simp only [clearRef, held]
    rw [same]
    refine { h with gone := fun x hx => ?_ }
    rcases h.gone x hx with hx | none_
    · rcases List.mem_cons.1 hx with rfl | hx
      · exact .inr held
      · exact .inl hx
    · exact .inr none_
  | some c =>
    have shape : clearRef z clearForced r t = clearOne r.station z r.kind clearForced c t := by simp only [clearRef, held]
    obtain ⟨table, active⟩ := clearOne_table (n := r.station) (k := r.kind) (z := z) clearForced c t
    have serial : c.serial = r.serial := h.named r among c held
    rw [shape]
    have at_ (x : CallRef) : (clearOne r.station z r.kind clearForced c t).callAt x
        = if (x.station, x.kind) = (r.station, r.kind) then none else t.callAt x := table ..
    have apart : ∀ x ∈ l, (t.callAt x).isSome → x.serial ≠ c.serial → (x.station, x.kind) ≠ (r.station, r.kind) :=
      fun x hx _ ne same => by
        obtain ⟨station, kind⟩ := Prod.mk.inj same
        have here : t.callAt x = some c := by rw [State.callAt, station, kind]; exact held
        exact ne (h.named x hx c here).symm
    refine ⟨fun x hx => ?_, fun x hx y found => ?_, fun x hx => ?_, ?_⟩
    · rw [at_]
      rcases h.gone x hx with hx | none_
      · rcases List.mem_cons.1 hx with rfl | hx
        · exact .inr (if_pos rfl)
        · exact .inl hx
      · refine .inr ?_
        rw [none_]
        exact ite_self none
    · rw [at_] at found
      split at found
      · simp at found
      · exact h.named x hx y found
    · rw [active z, if_pos rfl, List.mem_filter, bne_iff_ne] at hx
      obtain ⟨hx, ne⟩ := hx
      obtain ⟨among', some_⟩ := h.listed x hx
      rw [at_, if_neg (apart x among' some_ ne)]
      exact ⟨among', some_⟩
    · rw [clearOne_eq]
      refine reportClosing_phase draining (h.phase.imp (fun ⟨_, waiting⟩ => waiting.clearing ..) fun drained => drained.clearing ..)

theorem Draining.each {l rest : List CallRef} (draining : s.setup.service[z] = .draining) (among : ∀ r ∈ rest, r ∈ l)
    (h : Draining z l rest s t) : Draining z l [] s (each rest (clearRef z clearForced) t) := by
  induction rest generalizing t with
  | nil => exact h
  | cons r rs ih =>
    exact ih (fun x hx => among x (List.mem_cons_of_mem _ hx)) (h.step draining (among r List.mem_cons_self))

/-- The clears of FORCE DRAIN. -/
def forced (z : Fin 8) (s : State) : State := Machine.each s.calls.active[z] (clearRef z clearForced) s

theorem forced_drained (draining : s.setup.service[z] = .draining) (open_ : s.calls.active[z] ≠ [])
    (named : ∀ r ∈ s.calls.active[z], ∃ c, s.callAt r = some c ∧ c.serial = r.serial) :
    (∀ r ∈ s.calls.active[z], (forced z s).callAt r = none) ∧ (forced z s).calls.active[z] = [] ∧ Drained z s (forced z s) := by
  have start : Draining z s.calls.active[z] s.calls.active[z] s s := {
    gone := fun r hr => .inl hr
    named := fun r hr c held => by
      obtain ⟨c', held', serial⟩ := named r hr
      obtain rfl := Option.some.inj (held.symm.trans held')
      exact serial
    listed := fun r hr => by
      obtain ⟨c, held, -⟩ := named r hr
      exact ⟨hr, by rw [held]; rfl⟩
    phase := .inl ⟨open_, rfl, rfl, rfl, fun _ _ _ => rfl⟩ }
  have finish : Draining z s.calls.active[z] [] s (forced z s) := start.each draining fun _ hr => hr
  have none_ : ∀ r ∈ s.calls.active[z], (forced z s).callAt r = none := fun r hr => (finish.gone r hr).resolve_left (by simp)
  have empty : (forced z s).calls.active[z] = [] := List.eq_nil_iff_forall_not_mem.2 fun r hr => by
    obtain ⟨among, some_⟩ := finish.listed r hr
    simp [none_ r among] at some_
  exact ⟨none_, empty, finish.phase.resolve_left fun ⟨left_, _⟩ => left_ empty⟩

theorem forceDrain_forces {b : Byte} (named : b.toNat = num z) (draining : s.setup.service[z] = .draining) :
    forceDrain b s = (forceClears z s, some (done s.calls.active[z].length)) := by
  simp only [forceDrain, index?_of_eq named, draining]
  rfl

theorem forceClears_eq (z : Fin 8) (s : State) : ∃ rows, forceClears z s = callsOnly s (syncRows s rows (forced z s)) := ⟨_, rfl⟩

theorem State.shows.syncRows {k : Fin 24} {g : Half} {x : Answer} (h : t.shows k g x) (old : State) (rs : List Row) :
    (syncRows old rs t).shows k g x :=
  h.congr (((Stays.refl (f := Scope.logged []) t).thenSyncRows (fun r _ => by simp) old).sameSlot k)

/-- Settles O30, order by order; a forced drain ends with the last of its calls. -/
theorem zoneServiceOrdersTakeEffect : Obligations.ZoneServiceOrdersTakeEffect := by
  refine ⟨⟨fun p b s z f ready named zone driven => ⟨fun out => ?_, fun in_ => ?_⟩,
    fun p b s z f ready named zone in_ => ⟨fun empty => ?_, fun open_ => ?_⟩⟩, fun p b s z ready named draining open_ calls => ?_⟩
  · refine .ends rfl ready (placeZone_enters (s := handed p _ s) named zone driven out) rfl ⟨?_, fun y ne => ?_, fun q holds lost serves => ?_⟩
    · simp only [answered_setup, enterService_setup]
      exact (serviceSet_service ..).trans (if_pos rfl)
    · simp only [answered_setup, enterService_setup]
      exact (serviceSet_service ..).trans (if_neg ne)
    · rw [answered_drive]
      exact enterService_demand (s := handed p _ s) zone holds lost serves
  · exact .intro rfl ready (placeZone_again (s := handed p _ s) named zone driven in_) rfl (answered_setup ..)
  · obtain ⟨setup, ord, table, demand⟩ := (left_out (z := z) (handed p (.takeZoneOutOfService b) s)).taken zone
    refine .intro rfl ready (takeZone_leaves (s := handed p _ s) named zone in_ empty) ord ⟨?_, ?_, ?_, ?_, ?_⟩
    · simp only [answered_setup, leaveService, setup]
      exact (serviceSet_service ..).trans (if_pos rfl)
    · simp only [answered_setup, leaveService, setup]
      exact serviceSet_drainSlot ..
    · exact (answered_calls ..).trans table
    · rw [answered_drive]
      exact demand
    · rw [answered_ord]
      exact (congrArg OrderUnit.inWork ord).trans rfl
  · obtain ⟨setup, ord, table, demand⟩ := (left_draining (z := z) p.slot (handed p (.takeZoneOutOfService b) s)).taken zone
    refine .intro rfl ready (takeZone_drains (s := handed p _ s) named zone in_ open_) ord ⟨?_, ?_, ?_, ?_, ?_⟩
    · simp only [accepted_setup, beginDrain, setup]
      exact (serviceSet_service ..).trans (if_pos rfl)
    · simp only [accepted_setup, beginDrain, setup]
      exact serviceSet_drainSlot ..
    · simp only [accepted_setup, beginDrain, setup]
      exact serviceSet_drainCalls ..
    · exact (accepted_calls ..).trans table
    · rw [accepted_drive]
      exact demand
  · obtain ⟨none_, empty, drained⟩ := forced_drained (s := handed p (.forceDrain b) s) draining open_ calls
    refine .ends rfl ready (forceDrain_forces (s := handed p _ s) named draining) rfl ?_
    obtain ⟨rows, shape⟩ := forceClears_eq z (handed p (.forceDrain b) s)
    rw [shape]
    generalize forced z (handed p (.forceDrain b) s) = u at none_ empty drained ⊢
    refine ⟨fun r hr => ?_, ?_, ?_, ?_, fun k w slot work taken => ?_⟩
    · exact (call_congr (answered_calls ..) ..).trans (none_ r hr)
    · simp only [answered_calls, callsOnly_calls, syncRows_calls]
      exact empty
    · simp only [answered_setup]
      exact drained.service
    · simp only [answered_setup]
      exact drained.drainSlot
    · have ne : p.slot ≠ k := slot_apart (let ⟨_, _, _, idle⟩ := ready; idle) work
      obtain ⟨shows, free⟩ := drained.slot k w slot work ((sameSlot_handed ne).slotState.trans taken)
      exact ended_answered ne ⟨shows.syncRows .., free⟩

end Sys2Proof.Machine
end

section
/-! Proofs for the end of a poll (R43): what a poll's outcome makes of its panel, a panel's loss (R49), and the failed polls of a
response timeout. -/

namespace Sys2Proof.Machine

variable {s t : State} {p : Fin 40}

/-! ### The panel-lost flags -/

theorem updStation_station (n m : Fin 160) (g : Station → Station) (s : State) :
    (updStation n g s).calls.stations[m] = if m = n then g s.calls.stations[n] else s.calls.stations[m] := by
  refine (upd_getElem ..).trans ?_
  split
  · next same => rw [same]
  · rfl

theorem each_markLost_station (b : Bool) (l : List (Fin 160)) (m : Fin 160) (s : State) :
    (each l (fun n t => updStation n (fun r => { r with panelLost := b }) t) s).calls.stations[m]
      = if m ∈ l then { s.calls.stations[m] with panelLost := b } else s.calls.stations[m] := by
  induction l generalizing s with
  | nil => simp [each]
  | cons n ns ih =>
    refine (ih (updStation n (fun r => { r with panelLost := b }) s)).trans ?_
    rw [updStation_station]
    by_cases later : m ∈ ns <;> by_cases same : m = n
    · subst same; simp [later]
    · simp [later, same]
    · subst same; simp [later]
    · simp [later, same]

theorem markPanelLost_station (p : Fin 40) (b : Bool) (s : State) (m : Fin 160) : (markPanelLost p b s).calls.stations[m]
    = if m ∈ stationsOf p then { s.calls.stations[m] with panelLost := b } else s.calls.stations[m] :=
  each_markLost_station b (stationsOf p) m s

theorem setPanelLost_station (p : Fin 40) (b : Bool) (s : State) (m : Fin 160) : (setPanelLost p b s).calls.stations[m]
    = if m ∈ stationsOf p then { s.calls.stations[m] with panelLost := b } else s.calls.stations[m] := by
  rw [← markPanelLost_station]
  exact congrArg (fun c : CallTable => c.stations[m]) (writeRows_calls ..)

theorem setPanelLost_keeps (p : Fin 40) (b : Bool) (s : State) : (setPanelLost p b s).loop = s.loop
    ∧ (setPanelLost p b s).setup = s.setup ∧ (setPanelLost p b s).drv = s.drv := by
  refine ⟨(writeRows_loop ..).trans (markPanelLost_loop ..), (writeRows_setup ..).trans (markPanelLost_setup ..), ?_⟩
  exact (writeRows_drv ..).trans (each_same State.drv fun _ _ _ => rfl)

/-! ### The demands of a lost panel (R49) -/

theorem addDemands_eq (p : Fin 40) (zs : List (Fin 8)) (s : State) :
    (addDemands p zs s).1 = each zs (fun z t => (addPanelDemand p z t).1) s := by
  unfold addDemands
  generalize 0 = n
  induction zs generalizing s n with
  | nil => rfl
  | cons z zs ih => exact ih (addPanelDemand p z s).1 _

theorem addPanelDemand_keeps (p : Fin 40) (z : Fin 8) (s : State) :
    (addPanelDemand p z s).1.loop = s.loop ∧ (addPanelDemand p z s).1.calls = s.calls := by
  unfold addPanelDemand
  split
  · exact ⟨rfl, rfl⟩
  · exact ⟨demandOnly_loop .., demandOnly_calls ..⟩

theorem addDemands_keeps (p : Fin 40) (zs : List (Fin 8)) (s : State) : (addDemands p zs s).1.loop = s.loop
    ∧ (addDemands p zs s).1.setup = s.setup ∧ (addDemands p zs s).1.calls = s.calls := by
  rw [addDemands_eq]
  exact ⟨each_same State.loop fun z _ t => (addPanelDemand_keeps p z t).1, each_same State.setup fun z _ t => addPanelDemand_setup p z t,
    each_same State.calls fun z _ t => (addPanelDemand_keeps p z t).2⟩

/-- An addition of one panel demand loses no entry of any drive. -/
theorem addPanelDemand_stays (p : Fin 40) (z : Fin 8) (s : State) (d : Fin 8) {e : Demand} (held : e ∈ (s.drive d).demand) :
    e ∈ ((addPanelDemand p z s).1.drive d).demand := by
  cases here : s.zoneDrive z with
  | none => simpa only [addPanelDemand, here] using held
  | some c =>
    rw [addPanelDemand_eq here]
    show e ∈ ((addDemand c (.panel p z) 3 (num p) s).drive d).demand
    by_cases same : d = c
    · subst same
      obtain ⟨-, -, -, -, stays, -⟩ := addDemand_joins (d := d) (.panel p z) 3 (num p) s
      exact stays e held
    · rw [addDemand_drive_other same]
      exact held

theorem addPanelDemand_joins {d z : Fin 8} (here : s.zoneDrive z = some d) (p : Fin 40) :
    .panel p z ∈ ((addPanelDemand p z s).1.drive d).demand := by
  rw [addPanelDemand_eq here]
  obtain ⟨-, -, -, -, -, joins, -⟩ := addDemand_joins (d := d) (.panel p z) 3 (num p) s
  exact joins

theorem each_addPanelDemand_stays (p : Fin 40) (zs : List (Fin 8)) (s : State) (d : Fin 8) {e : Demand} (held : e ∈ (s.drive d).demand) :
    e ∈ ((each zs (fun z t => (addPanelDemand p z t).1) s).drive d).demand := by
  induction zs generalizing s with
  | nil => exact held
  | cons z zs ih => exact ih _ (addPanelDemand_stays p z s d held)

theorem addDemands_joins {d z : Fin 8} {zs : List (Fin 8)} (mem : z ∈ zs) (s : State) (here : s.zoneDrive z = some d) (p : Fin 40) :
    .panel p z ∈ ((addDemands p zs s).1.drive d).demand := by
  rw [addDemands_eq]
  induction zs generalizing s with
  | nil => simp at mem
  | cons y ys ih =>
    rcases List.mem_cons.1 mem with rfl | later
    · exact each_addPanelDemand_stays p ys _ d (addPanelDemand_joins here p)
    · exact ih later (addPanelDemand p y s).1 ((zoneDrive_congr (congrArg Setup.zones (addPanelDemand_setup ..)) z).trans here)

/-! ### A panel enters LOST, or leaves it (R49, R50) -/

theorem updPanel_panel (p q : Fin 40) (g : Panel → Panel) (s : State) :
    (updPanel p g s).loop.panels[q] = if q = p then g s.loop.panels[q] else s.loop.panels[q] := by
  refine (upd_getElem ..).trans ?_
  split
  · next same => rw [same]
  · rfl

theorem enterLost_loop (p : Fin 40) (x : PanelState) (s : State) :
    (enterLost p x s).loop = (updPanel p (fun v => { v with state := .lost }) s).loop := by
  unfold enterLost
  dsimp only
  rw [raiseCause_loop, logPanel_loop, (setPanelLost_keeps ..).1, syncRows_loop]
  exact (addDemands_keeps ..).1

theorem enterLost_setup (p : Fin 40) (x : PanelState) (s : State) : (enterLost p x s).setup = s.setup := by
  unfold enterLost
  dsimp only
  rw [raiseCause_setup, logPanel_setup, (setPanelLost_keeps ..).2.1, syncRows_setup, (addDemands_keeps ..).2.1]
  rfl

theorem enterLost_station (p : Fin 40) (x : PanelState) (s : State) (n : Fin 160) : (enterLost p x s).calls.stations[n]
    = if n ∈ stationsOf p then { s.calls.stations[n] with panelLost := true } else s.calls.stations[n] := by
  have calls : (addDemands p (s.holdZones p) (updPanel p (fun v => { v with state := .lost }) s)).1.calls = s.calls :=
    (addDemands_keeps ..).2.2
  have flagged := setPanelLost_station p true (syncRows s everyDriveRow
    (addDemands p (s.holdZones p) (updPanel p (fun v => { v with state := .lost }) s)).1) n
  simp only [syncRows_calls, calls] at flagged
  exact flagged

theorem mem_holdZones {z : Fin 8} {f : ZoneDef} (zone : s.zone z = some f) (service : s.setup.service[z] = .inService)
    (holds : f.ignoreLoss = false) (serves : s.serves p z = true) : z ∈ s.holdZones p := by
  refine List.mem_filter.2 ⟨List.mem_finRange z, ?_⟩
  simp only [service, serves, zone, Option.map_some, Option.getD_some, holds]
  rfl

theorem enterLost_demand {z : Fin 8} {f : ZoneDef} (x : PanelState) (zone : s.zone z = some f)
    (service : s.setup.service[z] = .inService) (holds : f.ignoreLoss = false) (serves : s.serves p z = true) :
    .panel p z ∈ ((enterLost p x s).drive f.drive).demand := by
  have drv : (enterLost p x s).drv = (addDemands p (s.holdZones p) (updPanel p (fun v => { v with state := .lost }) s)).1.drv := by
    unfold enterLost
    dsimp only
    rw [raiseCause_drv, logPanel, log_drv, (setPanelLost_keeps ..).2.2, syncRows_drv]
  have joined := addDemands_joins (mem_holdZones zone service holds serves) (updPanel p (fun v => { v with state := .lost }) s)
    (zoneDrive_of_zone zone) p
  simp only [State.drive] at joined ⊢
  rw [drv]
  exact joined

theorem recoverPanel_loop (p : Fin 40) (x : PanelState) (s : State) :
    (recoverPanel p x s).loop = (updPanel p (fun v => { v with state := x, dueAt := none, due := false }) s).loop := by
  unfold recoverPanel
  dsimp only
  rw [(setPanelLost_keeps ..).1, removePanelDemands_loop, logPanel_loop]

theorem recoverPanel_setup (p : Fin 40) (x : PanelState) (s : State) : (recoverPanel p x s).setup = s.setup := by
  unfold recoverPanel
  dsimp only
  rw [(setPanelLost_keeps ..).2.1, removePanelDemands_setup, logPanel_setup]
  rfl

/-! ### The judgement of a poll (R47) -/

/-- The panel after the judgement: a LOST panel that recovers is polled in the rotation again. -/
def Panel.turned (v : Panel) (success : Bool) : Panel :=
  if v.state = .lost ∧ v.judged success ≠ .lost then { v with state := v.judged success, dueAt := none, due := false }
  else { v with state := v.judged success }

theorem upd_self {α : Type} {n : Nat} (v : Vector α n) (i : Fin n) {g : α → α} (same : g v[i] = v[i]) : upd v i g = v := by
  rw [upd, same]
  exact Vector.set_getElem_self ..

theorem judgePanel_loop (p : Fin 40) (b : Bool) (s : State) :
    (judgePanel p b s).loop = { s.loop with panels := upd s.loop.panels p fun v => v.turned b } := by
  have turn {g : Panel → Panel} (same : g s.loop.panels[p] = (s.loop.panels[p]).turned b) :
      upd s.loop.panels p g = upd s.loop.panels p fun v => v.turned b := by simp only [upd, same]
  unfold judgePanel
  dsimp only
  split
  · next same =>
    have idle : (s.loop.panels[p]).turned b = s.loop.panels[p] := by
      rw [Panel.turned, same, if_neg (by rintro ⟨h, k⟩; exact k h)]
    rw [upd_self _ _ idle]
  · next changed =>
    split
    · next lost =>
      rw [settle_loop, enterLost_loop]
      refine congrArg (fun v => { s.loop with panels := v }) (turn ?_)
      rw [Panel.turned, if_neg (by rintro ⟨-, k⟩; exact k lost), lost]
    · next kept =>
      split
      · next lost =>
        rw [settle_loop, recoverPanel_loop]
        refine congrArg (fun v => { s.loop with panels := v }) (turn ?_)
        rw [Panel.turned, if_pos ⟨lost, kept⟩]
      · next other =>
        rw [logPanel_loop]
        refine congrArg (fun v => { s.loop with panels := v }) (turn ?_)
        rw [Panel.turned, if_neg (by rintro ⟨k, -⟩; exact other k)]

theorem judgePanel_setup (p : Fin 40) (b : Bool) (s : State) : (judgePanel p b s).setup = s.setup := by
  unfold judgePanel
  dsimp only
  split
  · rfl
  · split
    · rw [settle_setup, enterLost_setup]
    · split
      · rw [settle_setup, recoverPanel_setup]
      · rfl

/-! ### A failed poll (R43, R47, R49) -/

/-- The state in which a poll's outcome is judged. -/
def recorded (q : Poll) (b : Bool) (s : State) : State := updPanel q.panel (fun v => v.record b q.lamps) (setPoll none s)

theorem endPoll_failed {q : Poll} (held : q.void = false) (s : State) : endPoll q none s
    = writeRow (.panel q.panel) (updPanel q.panel (fun w => w.schedule s.ms) (judgePanel q.panel false (recorded q false s))) := by
  simp only [endPoll, held]
  rfl

theorem recorded_panel (q : Poll) (b : Bool) (s : State) :
    (recorded q b s).loop.panels[q.panel] = (s.loop.panels[q.panel]).record b q.lamps :=
  (updPanel_panel ..).trans (if_pos rfl)

/-- The panel of a poll that failed. -/
theorem failedPoll_loop {q : Poll} (held : q.void = false) (s : State) : (endPoll q none s).loop.poll = none
    ∧ (endPoll q none s).loop.panels[q.panel] = (((s.loop.panels[q.panel]).record false q.lamps).turned false).schedule s.ms := by
  rw [endPoll_failed held, writeRow_loop]
  have judged := judgePanel_loop q.panel false (recorded q false s)
  refine ⟨?_, ?_⟩
  · exact congrArg CallLoop.poll judged
  · refine (updPanel_panel ..).trans ?_
    rw [if_pos rfl, judged]
    refine congrArg (fun v : Panel => v.schedule s.ms) ((upd_getElem ..).trans ?_)
    rw [if_pos rfl, recorded_panel]

/-- The third failed poll in a row of a panel that is not LOST yet: the panel enters LOST. -/
theorem failedPoll_loses {q : Poll} (held : q.void = false) (third : 2 ≤ (s.loop.panels[q.panel]).failures)
    (kept : (s.loop.panels[q.panel]).state ≠ .lost) : endPoll q none s
      = writeRow (.panel q.panel) (updPanel q.panel (fun w => w.schedule s.ms) (settle (recorded q false s)
        (enterLost q.panel (s.loop.panels[q.panel]).state (recorded q false s)))) := by
  have judged : ((s.loop.panels[q.panel]).record false q.lamps).judged false = .lost := by
    have third' : 3 ≤ min ((s.loop.panels[q.panel]).failures + 1) 65535 := by omega
    exact (if_neg (by decide)).trans (if_pos third')
  have state : ((s.loop.panels[q.panel]).record false q.lamps).state = (s.loop.panels[q.panel]).state := rfl
  rw [endPoll_failed held, judgePanel]
  simp only [recorded_panel, judged, state, if_neg kept.symm, if_true]

/-- What a panel's loss leaves behind: FAULT is pending, its four stations are marked and its HOLD zones are in the demand set. -/
theorem failedPoll_lost {q : Poll} (held : q.void = false) (third : 2 ≤ (s.loop.panels[q.panel]).failures)
    (kept : (s.loop.panels[q.panel]).state ≠ .lost) : (endPoll q none s).raised .fault
      ∧ (∀ n ∈ stationsOf q.panel, ((endPoll q none s).calls.stations[n]).panelLost = true)
      ∧ ∀ (z : Fin 8) (f : ZoneDef), s.zone z = some f → s.setup.service[z] = .inService → f.ignoreLoss = false →
        s.serves q.panel z = true → ((endPoll q none s).drive f.drive).demand.contains (.panel q.panel z) = true := by
  rw [failedPoll_loses held third kept]
  refine ⟨?_, fun n member => ?_, fun z f zone service holds serves => ?_⟩
  · rw [State.raised, writeRow_irq, updPanel_irq, settle_irq]
    exact raiseCause_raised ..
  · have flagged := enterLost_station q.panel (s.loop.panels[q.panel]).state (recorded q false s) n
    rw [if_pos member] at flagged
    simp only [writeRow_calls, updPanel_calls, settle_calls, flagged]
  · have joined := enterLost_demand (s := recorded q false s) (s.loop.panels[q.panel]).state zone service holds serves
    simp only [State.drive] at joined ⊢
    simp only [writeRow_drv, updPanel_drv, settle_drv_drives]
    exact List.contains_iff_mem.2 joined

/-! ### The response timeout (R42) -/

theorem responseTimeout_eq {q : Poll} (poll : s.loop.poll = some q) :
    responseTimeout s = loopOnly (s.reach q.waitEnd) (failAttempt q (s.reach q.waitEnd)) := by
  simp only [responseTimeout, poll]

theorem failAttempt_sends {q : Poll} (early : q.attempt < 3) (s : State) :
    failAttempt q s = sendAttempt q.panel (q.attempt + 1) q.void s := if_pos early

theorem failAttempt_ends {q : Poll} (last : 3 ≤ q.attempt) (s : State) : failAttempt q s = endPoll q none s :=
  if_neg (Nat.not_lt.2 last)

theorem endPoll_void {q : Poll} (void : q.void = true) (a : Option Accepted) (s : State) : endPoll q a s = setPoll none s := by
  simp only [endPoll, void, if_true]

/-- The panel that a failed poll leaves, in the words of R43, R47 and R40. -/
theorem failed_panel (v : Panel) (lamps : Vector Lamp 4) (ms : Nat) :
    let w := ((v.record false lamps).turned false).schedule ms
    let h := (v.history ++ [true]).drop (v.history.length - 7)
    w.failed = min (v.failed + 1) 65535 ∧ w.failures = min (v.failures + 1) 65535 ∧ w.answered = v.answered ∧ w.history = h
      ∧ w.lamps = lamps ∧ w.last = v.last ∧ w.state = (if 2 ≤ v.failures then .lost else if v.state = .seeking then .seeking
        else if 2 ≤ failuresIn h then .weak else .online)
      ∧ (2 ≤ v.failures → w.dueAt = some (ms + 1000) ∧ w.due = false) := by
  have history : (v.record false lamps).history = (v.history ++ [true]).drop (v.history.length - 7) := by
    show (v.history ++ [true]).drop ((v.history ++ [true]).length - 8) = _
    rw [List.length_append, List.length_singleton]
    rfl
  have third : 3 ≤ min (v.failures + 1) 65535 ↔ 2 ≤ v.failures := by omega
  have judged : (v.record false lamps).judged false = (if 2 ≤ v.failures then .lost else if v.state = .seeking then .seeking
      else if 2 ≤ failuresIn ((v.history ++ [true]).drop (v.history.length - 7)) then .weak else .online) := by
    rw [← history]
    refine (if_neg (by decide)).trans ?_
    exact if_congr third rfl rfl
  have turned : ((v.record false lamps).turned false).state = (v.record false lamps).judged false := by
    unfold Panel.turned
    split <;> rfl
  have keeps : ∀ u : Panel, (u.turned false).failed = u.failed ∧ (u.turned false).failures = u.failures
      ∧ (u.turned false).answered = u.answered ∧ (u.turned false).history = u.history ∧ (u.turned false).lamps = u.lamps
      ∧ (u.turned false).last = u.last := by
    intro u
    unfold Panel.turned
    split <;> exact ⟨rfl, rfl, rfl, rfl, rfl, rfl⟩
  have scheduled : ∀ u : Panel, (u.schedule ms).failed = u.failed ∧ (u.schedule ms).failures = u.failures
      ∧ (u.schedule ms).answered = u.answered ∧ (u.schedule ms).history = u.history ∧ (u.schedule ms).lamps = u.lamps
      ∧ (u.schedule ms).last = u.last ∧ (u.schedule ms).state = u.state := by
    intro u
    unfold Panel.schedule
    split <;> exact ⟨rfl, rfl, rfl, rfl, rfl, rfl, rfl⟩
  obtain ⟨failed, failures, answered, hist, lamps_, last⟩ := keeps (v.record false lamps)
  obtain ⟨failed', failures', answered', hist', lamps', last', state'⟩ := scheduled ((v.record false lamps).turned false)
  refine ⟨failed'.trans failed, failures'.trans failures, answered'.trans answered, (hist'.trans hist).trans history,
    lamps'.trans lamps_, last'.trans last, (state'.trans turned).trans judged, fun two => ?_⟩
  have lost : ((v.record false lamps).turned false).state = .lost := (turned.trans judged).trans (if_pos two)
  rw [Panel.schedule, if_pos lost]
  exact ⟨rfl, rfl⟩

/-- Settles O53: the attempts before the third send the next one; the third records the failure, and the third failure in a row
loses the panel. -/
theorem timeoutsFailAttemptsAndPolls : Obligations.TimeoutsFailAttemptsAndPolls := by
  refine fun s q poll => ⟨responseTimeout s, rfl, ?_⟩
  rw [responseTimeout_eq poll]
  refine ⟨rfl, fun early => ?_, fun last void => ?_, fun last held => ?_⟩
  · rw [failAttempt_sends early]
    exact ⟨rfl, rfl⟩
  · rw [failAttempt_ends last, endPoll_void void]
    exact ⟨rfl, rfl⟩
  · rw [failAttempt_ends last]
    have lossy := failedPoll_lost (s := s.reach q.waitEnd) held
    obtain ⟨free, panel⟩ := failedPoll_loop held (s.reach q.waitEnd)
    generalize endPoll q none (s.reach q.waitEnd) = u at free panel lossy ⊢
    obtain ⟨failed, failures, answered, hist, lamps, number, state, due⟩ :=
      failed_panel s.loop.panels[q.panel] q.lamps (s.reach q.waitEnd).ms
    have same : (loopOnly (s.reach q.waitEnd) u).loop.panels[q.panel]
      = (((s.loop.panels[q.panel]).record false q.lamps).turned false).schedule (s.reach q.waitEnd).ms := panel
    simp only [same]
    exact ⟨free, failed, failures, answered, hist, lamps, number, state, due, fun third kept => lossy third kept⟩

end Sys2Proof.Machine
end

section
/-! Proofs for an accepted answer (sections 3.4 to 3.7): what the judgement of its poll leaves of the call table, a panel's recovery,
and what the presses of its events leave of it. -/

namespace Sys2Proof.Machine

variable {s t u : State} {p : Fin 40}

/-! ### The judgement and the call table -/

/-- A call table in which at most panel-lost flags have changed. -/
structure Flagged (s t : State) : Prop where
  stations : ∀ n : Fin 160, ∃ b, t.calls.stations[n] = { s.calls.stations[n] with panelLost := b }
  active : t.calls.active = s.calls.active
  nextSerial : t.calls.nextSerial = s.calls.nextSerial

theorem Flagged.of_calls (same : t.calls = s.calls) : Flagged s t :=
  ⟨fun n => ⟨(s.calls.stations[n]).panelLost, by rw [same]⟩, by rw [same], by rw [same]⟩

theorem Flagged.call (h : Flagged s t) (n : Fin 160) (k : Kind) : t.call n k = s.call n k := by
  obtain ⟨b, station⟩ := h.stations n
  simp only [State.call, station]

theorem markPanelLost_lists (p : Fin 40) (b : Bool) (s : State) : (markPanelLost p b s).calls.active = s.calls.active
    ∧ (markPanelLost p b s).calls.nextSerial = s.calls.nextSerial :=
  ⟨each_same (fun s : State => s.calls.active) fun _ _ _ => rfl, each_same (fun s : State => s.calls.nextSerial) fun _ _ _ => rfl⟩

theorem setPanelLost_flagged (p : Fin 40) (b : Bool) (s : State) : Flagged s (setPanelLost p b s) where
  stations n := by
    rw [setPanelLost_station]
    split
    · exact ⟨b, rfl⟩
    · exact ⟨(s.calls.stations[n]).panelLost, rfl⟩
  active := (congrArg CallTable.active (writeRows_calls ..)).trans (markPanelLost_lists p b s).1
  nextSerial := (congrArg CallTable.nextSerial (writeRows_calls ..)).trans (markPanelLost_lists p b s).2

theorem Flagged.congr (h : Flagged s t) {s' t' : State} (old : s.calls = s'.calls) (new : t'.calls = t.calls) : Flagged s' t' :=
  ⟨by rw [← old, new]; exact h.stations, by rw [← old, new]; exact h.active, by rw [← old, new]; exact h.nextSerial⟩

theorem removePanelDemands_calls (p : Fin 40) (s : State) : (removePanelDemands p s).1.calls = s.calls := demandOnly_calls ..

theorem logPanel_calls (p : Fin 40) (x y : PanelState) (n : Nat) (s : State) : (logPanel p x y n s).calls = s.calls := rfl

theorem enterLost_flagged (p : Fin 40) (x : PanelState) (s : State) : Flagged s (enterLost p x s) := by
  have added : (syncRows s everyDriveRow (addDemands p (s.holdZones p) (updPanel p (fun v => { v with state := .lost }) s)).1).calls
      = s.calls := by
    rw [syncRows_calls, (addDemands_keeps ..).2.2]
    rfl
  unfold enterLost
  dsimp only
  generalize syncRows s everyDriveRow _ = u at added
  refine (setPanelLost_flagged p true u).congr added ?_
  rw [raiseCause_calls, logPanel_calls]

theorem recoverPanel_flagged (p : Fin 40) (x : PanelState) (s : State) : Flagged s (recoverPanel p x s) := by
  have removed (u : State) (same : u.calls = s.calls) : Flagged s (setPanelLost p false (removePanelDemands p u).1) :=
    (setPanelLost_flagged p false (removePanelDemands p u).1).congr ((removePanelDemands_calls p u).trans same) rfl
  exact removed _ (logPanel_calls ..)

theorem judgePanel_flagged (p : Fin 40) (b : Bool) (s : State) : Flagged s (judgePanel p b s) := by
  unfold judgePanel
  dsimp only
  split
  · exact .of_calls rfl
  · split
    · exact (enterLost_flagged ..).congr rfl (settle_calls ..)
    · split
      · exact (recoverPanel_flagged ..).congr rfl (settle_calls ..)
      · exact .of_calls rfl

/-! ### A panel recovers (R50) -/

/-- No flag of the panel's loss is set and no drive holds a demand of it. -/
structure Recovered (p : Fin 40) (s : State) : Prop where
  flags : ∀ n ∈ stationsOf p, (s.calls.stations[n]).panelLost = false
  demands : ∀ (d z : Fin 8), .panel p z ∉ (s.drive d).demand

theorem each_syncRow_removeDemand (gone : Demand → Bool) (x : Nat) (old : State) (l : List (Fin 8)) (d : Fin 8) (s : State) :
    ((each l (fun d t => syncRow old (.drive d) (removeDemand d gone x t)) s).drive d).demand
      = if d ∈ l then (s.drive d).demand.filter (fun e => !gone e) else (s.drive d).demand := by
  induction l generalizing s with
  | nil => simp [each]
  | cons c cs ih =>
    have drive : (syncRow old (.drive c) (removeDemand c gone x s)).drive d = (removeDemand c gone x s).drive d := rfl
    refine (ih (syncRow old (.drive c) (removeDemand c gone x s))).trans ?_
    rw [drive]
    by_cases same : d = c
    · subst same
      rw [removeDemand_demand, if_pos List.mem_cons_self]
      split
      · exact List.filter_filter.trans (by simp)
      · rfl
    · rw [removeDemand_drive_other same]
      simp [same]

theorem removePanelDemands_demand (p : Fin 40) (s : State) (d : Fin 8) :
    ((removePanelDemands p s).1.drive d).demand = (s.drive d).demand.filter fun e => !isPanelOf p e := by
  have drv : (removePanelDemands p s).1.drv
      = (each (List.finRange 8) (fun d t => syncRow s (.drive d) (removeDemand d (isPanelOf p) 4 t)) s).drv := demandOnly_drv ..
  have removed := each_syncRow_removeDemand (isPanelOf p) 4 s (List.finRange 8) d s
  rw [if_pos (List.mem_finRange d)] at removed
  rw [State.drive, drv]
  exact removed

theorem recoverPanel_recovered (p : Fin 40) (x : PanelState) (s : State) : Recovered p (recoverPanel p x s) := by
  have unmarked (v : State) (gone : ∀ d z : Fin 8, .panel p z ∉ (v.drive d).demand) : Recovered p (setPanelLost p false v) := by
    obtain ⟨-, -, drv⟩ := setPanelLost_keeps p false v
    refine ⟨fun n member => ?_, fun d z held => gone d z ?_⟩
    · exact congrArg Station.panelLost ((setPanelLost_station p false v n).trans (if_pos member))
    · rw [State.drive, drv] at held
      exact held
  exact unmarked _ fun d z held => by
    rw [removePanelDemands_demand, List.mem_filter] at held
    simp [isPanelOf] at held

theorem judged_success (v : Panel) : v.judged true = if 2 ≤ failuresIn v.history then .weak else .online := if_pos rfl

theorem judgePanel_recovered (lost : (s.loop.panels[p]).state = .lost) : Recovered p (judgePanel p true s) := by
  have kept : (s.loop.panels[p]).judged true ≠ .lost := by
    rw [judged_success]
    split <;> decide
  have shape : judgePanel p true s = settle s (recoverPanel p ((s.loop.panels[p]).judged true) s) := by
    unfold judgePanel
    dsimp only
    rw [lost, if_neg kept, if_neg kept, if_pos rfl]
  obtain ⟨flags, demands⟩ := recoverPanel_recovered p ((s.loop.panels[p]).judged true) s
  rw [shape]
  generalize recoverPanel p ((s.loop.panels[p]).judged true) s = v at flags demands ⊢
  refine ⟨fun n member => ?_, fun d z held => demands d z ?_⟩
  · simp only [settle_calls]
    exact flags n member
  · simp only [State.drive, settle_drv_drives] at held
    exact held

/-! ### What presses leave of a recovery -/

/-- No flag of a panel's loss changes, and no drive gains a demand. -/
structure Undisturbed (s t : State) : Prop where
  flags : ∀ n : Fin 160, (t.calls.stations[n]).panelLost = (s.calls.stations[n]).panelLost
  demands : ∀ d : Fin 8, ∀ e ∈ (t.drive d).demand, e ∈ (s.drive d).demand

theorem Undisturbed.refl (s : State) : Undisturbed s s := ⟨fun _ => rfl, fun _ _ h => h⟩

theorem Undisturbed.trans (h : Undisturbed s t) (k : Undisturbed t u) : Undisturbed s u :=
  ⟨fun n => (k.flags n).trans (h.flags n), fun d e he => h.demands d e (k.demands d e he)⟩

/-- What leaves the drives and every flag. -/
theorem Undisturbed.of_drives (drives : t.drv.drives = s.drv.drives)
    (flags : ∀ n : Fin 160, (t.calls.stations[n]).panelLost = (s.calls.stations[n]).panelLost) : Undisturbed s t :=
  ⟨flags, fun d e he => by simp only [State.drive, drives] at he ⊢; exact he⟩

/-- What leaves the drives and the call table. -/
theorem Undisturbed.of_calls (drives : t.drv.drives = s.drv.drives) (calls : t.calls = s.calls) : Undisturbed s t :=
  .of_drives drives fun n => by rw [calls]

theorem Recovered.undisturbed (h : Recovered p s) (k : Undisturbed s t) : Recovered p t :=
  ⟨fun n member => (k.flags n).trans (h.flags n member), fun d z he => h.demands d z (k.demands d _ he)⟩

theorem undisturbed_updStation (n : Fin 160) {g : Station → Station} (keeps : ∀ r, (g r).panelLost = r.panelLost) (s : State) :
    Undisturbed s (updStation n g s) := by
  refine .of_drives rfl fun m => ?_
  rw [updStation_station]
  split
  · next same => rw [keeps, same]
  · rfl

theorem undisturbed_setCall (n : Fin 160) (k : Kind) (c : Option Call) (s : State) : Undisturbed s (setCall n k c s) :=
  undisturbed_updStation n (g := fun st => { st with calls := upd st.calls k.index fun _ => c }) (fun _ => rfl) s

theorem undisturbed_updCall (n : Fin 160) (k : Kind) (g : Call → Call) (s : State) : Undisturbed s (updCall n k g s) :=
  undisturbed_setCall ..

theorem undisturbed_removeDemand (d : Fin 8) (gone : Demand → Bool) (x : Nat) (s : State) : Undisturbed s (removeDemand d gone x s) := by
  obtain ⟨-, -, calls, -⟩ := removeDemand_keeps d gone x s
  refine ⟨fun n => by rw [calls], fun c e held => ?_⟩
  by_cases same : c = d
  · subst same
    rw [removeDemand_demand] at held
    exact (List.mem_filter.1 held).1
  · rw [removeDemand_drive_other same] at held
    exact held

theorem undisturbed_countRaised (n : Fin 160) (s : State) : Undisturbed s (countRaised n s) := by
  have stays : Stays (Scope.onBlocks [.calls, .alerts, .shift, .display, .rendering, .journal, .interrupts] false) s (countRaised n s) :=
    (Stays.refl s).thenCountRaised {} n
  refine .of_drives (stays.blocks .drives (by simp)) fun m => ?_
  rw [countRaised_calls]
  split
  · exact (undisturbed_updStation n (g := fun r => { r with raisedShift := satAdd 65535 r.raisedShift 1 }) (fun _ => rfl) s).flags m
  · rfl

theorem flags_escalateRepeat (n : Fin 160) (k : Kind) (s : State) (m : Fin 160) :
    ((escalateRepeat n k s).calls.stations[m]).panelLost = (s.calls.stations[m]).panelLost := by
  cases entry : s.call n k with
  | none => simp only [escalateRepeat, entry]
  | some x =>
    simp only [escalateRepeat_calls entry]
    split
    · rfl
    · exact (undisturbed_setCall n k (some (s.climbed x s.tenths)) s).flags m

theorem undisturbed_kindPress (n : Fin 160) (z : Fin 8) (k : Kind) (o : Origin) (s : State) : Undisturbed s (kindPress n z k o s) := by
  have stays : Stays (Scope.onBlocks [.calls, .alerts, .shift, .display, .rendering, .journal, .interrupts] false) s (kindPress n z k o s) :=
    (Stays.refl s).thenKindPress {} n z k o
  refine .of_drives (stays.blocks .drives (by simp)) fun m => ?_
  cases held : s.call n k with
  | none =>
    rw [kindPress_opens o held, openCall_calls]
    have entered := (undisturbed_setCall n k (some (s.newCall n z k o)) s).flags m
    exact ((undisturbed_countRaised n (opened n z k (s.newCall n z k o) s)).flags m).trans entered
  | some c =>
    have calls := repeatCall_calls (n := n) (k := k) (c := c) o s
    have counted := undisturbed_updCall n k (fun c => { c with repeats := satAdd 255 c.repeats 1 }) s
    rw [kindPress_repeats o held]
    generalize updCall n k (fun c => { c with repeats := satAdd 255 c.repeats 1 }) s = v at calls counted
    simp only [calls]
    split
    · exact counted.flags m
    · exact (flags_escalateRepeat n k v m).trans (counted.flags m)

theorem undisturbed_answerStop (r : CallRef) (z : Fin 8) (s : State) : Undisturbed s (answerStop r z s) := by
  unfold answerStop
  split
  · dsimp only
    split
    · exact .refl s
    · exact undisturbed_updCall ..
    · split
      · exact .refl s
      · exact (undisturbed_updCall ..).trans (undisturbed_removeDemand ..)
  · exact .refl s

theorem undisturbed_answerOne (n : Fin 160) (z : Fin 8) (k : Kind) (x : Nat) (c : Call) (s : State) :
    Undisturbed s (answerOne n z k x c s) := by
  rw [answerOne_eq]
  have mark : Undisturbed s (marked n k s) := (undisturbed_updCall n k
    (fun c => { c with answered := true, answeredAt := some s.partTime, nextEscalation := none }) s).trans (.of_calls rfl rfl)
  have stopped := mark.trans (undisturbed_answerStop ⟨n, k, c.serial⟩ z (marked n k s))
  generalize answerStop ⟨n, k, c.serial⟩ z (marked n k s) = v at stopped ⊢
  refine stopped.trans (.of_calls ?_ ?_)
  · rw [follow_drv_drives, logCall, log_drv]
  · rw [follow_calls, logCall, log_calls]

theorem undisturbed_clearOne (n : Fin 160) (z : Fin 8) (k : Kind) (x : Nat) (c : Call) (s : State) :
    Undisturbed s (clearOne n z k x c s) := by
  have stopped : Undisturbed s (clearStop ⟨n, k, c.serial⟩ z s) := by
    unfold clearStop
    split
    · exact undisturbed_removeDemand ..
    · exact .refl s
  have calls : (clearOne n z k x c s).calls = (cleared n z k c s).calls := by rw [clearOne_eq, reportClosing_calls, clearing_calls]
  refine ⟨fun m => ?_, fun d e held => stopped.demands d e ?_⟩
  · rw [calls]
    exact (undisturbed_setCall n k none s).flags m
  · rw [clearOne_eq, State.drive, reportClosing_drives] at held
    exact (clearing_drive (n := n) (k := k) (z := z) x c s d) ▸ held

theorem undisturbed_keyPress (n : Fin 160) (z : Fin 8) (s : State) : Undisturbed s (keyPress n z s) := by
  unfold keyPress
  generalize (s.raisedCalls n).isEmpty = clears
  generalize s.keyedCalls n = l
  have step (c : Kind × Call) (t : State) : Undisturbed t (if clears then clearOne n z c.1 clearKey c.2 t else answerOne n z c.1 0 c.2 t) := by
    split
    · exact undisturbed_clearOne ..
    · exact undisturbed_answerOne ..
  induction l generalizing s with
  | nil => exact .refl s
  | cons c cs ih => exact (step c s).trans (ih _)

theorem undisturbed_rewriteCallRows (old : State) (n : Fin 160) (groups : List Row) (z : Fin 8) (s : State) :
    Undisturbed s (rewriteCallRows old n groups z s) := .of_calls rfl rfl

theorem undisturbed_ignorePress (n : Fin 160) (s : State) : Undisturbed s (ignorePress n s) :=
  (undisturbed_updStation n (g := fun r => { r with ignored := satAdd 65535 r.ignored 1 }) (fun _ => rfl) s).trans (.of_calls rfl rfl)

theorem undisturbed_press (n : Fin 160) (i : PressInput) (s : State) : Undisturbed s (press n i s) := by
  have stepped : Undisturbed s (pressStep n i s) := by
    unfold pressStep
    split
    · exact undisturbed_ignorePress ..
    · split
      · exact undisturbed_ignorePress ..
      · exact undisturbed_ignorePress ..
      · exact (undisturbed_kindPress ..).trans (undisturbed_rewriteCallRows ..)
      · split
        · exact undisturbed_ignorePress ..
        · exact (undisturbed_keyPress ..).trans (undisturbed_rewriteCallRows ..)
  refine stepped.trans (.of_calls ?_ ?_)
  · rw [press, callsOnly_drv, settle_drv_drives]
  · rw [press, callsOnly_calls, settle_calls]

end Sys2Proof.Machine
end

section
/-! Proofs for an accepted answer (sections 3.4 to 3.7): the panel that it leaves, and the numbers of its events. -/

namespace Sys2Proof.Machine

variable {s t u : State} {p : Fin 40} {q : Poll} {e : PanelEvent}

/-! ### Events (R44, R46) -/

/-- A panel without what its events change. -/
def Panel.eventless (v : Panel) : Panel := { v with last := 0, base := false, eventsLost := 0 }

/-- What the events of an answer leave: the poll, the panel but for their count, and a recovery. -/
structure EventsTaken (p : Fin 40) (s t : State) : Prop where
  poll : t.loop.poll = s.loop.poll
  panel : (t.loop.panels[p]).eventless = (s.loop.panels[p]).eventless
  undisturbed : Undisturbed s t

theorem EventsTaken.refl (p : Fin 40) (s : State) : EventsTaken p s s := ⟨rfl, rfl, .refl s⟩

theorem EventsTaken.trans (h : EventsTaken p s t) (k : EventsTaken p t u) : EventsTaken p s u :=
  ⟨k.poll.trans h.poll, k.panel.trans h.panel, h.undisturbed.trans k.undisturbed⟩

theorem press_loop (n : Fin 160) (i : PressInput) (s : State) : (press n i s).loop = s.loop :=
  ((Stays.refl (f := Scope.onBlocks [.calls, .alerts, .shift, .drives, .display, .rendering, .attribution, .service, .orders, .journal,
    .interrupts] false) s).thenPress {} n i).blocks .loop (by simp)

theorem pressAt_loop (p : Fin 40) (c : Nat) (i : PressInput) (s : State) : (pressAt p c i s).loop = s.loop := by
  unfold pressAt
  split
  · exact press_loop ..
  · rfl

theorem undisturbed_pressAt (p : Fin 40) (c : Nat) (i : PressInput) (s : State) : Undisturbed s (pressAt p c i s) := by
  unfold pressAt
  split
  · exact undisturbed_press ..
  · exact .refl s

theorem takePress_loop (p : Fin 40) (e : PanelEvent) (s : State) : (takePress p e s).loop
    = (updPanel p (fun v => { v with last := e.number, base := true }) s).loop := by
  unfold takePress
  dsimp only
  split
  · exact pressAt_loop ..
  · rfl

theorem takePress_panel (p : Fin 40) (e : PanelEvent) (s : State) : (takePress p e s).loop.panels[p]
    = { s.loop.panels[p] with last := e.number, base := true } := by
  simp only [takePress_loop, updPanel_panel, if_true]

theorem takePress_taken (p : Fin 40) (e : PanelEvent) (s : State) : EventsTaken p s (takePress p e s) where
  poll := (congrArg CallLoop.poll (takePress_loop p e s)).trans rfl
  panel := by rw [takePress_panel]; rfl
  undisturbed := by
    have counted : Undisturbed s (updPanel p (fun v => { v with last := e.number, base := true }) s) := .of_calls rfl rfl
    unfold takePress
    dsimp only
    split
    · exact counted.trans (undisturbed_pressAt ..)
    · exact counted

theorem reportGap_panel (p : Fin 40) (e : PanelEvent) (g : Nat) (s : State) : (reportGap p e g s).loop.panels[p]
    = { s.loop.panels[p] with eventsLost := satAdd 65535 (s.loop.panels[p]).eventsLost g } := (updPanel_panel ..).trans (if_pos rfl)

theorem reportGap_taken (p : Fin 40) (e : PanelEvent) (g : Nat) (s : State) : EventsTaken p s (reportGap p e g s) :=
  ⟨rfl, by rw [reportGap_panel]; rfl, .of_calls rfl rfl⟩

theorem takeEvent_taken (p : Fin 40) (e : PanelEvent) (s : State) : EventsTaken p s (takeEvent p e s) := by
  unfold takeEvent
  dsimp only
  split
  · exact takePress_taken ..
  · split
    · exact .refl p s
    · split
      · exact takePress_taken ..
      · exact (reportGap_taken ..).trans (takePress_taken ..)

theorem each_takeEvent_taken (p : Fin 40) (l : List PanelEvent) (s : State) : EventsTaken p s (each l (takeEvent p) s) := by
  induction l generalizing s with
  | nil => exact .refl p s
  | cons e es ih => exact (takeEvent_taken p e s).trans (ih _)

theorem takeEvent_duplicate (based : (s.loop.panels[p]).base = true) (known : ((s.loop.panels[p]).last - e.number).toNat < 8) :
    takeEvent p e s = s := by
  simp only [takeEvent, based, known, Bool.not_true, Bool.false_eq_true, if_false, if_true]

/-- An event ahead of L: L becomes its number, and the numbers passed over are counted as lost. -/
theorem takeEvent_ahead (based : (s.loop.panels[p]).base = true) (ahead : 8 ≤ ((s.loop.panels[p]).last - e.number).toNat) :
    ((takeEvent p e s).loop.panels[p]).last = e.number ∧ ((takeEvent p e s).loop.panels[p]).eventsLost
      = if e.number = (s.loop.panels[p]).last + 1 then (s.loop.panels[p]).eventsLost
        else min ((s.loop.panels[p]).eventsLost + (e.number - (s.loop.panels[p]).last - 1).toNat) 65535 := by
  by_cases next : e.number = (s.loop.panels[p]).last + 1
  · have taken : takeEvent p e s = takePress p e s := by
      simp only [takeEvent, based, if_neg (Nat.not_lt.2 ahead), if_pos next, Bool.not_true, Bool.false_eq_true, if_false]
    rw [taken, takePress_panel, if_pos next]
    exact ⟨rfl, rfl⟩
  · have taken : takeEvent p e s = takePress p e (reportGap p e (e.number - (s.loop.panels[p]).last - 1).toNat s) := by
      simp only [takeEvent, based, Nat.not_lt.2 ahead, next, Bool.not_true, Bool.false_eq_true, if_false]
    rw [taken, takePress_panel, if_neg next, reportGap_panel]
    exact ⟨rfl, rfl⟩

/-! ### An accepted answer (R43) -/

/-- The state in which the events of an accepted answer are taken. -/
def judged (q : Poll) (s : State) : State := judgePanel q.panel true (recorded q true s)

theorem endPoll_accepted (held : q.void = false) (l : List PanelEvent) (s : State) : endPoll q (some ⟨false, l⟩) s
    = writeRow (.panel q.panel) (updPanel q.panel (fun w => w.schedule s.ms) (each l (takeEvent q.panel) (judged q s))) := by
  simp only [endPoll, held]
  rfl

theorem judged_panel (q : Poll) (s : State) : (judged q s).loop.panels[q.panel]
    = ((s.loop.panels[q.panel]).record true q.lamps).turned true := by
  have loop := judgePanel_loop q.panel true (recorded q true s)
  rw [← recorded_panel]
  exact (congrArg (fun v : CallLoop => v.panels[q.panel]) loop).trans ((upd_getElem ..).trans (if_pos rfl))

theorem judged_flagged (q : Poll) (s : State) : Flagged s (judged q s) := 
  (judgePanel_flagged q.panel true (recorded q true s)).congr rfl rfl

theorem judged_poll (q : Poll) (s : State) : (judged q s).loop.poll = none :=
  congrArg CallLoop.poll (judgePanel_loop q.panel true (recorded q true s))

theorem judged_recovered (lost : (s.loop.panels[q.panel]).state = .lost) : Recovered q.panel (judged q s) :=
  judgePanel_recovered (by rw [recorded_panel]; exact lost)

/-- The panel that an accepted answer leaves before its events, in the words of R43 and R47. -/
theorem accepted_panel (v : Panel) (lamps : Vector Lamp 4) :
    let w := (v.record true lamps).turned true
    let h := (v.history ++ [false]).drop (v.history.length - 7)
    w.answered = min (v.answered + 1) 65535 ∧ w.failed = v.failed ∧ w.failures = 0 ∧ w.history = h ∧ w.lamps = lamps
      ∧ w.state = (if 2 ≤ failuresIn h then .weak else .online) ∧ w.last = v.last ∧ w.base = v.base ∧ w.eventsLost = v.eventsLost := by
  have history : (v.record true lamps).history = (v.history ++ [false]).drop (v.history.length - 7) := by
    show (v.history ++ [false]).drop ((v.history ++ [false]).length - 8) = _
    rw [List.length_append, List.length_singleton]
    rfl
  have keeps : ∀ u : Panel, (u.turned true).answered = u.answered ∧ (u.turned true).failed = u.failed
      ∧ (u.turned true).failures = u.failures ∧ (u.turned true).history = u.history ∧ (u.turned true).lamps = u.lamps
      ∧ (u.turned true).state = u.judged true ∧ (u.turned true).last = u.last ∧ (u.turned true).base = u.base
      ∧ (u.turned true).eventsLost = u.eventsLost := by
    intro u
    unfold Panel.turned
    split <;> exact ⟨rfl, rfl, rfl, rfl, rfl, rfl, rfl, rfl, rfl⟩
  obtain ⟨answered, failed, failures, hist, lamps_, state, last, base, lost⟩ := keeps (v.record true lamps)
  refine ⟨answered, failed, failures, hist.trans history, lamps_, ?_, last, base, lost⟩
  rw [state, judged_success, history]

/-- The call loop and the call table after an accepted answer are those that its events leave. -/
theorem acceptedPoll_loop (held : q.void = false) (l : List PanelEvent) (s : State) :
    (endPoll q (some ⟨false, l⟩) s).loop.poll = none
      ∧ (endPoll q (some ⟨false, l⟩) s).loop.panels[q.panel] = (each l (takeEvent q.panel) (judged q s)).loop.panels[q.panel]
      ∧ (endPoll q (some ⟨false, l⟩) s).calls = (each l (takeEvent q.panel) (judged q s)).calls
      ∧ (endPoll q (some ⟨false, l⟩) s).drv = (each l (takeEvent q.panel) (judged q s)).drv := by
  have taken := each_takeEvent_taken q.panel l (judged q s)
  obtain ⟨-, -, -, -, -, state, -⟩ := accepted_panel s.loop.panels[q.panel] q.lamps
  have panel := taken.panel
  rw [judged_panel] at panel
  have state' := (congrArg Panel.state panel).trans state
  have poll := taken.poll.trans (judged_poll q s)
  rw [endPoll_accepted held]
  generalize each l (takeEvent q.panel) (judged q s) = u at poll state'
  have kept : (u.loop.panels[q.panel]).schedule s.ms = u.loop.panels[q.panel] := by
    refine if_neg fun lost => ?_
    rw [show (u.loop.panels[q.panel]).state = _ from state'] at lost
    split at lost <;> simp at lost
  refine ⟨poll, ?_, rfl, rfl⟩
  refine (congrArg (fun v : CallLoop => v.panels[q.panel]) (writeRow_loop ..)).trans ?_
  exact (updPanel_panel ..).trans ((if_pos rfl).trans kept)

theorem panelAnswer_accepts {l : List PanelEvent} (poll : s.loop.poll = some q) (fine : wellFormedAnswer l = true) (lost : Bool) :
    panelAnswer (.answer (num q.panel) lost l) s = loopOnly s (endPoll q (some ⟨lost, l⟩) s) := by
  simp only [panelAnswer, poll, fine, Bool.not_true, Bool.false_eq_true, if_false, if_true]

theorem panelAnswer_foreign {l : List PanelEvent} {a : Nat} (poll : s.loop.poll = some q) (fine : wellFormedAnswer l = true)
    (other : a ≠ num q.panel) (lost : Bool) :
    panelAnswer (.answer a lost l) s = loopOnly s (failAttempt q (countMismatch q s)) := by
  simp only [panelAnswer, poll, fine, other, Bool.not_true, Bool.false_eq_true, if_false]

/-- Settles O51: an accepted answer records its success and takes its events; a foreign address fails the attempt. -/
theorem panelAnswersEndPolls : Obligations.PanelAnswersEndPolls := by
  refine fun s q poll held => ⟨fun l fine => ⟨panelAnswer _ s, rfl, ?_⟩, fun a x l fine other early => ⟨panelAnswer _ s, rfl, ?_⟩⟩
  · rw [panelAnswer_accepts poll fine]
    obtain ⟨free, panel, calls, drv⟩ := acceptedPoll_loop held l s
    obtain ⟨-, taken, undisturbed⟩ := each_takeEvent_taken q.panel l (judged q s)
    obtain ⟨answered, failed, failures, hist, lamps, state, last, base, lost⟩ := accepted_panel s.loop.panels[q.panel] q.lamps
    have before := judged_panel q s
    have flagged := judged_flagged q s
    have recovers := judged_recovered (q := q) (s := s)
    have none_ : l = [] → each l (takeEvent q.panel) (judged q s) = judged q s := fun empty => by rw [empty]; rfl
    have one : ∀ e, l = [e] → each l (takeEvent q.panel) (judged q s) = takeEvent q.panel e (judged q s) := fun e single => by rw [single]; rfl
    generalize endPoll q (some ⟨false, l⟩) s = t at free panel calls drv ⊢
    generalize each l (takeEvent q.panel) (judged q s) = u at panel calls drv taken undisturbed none_ one
    generalize judged q s = v at before flagged recovers taken undisturbed none_ one
    have same : (loopOnly s t).loop.panels[q.panel] = u.loop.panels[q.panel] := panel
    have calls' : (loopOnly s t).calls = u.calls := calls
    rw [before] at taken
    simp only [same, calls']
    refine ⟨free, ?_, ?_, ?_, ?_, ?_, ?_, fun lost_ => ⟨?_, fun d z => ?_⟩, fun empty => ?_, fun e single based => ⟨fun known => ?_, fun ahead => ?_⟩⟩
    · exact (congrArg Panel.answered taken).trans answered
    · exact (congrArg Panel.failed taken).trans failed
    · exact (congrArg Panel.failures taken).trans failures
    · exact (congrArg Panel.history taken).trans hist
    · exact (congrArg Panel.lamps taken).trans lamps
    · exact (congrArg Panel.state taken).trans state
    · exact ((recovers lost_).undisturbed undisturbed).flags
    · rw [Bool.eq_false_iff]
      intro held
      refine ((recovers lost_).undisturbed undisturbed).demands d z ?_
      simp only [State.drive, loopOnly_drv, drv] at held ⊢
      exact List.contains_iff_mem.1 held
    · rw [none_ empty, before]
      exact ⟨last, base, lost, flagged.active⟩
    · rw [one e single, takeEvent_duplicate (by rw [before, base]; exact based) (by rw [before, last]; exact known), before]
      exact ⟨last, lost, flagged.active, flagged.nextSerial⟩
    · have counted := takeEvent_ahead (s := v) (p := q.panel) (e := e) (by rw [before, base]; exact based) (by rw [before, last]; exact ahead)
      rw [before, last, lost, ← one e single] at counted
      exact counted
  · have counted : countMismatch q s = updPanel q.panel (fun v => { v with mismatches := satAdd 65535 v.mismatches 1 }) s := by
      simp only [countMismatch, held, Bool.false_eq_true, if_false]
    rw [panelAnswer_foreign poll fine other, counted, failAttempt_sends early, held]
    have panel := updPanel_panel q.panel q.panel (fun v => { v with mismatches := satAdd 65535 v.mismatches 1 }) s
    rw [if_pos rfl] at panel
    refine ⟨congrArg Panel.mismatches panel, rfl, ?_⟩
    rw [loopOnly_calls, sendAttempt, setPoll_calls, updPanel_calls]

end Sys2Proof.Machine
end

section
/-! Proofs for the presses of an accepted answer (sections 3.5 and 4.2): where a press acts on the call table. -/

namespace Sys2Proof.Machine

variable {s t u : State} {n : Fin 160} {z : Fin 8} {k : Kind} {i : PressInput}

/-! ### The calls of a station -/

theorem mem_stationCalls {x : Kind × Call} : x ∈ s.stationCalls n ↔ s.call n x.1 = some x.2 := by
  have listed : ∀ k : Kind, k ∈ Kind.all := fun k => by cases k <;> decide
  obtain ⟨k, c⟩ := x
  simp only [State.stationCalls, List.mem_filterMap, Option.map_eq_some_iff, Prod.mk.injEq]
  constructor
  · rintro ⟨j, -, d, held, rfl, rfl⟩
    exact held
  · exact fun held => ⟨k, listed k, c, held, rfl, rfl⟩

/-- A station lists each kind at most once. -/
theorem stationCalls_nodup (s : State) (n : Fin 160) : ((s.stationCalls n).map Prod.fst).Nodup := by
  have kinds : Kind.all.Nodup := by decide
  have sub : ((s.stationCalls n).map Prod.fst).Sublist Kind.all := by
    unfold State.stationCalls
    generalize Kind.all = l
    induction l with
    | nil => exact List.Sublist.slnil
    | cons j js ih =>
      rw [List.filterMap_cons]
      cases s.call n j with
      | none => exact ih.cons j
      | some c => exact ih.cons_cons j
  exact sub.nodup kinds

theorem stationCalls_congr (same : ∀ k, t.call n k = s.call n k) : t.stationCalls n = s.stationCalls n := by
  simp only [State.stationCalls, same]

theorem stationZone_congr (setup : t.setup = s.setup) (n : Fin 160) : t.stationZone n = s.stationZone n := by
  have holds : t.zoneHolds = s.zoneHolds := funext fun m => funext fun y => by simp only [State.zoneHolds, State.zone, setup]
  simp only [State.stationZone, holds]

theorem zone_of_stationZone (here : s.stationZone n = some z) : ∃ f, s.zone z = some f := by
  have holds := List.find?_some here
  unfold State.zoneHolds at holds
  split at holds
  · next f zone => exact ⟨f, zone⟩
  · simp at holds

/-! ### A press that counts as ignored (R57) -/

theorem press_calls (n : Fin 160) (i : PressInput) (s : State) : (press n i s).calls = (pressStep n i s).calls := by
  rw [press, callsOnly_calls, settle_calls]

theorem ignorePress_table (n : Fin 160) (s : State) :
    ((ignorePress n s).calls.stations[n]).ignored = min ((s.calls.stations[n]).ignored + 1) 65535
      ∧ (∀ m k, (ignorePress n s).call m k = s.call m k) ∧ (ignorePress n s).calls.active = s.calls.active := by
  refine ⟨congrArg Station.ignored ((updStation_station ..).trans (if_pos rfl)), fun m k => ?_, rfl⟩
  exact updStation_call (n := n) (g := fun r => { r with ignored := satAdd 65535 r.ignored 1 }) (fun _ => rfl) m k s

theorem pressStep_ignored (free : s.stationZone n = none ∨ ∃ z, s.stationZone n = some z ∧ (s.setup.service[z] = .outOfService
    ∨ s.setup.service[z] = .draining ∧ i ≠ .key ∨ i = .key ∧ s.stationCalls n = [])) : pressStep n i s = ignorePress n s := by
  rcases free with none_ | ⟨z, here, out | ⟨draining, kind⟩ | ⟨rfl, empty⟩⟩
  · simp only [pressStep, none_]
  · simp only [pressStep, here, out]
  · cases named : i.kind? with
    | none => exact absurd (by cases i <;> simp [PressInput.kind?] at named ⊢) kind
    | some k => simp only [pressStep, here, draining, named]
  · simp only [pressStep, here, PressInput.kind?, empty]
    cases s.setup.service[z] <;> rfl

/-! ### A press of a kind (R58) -/

theorem pressStep_kind (here : s.stationZone n = some z) (working : s.setup.service[z] = .inService) (named : i.kind? = some k) :
    pressStep n i s = rewriteCallRows s n (s.pressGroup n k) z (kindPress n z k .panel s) := by
  simp only [pressStep, here, working, named]

theorem press_opens (here : s.stationZone n = some z) (working : s.setup.service[z] = .inService) (named : i.kind? = some k)
    (free : s.call n k = none) : (press n i s).call n k = some (s.newCall n z k .panel)
      ∧ (press n i s).calls.active[z] = s.calls.active[z] ++ [⟨n, k, s.calls.nextSerial⟩]
      ∧ (press n i s).calls.nextSerial = s.calls.nextSerial + 1 := by
  have calls : (press n i s).calls = (openCall n z k .panel s).calls := by
    rw [press_calls, pressStep_kind here working named, rewriteCallRows_calls, kindPress_opens .panel free]
  refine ⟨?_, ?_, ?_⟩
  · rw [call_congr calls, openCall_call, if_pos rfl]
  · rw [openCall_calls] at calls
    simp only [calls, (countRaised_lists _).1]
    exact (upd_getElem ..).trans (if_pos rfl)
  · rw [calls, openCall_calls, (countRaised_lists _).2]
    rfl

/-! ### A press of KEY (R60, R63) -/

theorem pressStep_key (here : s.stationZone n = some z) (working : s.works z = true) (open_ : s.stationCalls n ≠ []) :
    pressStep n .key s = rewriteCallRows s n (groupRowsOf ((s.keyedCalls n).map Prod.snd)) z (keyPress n z s) := by
  have some_ : (s.stationCalls n).isEmpty = false := by simpa using open_
  simp only [pressStep, here, PressInput.kind?, some_]
  cases service : s.setup.service[z] with
  | outOfService => simp [State.works, service, -Fin.getElem_fin] at working
  | draining => rfl
  | inService => rfl

theorem stays_answerOne (n : Fin 160) (z : Fin 8) (k : Kind) (x : Nat) (c : Call) (s : State) :
    Stays (Scope.logged callBlocks) s (answerOne n z k x c s) :=
  (Stays.refl s).thenAnswerOne callsOf_callBlocks callBlocks_demands n z k x c

/-- The entry of a call that KEY has answered at a time. -/
structure KeyAnswered (at_ : Word) (c y : Call) : Prop where
  answered : y.answered = true
  answeredAt : y.answeredAt = some at_
  nextEscalation : y.nextEscalation = none
  serial : y.serial = c.serial

/-- KEY answers each listed call once. -/
theorem each_answerOne {f : ZoneDef} (l : List (Kind × Call)) (t : State) (zone : t.zone z = some f)
    (once : (l.map Prod.fst).Nodup) (held : ∀ x ∈ l, t.call n x.1 = some x.2) :
    (∀ j, j ∉ l.map Prod.fst → (each l (fun c t => answerOne n z c.1 0 c.2 t) t).call n j = t.call n j)
      ∧ ∀ x ∈ l, ∃ y, (each l (fun c t => answerOne n z c.1 0 c.2 t) t).call n x.1 = some y ∧ KeyAnswered t.partTime x.2 y := by
  induction l generalizing t with
  | nil => exact ⟨fun _ _ => rfl, fun x hx => by simp at hx⟩
  | cons c cs ih =>
    rw [List.map_cons, List.nodup_cons] at once
    obtain ⟨fresh, once⟩ := once
    obtain ⟨table, -⟩ := answerOne_table zone (held c List.mem_cons_self) 0
    obtain ⟨setup, ms, -⟩ := (stays_answerOne n z c.1 0 c.2 t).callFrame
    have apart : ∀ j, j ≠ c.1 → (answerOne n z c.1 0 c.2 t).call n j = t.call n j := fun j ne =>
      (table n j).trans (if_neg fun h => ne (congrArg Prod.snd h))
    obtain ⟨others, answers⟩ := ih (answerOne n z c.1 0 c.2 t) (by simp only [State.zone, setup]; exact zone) once fun x hx =>
      (apart x.1 fun same => fresh (same ▸ List.mem_map_of_mem hx)).trans (held x (List.mem_cons_of_mem _ hx))
    refine ⟨fun j out => ?_, fun x hx => ?_⟩
    · rw [List.map_cons, List.mem_cons, not_or] at out
      exact (others j out.2).trans (apart j out.1)
    · rcases List.mem_cons.1 hx with rfl | hx
      · exact ⟨_, (others x.1 fresh).trans ((table n x.1).trans (if_pos rfl)), rfl, rfl, rfl, rfl⟩
      · obtain ⟨y, entry, answered⟩ := answers x hx
        rw [partTime_congr ms] at answered
        exact ⟨y, entry, answered⟩

/-- KEY clears each listed call. -/
theorem each_clearOne (l : List (Kind × Call)) (t : State) {j : Kind} (gone : j ∈ l.map Prod.fst ∨ t.call n j = none) :
    (each l (fun c t => clearOne n z c.1 clearKey c.2 t) t).call n j = none := by
  induction l generalizing t with
  | nil => exact gone.resolve_left (by simp)
  | cons c cs ih =>
    obtain ⟨table, -⟩ := clearOne_table (n := n) (k := c.1) (z := z) clearKey c.2 t
    refine ih (clearOne n z c.1 clearKey c.2 t) ?_
    by_cases same : j = c.1
    · exact .inr ((table n j).trans (if_pos (by rw [same])))
    · rcases gone with listed | none_
      · exact .inl (List.mem_of_ne_of_mem same listed)
      · exact .inr ((table n j).trans ((if_neg fun h => same (congrArg Prod.snd h)).trans none_))

theorem keyPress_answers {c : Call} (zone : ∃ f, s.zone z = some f) (held : s.call n k = some c) (raised : c.answered = false) :
    ∃ y, (keyPress n z s).call n k = some y ∧ KeyAnswered s.partTime c y := by
  obtain ⟨f, zone⟩ := zone
  have mem : (k, c) ∈ s.raisedCalls n := List.mem_filter.2 ⟨mem_stationCalls.2 held, by simp [raised]⟩
  have some_ : (s.raisedCalls n).isEmpty = false := List.isEmpty_eq_false_iff_exists_mem.2 ⟨_, mem⟩
  have shape : keyPress n z s = each (s.raisedCalls n) (fun c t => answerOne n z c.1 0 c.2 t) s := by
    simp only [keyPress, State.keyedCalls, some_, Bool.false_eq_true, if_false]
  rw [shape]
  have once : ((s.raisedCalls n).map Prod.fst).Nodup := (List.filter_sublist.map Prod.fst).nodup (stationCalls_nodup s n)
  exact (each_answerOne _ s zone once fun x hx => mem_stationCalls.1 (List.mem_of_mem_filter hx)).2 (k, c) mem

theorem keyPress_clears {c : Call} (held : s.call n k = some c) (all : ∀ j y, s.call n j = some y → y.answered = true) :
    (keyPress n z s).call n k = none := by
  have none_ : (s.raisedCalls n).isEmpty = true := List.isEmpty_iff.2 (List.filter_eq_nil_iff.2 fun x hx => by
    simp [all x.1 x.2 (mem_stationCalls.1 hx)])
  have shape : keyPress n z s = each (s.stationCalls n) (fun c t => clearOne n z c.1 clearKey c.2 t) s := by
    simp only [keyPress, State.keyedCalls, none_, if_true]
  rw [shape]
  exact each_clearOne _ s (.inl (List.mem_map.2 ⟨(k, c), mem_stationCalls.2 held, rfl⟩))

/-! ### The next event of a panel -/

/-- The state in which the one press of an accepted answer acts. -/
def pressing (q : Poll) (e : PanelEvent) (s : State) : State :=
  updPanel q.panel (fun v => { v with last := e.number, base := true }) (judged q s)

theorem panelAnswer_presses {q : Poll} {e : PanelEvent} {c : Fin 4} (poll : s.loop.poll = some q) (held : q.void = false)
    (based : (s.loop.panels[q.panel]).base = true) (next : e.number = (s.loop.panels[q.panel]).last + 1) (channel : e.channel = c.val)
    (input : e.input = some i) : (panelAnswer (.answer (num q.panel) false [e]) s).calls
      = (press (stationAt q.panel c) i (pressing q e s)).calls := by
  have fine : wellFormedAnswer [e] = true := by simp [wellFormedAnswer, channel, input]
  obtain ⟨-, -, -, -, -, -, last, base, -⟩ := accepted_panel s.loop.panels[q.panel] q.lamps
  rw [← judged_panel] at last base
  have ahead : ¬ ((s.loop.panels[q.panel]).last - e.number).toNat < 8 := by
    rw [next]
    bv_omega
  have taken : takeEvent q.panel e (judged q s) = takePress q.panel e (judged q s) := by
    simp only [takeEvent, base, based, last, if_neg ahead, if_pos next, Bool.not_true, Bool.false_eq_true, if_false]
  have pressed : takePress q.panel e (judged q s) = press (stationAt q.panel c) i (pressing q e s) := by
    simp only [takePress, input, pressAt, channel, c.isLt, dif_pos]
    rfl
  obtain ⟨-, -, calls, -⟩ := acceptedPoll_loop held [e] s
  rw [panelAnswer_accepts poll fine, loopOnly_calls, calls, ← pressed, ← taken]
  rfl

/-- What the judgement of the poll leaves for the press. -/
theorem pressing_keeps (q : Poll) (e : PanelEvent) (s : State) : Flagged s (pressing q e s)
    ∧ (pressing q e s).setup = s.setup ∧ (pressing q e s).ms = s.ms := by
  have stays : Stays (Scope.onBlocks [.drives, .attribution, .boards, .journal, .interrupts, .display, .rendering, .loop, .calls] false)
      (recorded q true s) (judged q s) := (Stays.refl _).thenJudgePanel {} {} q.panel true
  have ms : (judged q s).ms = (recorded q true s).ms := stays.blocks .time (by simp)
  have setup : (judged q s).setup = (recorded q true s).setup := judgePanel_setup ..
  refine ⟨(judged_flagged q s).congr rfl (updPanel_calls ..), ?_, ?_⟩
  · rw [pressing, updPanel_setup, setup, recorded, updPanel_setup, setPoll_setup]
  · rw [pressing, updPanel_ms, ms, recorded, updPanel_ms, setPoll_ms]

/-- Settles O52: the press of the next event acts on the call table as it stood before the poll. -/
theorem pressesReachTheCallTable : Obligations.PressesReachTheCallTable := by
  refine fun s q e c i poll held based next channel input => ⟨panelAnswer _ s, rfl, ?_⟩
  beta_reduce
  intro n
  have calls := panelAnswer_presses poll held based next channel input
  obtain ⟨flagged, setup, ms⟩ := pressing_keeps q e s
  generalize panelAnswer (.answer (num q.panel) false [e]) s = t at calls ⊢
  generalize pressing q e s = u at calls flagged setup ms
  have here := stationZone_congr setup n
  have time := partTime_congr ms
  refine ⟨fun ignored => ?_, fun z k at_ working kind free => ?_, fun z at_ working key k x open_ => ?_⟩
  · have step : pressStep n i u = ignorePress n u := pressStep_ignored (by
      rw [here, setup, stationCalls_congr (flagged.call n)]
      exact ignored)
    obtain ⟨count, table, active⟩ := ignorePress_table n u
    obtain ⟨b, station⟩ := flagged.stations n
    rw [press_calls, show pressStep (stationAt q.panel c) i u = _ from step] at calls
    rw [calls, active, flagged.active]
    refine ⟨?_, fun m k => ?_, rfl⟩
    · rw [count, station]
    · rw [call_congr calls, table, flagged.call]
  · obtain ⟨entry, active, serial⟩ := press_opens (here.trans at_) (by rw [setup]; exact working) kind ((flagged.call n k).trans free)
    rw [calls, call_congr calls]
    refine ⟨⟨_, entry, rfl, rfl, flagged.nextSerial, time, rfl, rfl, ?_⟩, ?_, ?_⟩
    · show (u.setup.bindings[n]).group = _
      rw [setup]
    · rw [active, flagged.active, flagged.nextSerial]
    · rw [serial, flagged.nextSerial]
  · subst key
    have entry := (flagged.call n k).trans open_
    have working' : u.works z = true := by rw [State.works, setup]; exact working
    have step := pressStep_key (here.trans at_) working' (List.ne_nil_of_mem (mem_stationCalls.2 (show u.call n (k, x).1 = some (k, x).2 from entry)))
    rw [press_calls, show pressStep (stationAt q.panel c) .key u = _ from step, rewriteCallRows_calls] at calls
    rw [call_congr calls]
    refine ⟨fun raised => ?_, fun all => keyPress_clears entry fun j y there => all j y ((flagged.call n j).symm.trans there)⟩
    obtain ⟨y, answered⟩ := keyPress_answers (zone_of_stationZone (here.trans at_)) entry raised
    obtain ⟨entry', answered, answeredAt, timer, serial⟩ := answered
    exact ⟨y, entry', answered, answeredAt.trans (by rw [time]), timer, serial⟩

end Sys2Proof.Machine
end

section
/-! Proofs for the boards' timers and for the rendering of a field (sections 9.2 and 9.4). -/

namespace Sys2Proof.Machine

variable {s t u : State} {b : Fin 16}

/-! ### Timers and the rendering of the second (R145, R146, R149) -/

theorem updBoard_same (b : Fin 16) (g : Board → Board) (s : State) : (updBoard b g s).brd.boards[b] = g s.brd.boards[b] :=
  (upd_getElem ..).trans (if_pos rfl)

theorem probeDue_eq {x : Nat} (timer : (s.brd.boards[b]).probeAt = some x) :
    probeDue b s = updBoard b (fun v => { v with probeDue := true, probeAt := none }) (s.reach x) := by
  simp only [probeDue, timer]

theorem refreshTimerExpiry_eq {x : Nat} (timer : (s.brd.boards[b]).refreshAt = some x) : refreshTimerExpiry b s
    = boardOnly (s.reach x) (syncRow (s.reach x) (.board b)
      (updBoard b (fun v => { v.allStale with refreshAt := some ((s.reach x).ms + 1000 * s.brd.refresh) }) (s.reach x))) := by
  simp only [refreshTimerExpiry, timer]
  rfl

theorem renderAll_board (b : Fin 16) (s : State) : (renderAll s).brd.boards[b] = renderBoard true s s s.brd.boards[b] := by
  show (s.brd.boards.map (renderBoard true s s))[b] = _
  exact Vector.getElem_map ..

theorem fieldContent_forced {v : Board} {f : Fin 32} (used : v.inUse f = true) (old s : State) :
    fieldContent true old s v f = match v.entries[f] with
      | some e => s.render e
      | none => Content.empty := by
  unfold fieldContent
  rw [if_pos used]
  cases v.entries[f] <;> rfl

theorem renderBoard_field {v : Board} {d : BoardDef} {f : Fin 32} (defined : v.definition = some d) (used : num f ≤ d.fields)
    (force : Bool) (old s : State) : (renderBoard force old s v).content[f] = fieldContent force old s v f
      ∧ (renderBoard force old s v).stale[f]
        = (v.state != .disabled && (v.stale[f] || fieldContent force old s v f != v.content[f])) := by
  have inUse : v.inUse f = true := by simp only [Board.inUse, defined, used, decide_true]
  simp only [renderBoard, defined, Fin.getElem_fin, Vector.getElem_ofFn, Fin.eta, inUse, Bool.true_and, and_self]

/-! ### The characters of a value (R143) -/

/-- The value shown lies within what the digits and the sign can show. -/
theorem displayed_fst (d : Nat) (signed : Bool) (v : Int) : (displayed d signed v).1
    = min ((10 : Int) ^ d - 1) (max (if signed then 1 - 10 ^ (d - 1) else 0) v) := by
  have power (k : Nat) : (1 : Int) ≤ 10 ^ k := one_le_pow₀ (by decide)
  have range : (if signed then 1 - (10 : Int) ^ (d - 1) else 0) ≤ (10 : Int) ^ d - 1 := by
    have low := power (d - 1)
    have high := power d
    split <;> omega
  have same : (if signed then -((10 : Int) ^ (d - 1) - 1) else 0) = if signed then 1 - (10 : Int) ^ (d - 1) else 0 := by
    split <;> omega
  simp only [displayed, same]
  generalize (if signed then 1 - (10 : Int) ^ (d - 1) else 0) = low at range
  generalize (10 : Int) ^ d - 1 = high at range ⊢
  split
  · next above => show high = _; omega
  · split
    · next below => show low = _; omega
    · show v = _; omega

/-- OVER is set exactly when the value shown is another. -/
theorem displayed_snd (d : Nat) (signed : Bool) (v : Int) : (displayed d signed v).2 = decide (v ≠ (displayed d signed v).1) := by
  unfold displayed
  dsimp only
  generalize (if signed then -((10 : Int) ^ (d - 1) - 1) else 0) = low
  generalize (10 : Int) ^ d - 1 = high
  by_cases above : high < v
  · rw [if_pos above]
    exact (decide_eq_true (show v ≠ high by omega)).symm
  · rw [if_neg above]
    by_cases below : v < low
    · rw [if_pos below]
      exact (decide_eq_true (show v ≠ low by omega)).symm
    · rw [if_neg below]
      exact (decide_eq_false (not_not.2 rfl)).symm

theorem withPoint_eq (places : Nat) (cs : List Byte) : withPoint places cs
    = cs.take (cs.length - places) ++ (if places = 0 then [] else [46]) ++ cs.drop (cs.length - places) := by
  unfold withPoint
  split
  · next none_ => simp [none_]
  · simp

/-- The characters of a value, one at each digit position, with the point before the last places. -/
theorem numberChars_eq {d places : Nat} {v : Option Int} {position : Nat → Byte} (absent : v = none → ∀ i, position i = 45)
    (present : ∀ x, v = some x → ∀ i, position i = digitChar places x i) : numberChars d places v
      = ((List.range d).map fun j => position (d - 1 - j)).take (d - places) ++ (if places = 0 then [] else [46])
        ++ ((List.range d).map fun j => position (d - 1 - j)).drop (d - places) := by
  have row : numberChars d places v = withPoint places ((List.range d).map fun j => position (d - 1 - j)) := by
    cases v with
    | none => simp only [numberChars, absent rfl]
    | some x => simp only [numberChars, present x rfl]
  rw [row, withPoint_eq, List.length_map, List.length_range]

/-! ### The values of the numeric sources (R142) -/

theorem sumOf_eq_sum (l : List Nat) : sumOf l = l.sum := by
  rw [sumOf, List.sum_eq_foldl]

/-- Minutes left rounded up, as the negative of a quotient rounded down. -/
theorem shiftRemaining_eq (s : State) (p : Plan) : s.shiftRemaining p
    = max 0 (-(((s.shift.working : Int) - 600 * ((p.block.length.toNat : Int)
        - (((p.block.breaks.toList.take p.block.count.toNat).map fun x => x.length.toNat).sum : Nat))) / 600)) := by
  have minutes : workingMinutes p.block = (p.block.length.toNat : Int)
      - (((p.block.breaks.toList.take p.block.count.toNat).map fun x => x.length.toNat).sum : Nat) := by
    rw [workingMinutes, sumOf_eq_sum]
  rw [State.shiftRemaining, ← minutes]
  generalize workingMinutes p.block = m
  split <;> omega

theorem intOf_eq (v : Option Nat) : intOf v = v.map Int.ofNat := by
  cases v <;> rfl

theorem oldestAge_eq (s : State) (z : Fin 8) : intOf (s.oldestAge z) = (s.calls.active[z].head?.bind s.callAt).map fun c =>
    (((s.partTime - c.raisedAt).toNat / 10 : Nat) : Int) := by
  unfold State.oldestAge
  cases s.calls.active[z].head? with
  | none => rfl
  | some r =>
    rw [Option.bind_some, intOf_eq]
    dsimp only
    cases s.callAt r <;> rfl

/-- The name text beside the age of the oldest call stands exactly when the age does. -/
theorem oldestName_eq (s : State) (z : Fin 8) : s.oldestName z
    = match s.numericValue (.oldestCallAge z), s.calls.active[z].head? with
      | some _, some r => s.nameChars s.setup.bindings[r.station].name
      | _, _ => blanks := by
  have value : s.numericValue (.oldestCallAge z) = s.ofZone z (intOf (s.oldestAge z)) := rfl
  rw [value, oldestAge_eq, State.oldestName, State.ofZone]
  cases s.calls.active[z].head? with
  | none => cases (s.zone z).isSome <;> rfl
  | some r =>
    rw [Option.bind_some]
    dsimp only
    cases (s.zone z).isSome <;> cases s.callAt r <;> rfl

/-- A field of a numeric source: its number, with the name beside the age of the oldest call. -/
theorem render_number {e : FieldEntry} (status : ∀ z, e.source ≠ .zoneStatus z) (strip : ∀ n c, e.source ≠ .stationStrip n c)
    (text : ∀ x, e.source ≠ .text x) (s : State) : s.render e
      = ⟨bit ((((s.numericValue e.source).map (displayed e.digits e.signed)).map Prod.snd).getD false) + 2 * bit (e.flash && s.flashes e.source),
        numberChars e.digits e.places (((s.numericValue e.source).map (displayed e.digits e.signed)).map Prod.fst)
          ++ match e.source with
            | .oldestCallAge z => s.oldestName z
            | _ => []⟩ := by
  unfold State.render
  dsimp only
  split
  · next z source => exact absurd source (status z)
  · next n c source => exact absurd source (strip n c)
  · next x source => exact absurd source (text x)
  · rfl

theorem stripCode_eq (s : State) (n : Fin 160) : s.stripCode n = match s.stationZone n with
    | none => (0 : Byte)
    | some z =>
      if s.setup.service[z] = .outOfService then 0
      else if (s.stationCalls n).any fun c => c.2.stop.code == 2 then 4
      else if (s.stationCalls n).any fun c => !c.2.answered then 3
      else if (s.stationCalls n).any fun c => c.2.answered then 2
      else 1 := by
  unfold State.stripCode
  cases s.stationZone n with
  | none => rfl
  | some z => exact if_congr (by simp [State.works, -Fin.getElem_fin]) rfl rfl

/-- Settles O47: the timers, the rendering of the second, and each source's rendering case by case. -/
theorem boardTimersAndRendering : Obligations.BoardTimersAndRendering := by
  refine ⟨fun b s x timer => ⟨probeDue b s, rfl, ?_⟩, fun b s x timer => ⟨refreshTimerExpiry b s, rfl, ?_⟩,
    fun s => ⟨renderAll s, rfl, fun b f d defined used => ?_⟩, fun s e => ?_⟩
  · rw [probeDue_eq timer]
    simp only [updBoard_same, and_self, and_true]
    rfl
  · rw [refreshTimerExpiry_eq timer]
    have board := updBoard_same b (fun v => { v.allStale with refreshAt := some ((s.reach x).ms + 1000 * s.brd.refresh) }) (s.reach x)
    simp only [boardOnly_board, syncRow_brd, board]
    exact ⟨rfl, rfl, fun f => Vector.getElem_ofFn ..⟩
  · have inUse : (s.brd.boards[b]).inUse f = true := by simp only [Board.inUse, defined, used, decide_true]
    obtain ⟨content, stale⟩ := renderBoard_field defined used true s s
    rw [renderAll_board, content, stale]
    refine ⟨(fieldContent_forced inUse s s).trans ?_, rfl⟩
    cases (s.brd.boards[b]).entries[f] <;> rfl
  · intro blanks name ofZone since plan second value top bottom shown position row chars overMark flash code
    have numeric : s.numericValue e.source = value := by
      simp only [value]
      cases e.source with
      | zoneCount z => rfl
      | zoneDiff z =>
        have negated : -(s.behindValue z) = (s.shift.zoneCount[z] : Int) - (s.shift.planCount : Int) := by
          rw [State.behindValue]
          omega
        simp only [State.numericValue, negated]
        rfl
      | zoneDowntime z =>
        simp only [State.numericValue, sumOf_eq_sum]
        rfl
      | zonePace z =>
        simp only [State.numericValue, intOf_eq]
        rfl
      | oldestCallAge z =>
        simp only [State.numericValue, oldestAge_eq]
        rfl
      | lineActual => rfl
      | linePlan => rfl
      | lineTarget =>
        simp only [State.numericValue, plan, intOf_eq, Option.map_map]
        rfl
      | lineDiff => rfl
      | linePace =>
        simp only [State.numericValue, intOf_eq]
        rfl
      | shiftRemaining =>
        have left_ : s.shiftRemaining = (fun b : PlanBlock => max 0 (-(((s.shift.working : Int) - 600 * ((b.length.toNat : Int)
            - (((b.breaks.toList.take b.count.toNat).map fun x => x.length.toNat).sum : Nat))) / 600))) ∘ Plan.block :=
          funext fun p => shiftRemaining_eq s p
        simp only [State.numericValue, left_, plan, Option.map_map]
        rfl
      | clock => rfl
      | groupLevel g => rfl
      | groupWaiting g => rfl
      | zoneStatus z => rfl
      | stationStrip n c => rfl
      | text x => rfl
    have shows : ((s.numericValue e.source).map (displayed e.digits e.signed)).map Prod.fst = shown := by
      rw [numeric, Option.map_map]
      exact congrArg (fun g => Option.map g value) (funext fun v => displayed_fst ..)
    have over_ : bit ((((s.numericValue e.source).map (displayed e.digits e.signed)).map Prod.snd).getD false) = overMark := by
      simp only [overMark, ← shows, ← numeric]
      cases s.numericValue e.source with
      | none => rfl
      | some v =>
        simp only [Option.map_some, Option.getD_some, displayed_snd, Option.some_inj]
        by_cases same : v = (displayed e.digits e.signed v).1
        · rw [if_pos same, decide_eq_false (not_not.2 same)]; rfl
        · rw [if_neg same, decide_eq_true same]; rfl
    have characters : numberChars e.digits e.places (((s.numericValue e.source).map (displayed e.digits e.signed)).map Prod.fst) = chars := by
      rw [shows]
      refine numberChars_eq (fun none_ i => ?_) fun v some_ i => ?_
      · simp only [position, none_]
      · simp only [position, some_, digitChar, shownAt, Bool.or_eq_true, decide_eq_true_eq]
    have flashes (x : Bool) : 2 * bit (e.flash && x) = flash x := by
      simp only [flash]
      cases e.flash <;> cases x <;> rfl
    have names : s.nameChars = name := rfl
    have codes : s.stripCode = code := funext fun n => (stripCode_eq s n).trans rfl
    have none_ : flash false = 0 := if_neg (by simp)
    split
    · next z source =>
      simp only [State.render, source, State.flashes, flashes, names]
      cases s.zone z <;> rfl
    · next n c source =>
      simp only [State.render, source, State.strip, codes]
    · next x source =>
      simp only [State.render, source, names]
    · next z source =>
      rw [render_number (by simp [source]) (by simp [source]) (by simp [source]), over_, characters, flashes, source]
      simp only [State.flashes, none_, oldestName_eq, Nat.add_zero, names, ← numeric, source]
      rfl
    · next g source =>
      rw [render_number (by simp [source]) (by simp [source]) (by simp [source]), over_, characters, flashes, source]
      simp only [State.flashes, List.append_nil]
    · next g source =>
      rw [render_number (by simp [source]) (by simp [source]) (by simp [source]), over_, characters, flashes, source]
      simp only [State.flashes, List.append_nil]
    · next status strip text age level waiting =>
      have still : s.flashes e.source = false := by
        unfold State.flashes
        split
        · next z source => exact absurd source (status z)
        · next g source => exact absurd source (level g)
        · next g source => exact absurd source (waiting g)
        · rfl
      rw [render_number status strip text, over_, characters, flashes, still, none_]
      split
      · next z source => exact absurd source (age z)
      · rw [List.append_nil, Nat.add_zero]

end Sys2Proof.Machine
end
